-- ==== Sys2Proof/Word.lean ====
section
/-! DEFINITION. The word types of 00 R6 and the plainest arithmetic on them. -/

namespace Sys2Proof

/-- 8 bits (R6). -/
abbrev Byte := BitVec 8
/-- 16 bits (R6). -/
abbrev Half := BitVec 16
/-- 32 bits (R6). -/
abbrev Word := BitVec 32
/-- 64 bits (R6). -/
abbrev Quad := BitVec 64
/-- One bit per lane of a group; bit l is lane l (02 R24). -/
abbrev LaneMask := BitVec 32

/-- Number of lanes of a group (02 Table 2.1). -/
def laneCount : Nat := 32

/-- The lane numbers 0 to 31 in increasing order (00 R8). -/
def lanes : List Nat := List.range 32

/-- The lanes of a mask in increasing order (00 R8). -/
def lanesOf (m : LaneMask) : List Nat := lanes.filter fun l => m.getLsbD l

/-- The lowest lane of a mask, if it has one. -/
def lowestLane (m : LaneMask) : Option Nat := lanes.find? fun l => m.getLsbD l

/-- The mask that holds lane `l` alone. -/
def laneBit (l : Nat) : LaneMask := BitVec.ofNat 32 (2 ^ l)

/-- The mask of the lanes that satisfy `p`. -/
def maskOf (p : Nat → Bool) : LaneMask :=
  BitVec.ofNat 32 ((lanes.filter p).foldl (fun acc l => acc + 2 ^ l) 0)

end Sys2Proof
end

