-- ==== Sys2Proof/Syntax.lean ====
section
/-! DEFINITION. The instructions and events of the Dexip L9: one constructor of `Instr` for each row of
spec/opcode_table.json (17 R315 to R329, reference chapters 18 to 20, and the steps of file 95). -/

namespace Sys2Proof

/-- Operand fields of an A-word (17 Table 17.8). `srcB` is a format or selector code in CVT and UNPK (R325). -/
structure AOp where
  dst : Nat
  srcA : Nat
  srcB : Nat
  pred : Nat
  mm : Bool
  nwb : Bool
  deriving DecidableEq, Repr

/-- Conditions of ICMP.cc in opcode order 0x18 to 0x21 (19 Table 19.4). -/
inductive ICond where
  | eq | ne | lt | le | gt | ge | ltu | leu | gtu | geu
  deriving DecidableEq, Repr

/-- Conditions of FCMP.cc in opcode order (19 R375). -/
inductive FCond where
  | eq | ne | lt | le | gt | ge | un | or
  deriving DecidableEq, Repr

/-- Formats of CVT in the order of 17 Table 17.10. -/
inductive Fmt where
  | fp32 | fp16 | bf16 | t8 | t6 | int8 | int16 | int32 | fp64 | int64 | s20
  deriving DecidableEq, Repr

/-- Forms of SHFL (20 Table 20.4). -/
inductive ShflKind where
  | idx | up | dn | xor
  deriving DecidableEq, Repr

/-- Key orders of VSORT (12 R252). -/
inductive SortKind where
  | u | s | f
  deriving DecidableEq, Repr

/-- The second operand of a scalar instruction with a 12-bit immediate (17 Table 17.3, S). -/
inductive SArg12 where
  | reg (s : Nat)
  | imm (v : BitVec 12)
  | ext (v : BitVec 32)
  deriving DecidableEq, Repr

/-- The second operand of S.CMP (17 Table 17.3, SC). -/
inductive SArg9 where
  | reg (s : Nat)
  | imm (v : BitVec 9)
  | ext (v : BitVec 32)
  deriving DecidableEq, Repr

/-- Conditions of S.CMP (17 Table 17.4, CC). -/
inductive SCond where
  | eq | ne | lt | le | ltu | leu
  deriving DecidableEq, Repr

/-- Load sizes of the VM sub-format (19 Table 19.5). -/
inductive LdSize where
  | b | bs | h | hs | w | q | o
  deriving DecidableEq, Repr

/-- Store sizes, and the load sizes of scratchpad (17 R321). -/
inductive StSize where
  | b | h | w | q | o
  deriving DecidableEq, Repr

/-- Atomic operation index a of 17 Table 17.7. -/
inductive AtomOp where
  | add | and | or | xor | min | max | umin | umax | xchg | cas | fadd | fmin | fmax
  deriving DecidableEq, Repr

/-- VOTE modes (17 Table 17.4). -/
inductive VoteMode where
  | any | all | ballot
  deriving DecidableEq, Repr

/-- Fields of the VM sub-format (17 Table 17.3); `off` 63 means none; `ext` is the displacement word of LONE = 1. -/
structure VmOp where
  ord : Nat
  scope : Nat
  data : Nat
  sel : Nat
  off : Nat
  ext : Option (BitVec 32)
  deriving DecidableEq, Repr

/-- Fields of the SP sub-format (17 Table 17.3); `off` 31 means none. -/
structure SpOp where
  ord : Nat
  peer : Bool
  rank : Nat
  data : Nat
  sel : Nat
  off : Nat
  scope : Nat
  ext : Option (BitVec 32)
  deriving DecidableEq, Repr

/-- Fields of the SM sub-format but SZ (17 Table 17.3); `so` 31 means none. -/
structure SmOp where
  ord : Nat
  scope : Nat
  sd : Nat
  sel : Nat
  so : Nat
  ext : Option (BitVec 32)
  deriving DecidableEq, Repr

/-- Fields of the DA sub-format but Q (17 Table 17.3); `off` 124 means none. -/
structure DaOp where
  sel : Nat
  off : Nat
  ext : Option (BitVec 32)
  deriving DecidableEq, Repr

/-- Fields of the AC sub-format (17 Table 17.3). -/
structure AcOp where
  sel : Nat
  sn : Nat
  sd : Nat
  wt : Bool
  ext : Option (BitVec 32)
  deriving DecidableEq, Repr

/-- Fields of the CA sub-format (17 Table 17.3). -/
structure CapOp where
  dk : Bool
  d : Nat
  sk : Bool
  src : Nat
  v : Nat
  deriving DecidableEq, Repr

/-- Source of S.WSR (20 R429). -/
inductive WsrArg where
  /-- I = 0; IMM9 is not used and not marked zero (17 Table 17.3), so any value stands. -/
  | reg (s : Nat) (imm9 : BitVec 9)
  | imm (v : BitVec 9)
  | ext (v : BitVec 32)
  deriving DecidableEq, Repr

/-- Fields of MX.MMA (17 Table 17.11). -/
structure MmaOp where
  t : Nat
  pa : Nat
  swa : Nat
  pb : Nat
  swb : Nat
  s : Nat
  sa : Bool
  ca : Nat
  sb : Bool
  cb : Nat
  deriving DecidableEq, Repr

/-- Conditions of BR.T (17 Table 17.14). -/
inductive TCond where
  | al | z | nz | cle | ste | rmt | cnd | leaf
  deriving DecidableEq, Repr

/-- Conditions of T.CMP (17 Table 17.13). -/
inductive TCmp where
  | eq | ne | lt | ge | ltu | geu | flt | fge
  deriving DecidableEq, Repr

/-- What the boot sequencer finds outside the die (16 R300, R301; 01 R465, R18, R20): fuses, flash and training. -/
structure BootInput where
  /-- true: ZL9-120 (01 Table 1.1). -/
  sku120 : Bool
  /-- cluster enable fuses. -/
  clMask : BitVec 38
  /-- channel enable fuses. -/
  chFuse : BitVec 16
  /-- the 64-byte configuration table read from flash, and whether its signature verifies. -/
  table : List (BitVec 8)
  tableSigOk : Bool
  /-- the Ifeic image, its version and whether its signature verifies. -/
  image : List (BitVec 8)
  imageVer : BitVec 32
  imageSigOk : Bool
  /-- the boot sequencer's ROM, measured in M0 (R307). -/
  rom : List (BitVec 8)
  /-- channels that pass training (R18). -/
  trained : BitVec 16
  /-- the read-back of step 5 finds no uncorrectable error (R20). -/
  carveOk : Bool
  deriving DecidableEq, Repr

/-- AtomicOps that BAR2 accepts (16 R298). -/
inductive PcieOp where
  | fetchAdd | swap | cas
  deriving DecidableEq, Repr

/-- A UALink request of the paired card (16 R310). -/
inductive PeerReq where
  | read (addr : Nat) (len : Nat)
  | write (addr : Nat) (data : List (BitVec 8))
  | atomic (addr : Nat) (op : AtomOp) (size8 : Bool) (x : BitVec 64) (cmp : BitVec 64)
  deriving DecidableEq, Repr

/-- A DISPLAY command (16 R312). The spec lists what it names and gives no layout. -/
structure DisplayCmd where
  output : Nat
  timing : BitVec 64
  surface : Nat
  tenBit : Bool
  flip : Nat
  deriving DecidableEq, Repr

/-- Sub-query result of 48 bytes returned by the paired card (19 R378). -/
structure SubResult where
  thit : BitVec 32
  prim : BitVec 32
  u : BitVec 32
  v : BitVec 32
  status : Nat
  nodes : Nat
  aux : BitVec 64
  deriving DecidableEq, Repr

/-- One constructor per row of spec/opcode_table.json. -/
inductive Instr where
  -- C-words: control (17 Table 17.5)
  | nop
  | imm (v : BitVec 23)
  | sarg (s : Nat)
  | bra (cond s : Nat) (off : BitVec 16) (ext : Option (BitVec 32))
  | brc (inv : Bool) (m : Nat) (off : BitVec 16) (ext : Option (BitVec 32))
  | brx (v : Nat)
  | call (v : Nat) (off : BitVec 16) (ext : Option (BitVec 32))
  | ret (v : Nat)
  | jset (j : Nat)
  | join (j : Nat)
  | exit
  | rep (cnt len stride floor : Nat)
  | trap (code : BitVec 16)
  | bkpt
  | eret
  | fence (scope : Nat)
  -- scalar
  | sMov (sd sa : Nat)
  | sLi (sd : Nat) (hi : Bool) (v : BitVec 17) (ext : Option (BitVec 32))
  | sAdd (sd sa : Nat) (b : SArg12)
  | sSub (sd sa : Nat) (b : SArg12)
  | sMul (sd sa : Nat) (b : SArg12)
  | sAnd (sd sa : Nat) (b : SArg12)
  | sOr (sd sa : Nat) (b : SArg12)
  | sXor (sd sa : Nat) (b : SArg12)
  | sShl (sd sa : Nat) (b : SArg12)
  | sShr (sd sa : Nat) (b : SArg12)
  | sSra (sd sa : Nat) (b : SArg12)
  | sCmp (sd sa : Nat) (b : SArg9) (cc : SCond)
  | sRsr (s num : Nat)
  | sWsr (num : Nat) (b : WsrArg)
  | sLd (sz : Nat) (o : SmOp)
  | vbc (v s : Nat)
  | sxv (s v lane : Nat)
  | vote (mode : VoteMode) (s v : Nat)
  -- barriers, counters, copies
  | barInit (bar cnt sv : Nat) (ext : Option (BitVec 32))
  | barArv (bar : Nat)
  | barWait (bar : Nat) (p : Bool)
  | barArw (bar : Nat)
  | barTx (bar sv : Nat) (ext : Option (BitVec 32))
  | barRem (bar k : Nat)
  | acInit (o : AcOp)
  | acTake (o : AcOp)
  | acGive (o : AcOp)
  | acRead (o : AcOp)
  | acDrop (o : AcOp)
  | cpy (db : Nat)
  | cpyG (db off : Nat)
  | cpyS (db off : Nat)
  | sclCpy (db : Nat)
  -- capabilities
  | capBnd (o : CapOp)
  | capPrm (o : CapOp)
  | capOfs (o : CapOp)
  | capGet (o : CapOp) (fld : Nat)
  | capTst (o : CapOp)
  -- matrix side of groups
  | oclaim (slot cnt : Nat)
  | orel (slot cnt : Nat)
  | accLd (v sd q : Nat) (lone : Bool)
  | accSt (v sd q : Nat) (lone : Bool)
  -- engines and tasks
  | qlaunch (o : DaOp)
  | qtake (v cq : Nat)
  | selk (o : DaOp)
  | splat (o : DaOp)
  | inbox
  | commit
  | jobpost (q : Nat) (o : DaOp)
  -- memory
  | ld (sz : LdSize) (o : VmOp)
  | ldInv (sz : LdSize) (o : VmOp)
  | st (sz : StSize) (o : VmOp)
  | ldc (o : VmOp)
  | ldcSpair (o : SmOp)
  | stc (o : VmOp)
  | mwatch (o : VmOp)
  | mwait (o : VmOp)
  | cacheCln (o : DaOp)
  | cacheInv (o : DaOp)
  | tlbInv (sa sb : Nat)
  | atom (op : AtomOp) (z : Bool) (o : VmOp)
  | red (op : AtomOp) (z : Bool) (o : VmOp)
  | lds (sz : StSize) (o : SpOp)
  | sts (sz : StSize) (o : SpOp)
  | atoms (op : AtomOp) (o : SpOp)
  -- A-words (17 Table 17.9); `l` is the .L form, `d` the .D form, `u` the unsigned form
  | anop (pred : Nat)
  | iadd (l : Bool) (o : AOp)
  | isub (l : Bool) (o : AOp)
  | imul (l : Bool) (o : AOp)
  | imulh (u : Bool) (o : AOp)
  | imad (o : AOp)
  | iabs (o : AOp)
  | iand (o : AOp)
  | ior (o : AOp)
  | ixor (o : AOp)
  | ishl (l : Bool) (o : AOp)
  | ishr (l : Bool) (o : AOp)
  | isra (l : Bool) (o : AOp)
  | popc (o : AOp)
  | clz (o : AOp)
  | brev (o : AOp)
  | imin (u : Bool) (o : AOp)
  | imax (u : Bool) (o : AOp)
  | isel (k : Nat) (o : AOp)
  | icmp (cc : ICond) (o : AOp)
  | fadd (d : Bool) (o : AOp)
  | fsub (d : Bool) (o : AOp)
  | fmul (d : Bool) (o : AOp)
  | ffma (d : Bool) (o : AOp)
  | fmin (d : Bool) (o : AOp)
  | fmax (d : Bool) (o : AOp)
  | fabs (d : Bool) (o : AOp)
  | fcls (d : Bool) (o : AOp)
  | frcp (d : Bool) (o : AOp)
  | frsq (o : AOp)
  | fsqrt (d : Bool) (o : AOp)
  | fex2 (o : AOp)
  | flg2 (o : AOp)
  | fsin (o : AOp)
  | fcos (o : AOp)
  | fcmp (cc : FCond) (d : Bool) (o : AOp)
  | cvt (dst : Fmt) (o : AOp)
  | packH (o : AOp)
  | packBl (o : AOp)
  | packBh (o : AOp)
  | unpk (o : AOp)
  | dp4 (o : AOp)
  | dp4U (o : AOp)
  | dp4T8 (o : AOp)
  | mov (o : AOp)
  | shfl (k : ShflKind) (o : AOp)
  | qrot (o : AOp)
  | vsort (k : SortKind) (o : AOp)
  -- matrix stream words (17 Table 17.11)
  | mxNop
  | mxZero (t nr nc : Nat)
  | mxMma (o : MmaOp)
  | mxRec (t pa swa pb swb s : Nat)
  | mxProg (p : BitVec 56)
  | mxScl (t nr nc c : Nat)
  | mxWait (b : Nat)
  | mxArv (b : Nat)
  | mxRel (n m : Nat)
  | mxLoop (x count step : Nat) (off : BitVec 21)
  | mxEnd
  -- traversal words (17 Table 17.13)
  | nfetch (a : Nat)
  | ndec (a b : Nat)
  | boxt
  | trit (a : Nat)
  | tritImm (a : Nat) (m : BitVec 13)
  | dist (d a : Nat)
  | kcmp (d a : Nat)
  | hit
  | push (a : Nat)
  | pushCl
  | pop (d : Nat)
  | spill
  | fill
  | emit (a b : Nat)
  | handoff
  | brT (c : TCond) (a : Nat) (off : BitVec 18)
  | tMov (d a : Nat)
  | tMovImm (d : Nat) (m : BitVec 13)
  | tAdd (d a b : Nat)
  | tAddImm (d a : Nat) (m : BitVec 13)
  | tLd (d a b : Nat)
  | tLdImm (d a : Nat) (m : BitVec 13)
  | tEnd
  | tCmp (c : TCmp) (d a b : Nat)
  | tCmpImm (c : TCmp) (d a : Nat) (m : BitVec 13)
  -- host and link events
  | perstDeassert (b : BootInput)
  | configRequest
  | bar2PostedWrite (req : Nat) (relaxed : Bool) (addr : Nat) (data : List (BitVec 8))
  | bar2Read (req addr len : Nat)
  | bar2AtomicOp (op : PcieOp) (size8 : Bool) (addr : Nat) (x cmp : BitVec 64)
  | registerWrite (off : Nat) (v : BitVec 64)
  | peerRequest (r : PeerReq)
  | peerPortEvent (port : Nat) (up : Bool)
  | hbxQtailWrite (req q : Nat) (v : BitVec 64)
  | tornClear (q : Nat)
  | badentClear (q : Nat)
  | suspend (ctx : Nat)
  | endCtx (ctx : Nat)
  | resume (ctx : Nat)
  | ctxctlComplete
  | fltHeadWrite (v : BitVec 64)
  | resolve (req : Nat) (v : BitVec 64)
  | invalidation (v : BitVec 64)
  | invalidationComplete
  | fltRfcountClear (v : BitVec 64)
  -- mailbox commands (16 Table 16.5)
  | ctxcreate
  | ctxdestroy
  | memprot
  | attest
  | fwstage
  | fwcommit
  | fwabort
  | errlog
  | ident
  | display (d : DisplayCmd)
  | mailboxComplete
  -- power controller and timers
  | pwcBudgetWrite (v : BitVec 64)
  | pwcTjhotWrite (v : BitVec 64)
  | yield (bid : Nat)
  | swapOut (bid : Nat)
  | swapSave (bid : Nat)
  | noframeRetest (bid : Nat)
  | readmission (bid : Nat)
  | deckleAdjust (p tj : Nat)
  | clockGate (core part : Nat)
  | powerGate (core part : Nat)
  | ungate (core part : Nat)
  | hang (bid : Nat)
  | lostJoinRelease (gid : Nat)
  | watchReread (c : Nat)
  | timeout (c : Nat)
  | monitorReread (gid slot : Nat)
  | subqueryLost (thr idx : Nat)
  | cardReread (q : Nat)
  | thermalTrip (tj : Nat)
  | thermalTripExit (tj : Nat)
  | thermal (tj : Nat)
  -- Headbox
  | dispatchStep
  | tokenGrant
  | cardFetch (q : Nat)
  | signal (c : Nat)
  | chain (c : Nat)
  | copy (c : Nat)
  | watch (c : Nat)
  | task (c : Nat)
  | taskPost (c : Nat)
  | cardComplete (c : Nat)
  | retirement (bid : Nat)
  -- copies, faults, translation
  | segmentDelivery (cid : Nat)
  | fixupReplay (cid : Nat)
  | faultRecord
  | replay (gid slot : Nat)
  | pageWalk (core ctx va : Nat)
  -- coherence messages; `ag` is a pointer code of 08 R158, `line` a line index
  | readRequest (ag line : Nat)
  | ownRequest (core line : Nat) (data : Bool)
  | fillRequest (core line : Nat)
  | invalidationReceipt (ag line : Nat)
  | acknowledgement (core line : Nat)
  | ownCompletion (line : Nat)
  | recallLine (line : Nat)
  | writeBack (line : Nat)
  | evictionNotice (core line : Nat)
  | farReductionAccept (i : Nat)
  | farReductionApply (line : Nat)
  | homeTake (i : Nat)
  | homeGive (i : Nat)
  | recallResponse (i : Nat)
  -- engines
  | ssuCommandStart (cluster : Nat)
  | ssuComplete (cluster : Nat)
  | queryStart (core thread : Nat)
  | nodeCacheFill (cluster line : Nat)
  /-- `sctx` is the sending context, which the link names beside the message (16 R311). -/
  | subqueryReceive (core thread sctx : Nat) (msg : List (BitVec 64))
  | subqueryResult (thr idx : Nat) (r : SubResult)
  | streamFetch (bid : Nat)
  | firmwareError
  | verticalBlank (output : Nat)
  | jobpostResume (gid slot : Nat)
  | perstAssert
  | hostCompletion (id : Nat)
  | peerResponse (id : Nat) (bad : Bool)
  deriving DecidableEq, Repr

end Sys2Proof
end

