-- ==== Sys2Proof/Machine/Num.lean ====
section
/-! DEFINITION. Number formats and exact arithmetic (chapter 05): decoding, rounding, conversion. -/

namespace Sys2Proof.Machine

/-- Rounding modes of %fmt.RM (05 Table 5.5). -/
inductive RMode where
  | rne | rz | ru | rd
  deriving DecidableEq, Repr

def RMode.ofBits : Nat → RMode
  | 0 => .rne | 1 => .rz | 2 => .ru | _ => .rd

/-- A decoded number: `fin neg m e` is (−1)^neg × m × 2^e, and m = 0 is a signed zero. -/
inductive Num where
  | nan
  | inf (neg : Bool)
  | fin (neg : Bool) (m : Nat) (e : Int)
  deriving DecidableEq, Repr

/-- A binary format of 05 Table 5.1 with IEEE encoding: exponent and fraction widths. -/
structure FFmt where
  ebits : Nat
  fbits : Nat
  deriving DecidableEq, Repr

def fp64 : FFmt := ⟨11, 52⟩
def fp32 : FFmt := ⟨8, 23⟩
def fp16 : FFmt := ⟨5, 10⟩
def bf16 : FFmt := ⟨8, 7⟩
/-- S20 shares the IEEE layout but for its special values (05 Table 5.4). -/
def s20 : FFmt := ⟨8, 11⟩

namespace FFmt

def bias (f : FFmt) : Nat := 2 ^ (f.ebits - 1) - 1
/-- Exponent of the least subnormal. -/
def qmin (f : FFmt) : Int := 1 - (f.bias : Int) - f.fbits
def infBits (f : FFmt) : Nat := (2 ^ f.ebits - 1) * 2 ^ f.fbits
def signBit (f : FFmt) (neg : Bool) : Nat := if neg then 2 ^ (f.ebits + f.fbits) else 0
/-- The default NaN with sign 0 (R87). -/
def nanBits (f : FFmt) : Nat := f.infBits + 2 ^ (f.fbits - 1)

/-- The value of an IEEE encoding (05 Table 5.1); a signalling NaN is a NaN (R87). -/
def decode (f : FFmt) (b : Nat) : Num :=
  let neg := b / 2 ^ (f.ebits + f.fbits) % 2 == 1
  let x := b / 2 ^ f.fbits % 2 ^ f.ebits
  let n := b % 2 ^ f.fbits
  if x = 2 ^ f.ebits - 1 then (if n = 0 then .inf neg else .nan)
  else if x = 0 then .fin neg n f.qmin
  else .fin neg (2 ^ f.fbits + n) (f.qmin + (x - 1 : Nat))

end FFmt

/-- Whether a discarded part rounds the kept part up: `odd` is the kept part's last bit, `half` compares the discarded
part with one half, `exact` says that nothing is discarded (R93). -/
def roundUp (mode : RMode) (neg odd : Bool) (half : Ordering) (exact : Bool) : Bool :=
  match mode with
  | .rne => half == .gt || (half == .eq && odd)
  | .rz => false
  | .ru => !exact && !neg
  | .rd => !exact && neg

/-- ⌊m ÷ 2^k⌋ rounded in `mode`; `sticky` says that the true value is a little above m (less than one unit). -/
def roundShift (mode : RMode) (neg : Bool) (m k : Nat) (sticky : Bool) : Nat :=
  let q := m / 2 ^ k
  let r := m % 2 ^ k
  let half : Ordering :=
    if 2 * r < 2 ^ k then .lt else if 2 * r = 2 ^ k && !sticky then .eq else .gt
  if roundUp mode neg (q % 2 == 1) half (r == 0 && !sticky) then q + 1 else q

/-- Rounds (m + δ) × 2^e, 0 ≤ δ < 1 and δ > 0 exactly when `sticky`, into format `f` with IEEE overflow (R93).
With `sticky` the caller gives m enough bits that δ only matters as a sticky bit. -/
def FFmt.round (f : FFmt) (mode : RMode) (neg : Bool) (m : Nat) (e : Int) (sticky : Bool := false) : Nat :=
  if m = 0 && !sticky then f.signBit neg
  else
    let q : Int := max (e + Nat.log2 m - f.fbits) f.qmin
    let sig : Nat :=
      if q ≤ e then m * 2 ^ (e - q).toNat + (if sticky && (mode == .ru && !neg || mode == .rd && neg) then 1 else 0)
      else roundShift mode neg m (q - e).toNat sticky
    let bits := (q - f.qmin).toNat * 2 ^ f.fbits + sig
    if bits < f.infBits then f.signBit neg + bits
    else
      let toInf := match mode with
        | .rne => true
        | .rz => false
        | .ru => !neg
        | .rd => neg
      f.signBit neg + (if toInf then f.infBits else f.infBits - 1)

/-- Encodes a number in an IEEE format with one rounding (R87, R93). -/
def FFmt.encode (f : FFmt) (mode : RMode) : Num → Nat
  | .nan => f.nanBits
  | .inf neg => f.signBit neg + f.infBits
  | .fin neg m e => f.round mode neg m e

namespace Num

def isNan : Num → Bool
  | .nan => true
  | _ => false

def neg : Num → Num
  | .nan => .nan
  | .inf s => .inf !s
  | .fin s m e => .fin (!s) m e

def isZero : Num → Bool
  | .fin _ 0 _ => true
  | _ => false

/-- The signed integer value at exponent `e`, for `e` at most the number's own. -/
def scaled (s : Bool) (m : Nat) (x e : Int) : Int :=
  let v : Int := (m * 2 ^ (x - e).toNat : Nat)
  if s then -v else v

/-- Exact sum; the sign of an exact zero follows the mode (IEEE 754 6.3). -/
def add (mode : RMode) (a b : Num) : Num :=
  match a, b with
  | .nan, _ | _, .nan => .nan
  | .inf s, .inf t => if s = t then .inf s else .nan
  | .inf s, _ => .inf s
  | _, .inf t => .inf t
  | .fin s m e, .fin t n f =>
    let x := min e f
    let v := scaled s m e x + scaled t n f x
    if v = 0 then
      .fin (if m = 0 && n = 0 && s == t then s else mode == .rd) 0 0
    else .fin (decide (v < 0)) v.natAbs x

/-- Exact product. -/
def mul (a b : Num) : Num :=
  match a, b with
  | .nan, _ | _, .nan => .nan
  | .inf s, .inf t => .inf (s != t)
  | .inf s, .fin t n _ => if n = 0 then .nan else .inf (s != t)
  | .fin s m _, .inf t => if m = 0 then .nan else .inf (s != t)
  | .fin s m e, .fin t n f => .fin (s != t) (m * n) (e + f)

/-- IEEE comparison of two numbers that are not NaN; −0 equals +0. -/
def cmp (a b : Num) : Ordering :=
  match a, b with
  | .inf s, .inf t => compare (if s then 0 else 1) (if t then 0 else 1)
  | .inf s, _ => if s then .lt else .gt
  | _, .inf t => if t then .gt else .lt
  | .fin s m e, .fin t n f => compare (scaled s m e (min e f)) (scaled t n f (min e f))
  | _, _ => .eq

def sign : Num → Bool
  | .nan => false
  | .inf s => s
  | .fin s _ _ => s

/-- minimumNumber and maximumNumber (R100): `lo` true for the minimum. −0 ranks below +0. -/
def minmax (lo : Bool) (a b : Num) : Num :=
  if a.isNan then b
  else if b.isNan then a
  else
    match a.cmp b with
    | .lt => if lo then a else b
    | .gt => if lo then b else a
    | .eq => if a.sign == lo then a else b

/-- ⌊√n⌋ by bits from 2^(k−1) down. -/
def isqrtFrom (n : Nat) : Nat → Nat → Nat
  | 0, r => r
  | k + 1, r =>
    let r' := r + 2 ^ k
    isqrtFrom n k (if r' * r' ≤ n then r' else r)
def isqrt (n : Nat) : Nat := isqrtFrom n (Nat.log2 n / 2 + 1) 0

end Num

/-- Extra bits that make a quotient of a divisor of one bit, or a root, decide every rounding to 53 bits with a sticky
bit. -/
def guardBits : Nat := 128

/-- a ÷ b rounded once (used by FRCP and QROT). -/
def FFmt.div (f : FFmt) (mode : RMode) (a b : Num) : Nat :=
  match a, b with
  | .nan, _ | _, .nan => f.nanBits
  | .inf s, .fin t _ _ => f.encode mode (.inf (s != t))
  | .inf _, .inf _ => f.nanBits
  | .fin s _ _, .inf t => f.signBit (s != t)
  | .fin s m e, .fin t n x =>
    if n = 0 then (if m = 0 then f.nanBits else f.encode mode (.inf (s != t)))
    else
      let k := guardBits + n.log2
      let v := m * 2 ^ k
      f.round mode (s != t) (v / n) (e - x - k) (v % n != 0)

/-- √a (05 Table 5.7, FSQRT). -/
def FFmt.sqrt (f : FFmt) (mode : RMode) : Num → Nat
  | .nan => f.nanBits
  | .inf s => if s then f.nanBits else f.infBits
  | .fin s m e =>
    if m = 0 then f.signBit s
    else if s then f.nanBits
    else
      let odd := e % 2 == 1
      let m' := (if odd then 2 * m else m) * 2 ^ (2 * guardBits)
      let e' := (if odd then e - 1 else e) / 2 - guardBits
      let r := Num.isqrt m'
      f.round mode false r e' (r * r != m')

/-- 1 ÷ √a under RNE (05 Table 5.7, FRSQ). -/
def FFmt.rsqrt (f : FFmt) : Num → Nat
  | .nan => f.nanBits
  | .inf s => if s then f.nanBits else 0
  | .fin s m e =>
    if m = 0 then f.encode .rne (.inf s)
    else if s then f.nanBits
    else
      let odd := e % 2 == 1
      let m' := if odd then 2 * m else m
      let e' := (if odd then e - 1 else e) / 2
      let n := 2 ^ (2 * guardBits)
      let r := Num.isqrt (n / m')
      f.round .rne false r (-e' - guardBits) (r * r * m' != n)

/-- FCLS bit number (19 Table 19.2); it reads the bits as they stand (R374). -/
def FFmt.classBit (f : FFmt) (b : Nat) : Nat :=
  match f.decode b with
  | .nan => if b / 2 ^ (f.fbits - 1) % 2 = 1 then 9 else 8
  | .inf s => if s then 0 else 7
  | .fin s m _ =>
    if m = 0 then (if s then 3 else 4)
    else if m < 2 ^ f.fbits then (if s then 2 else 5)
    else if s then 1 else 6

/-- The ten conditions of FCMP.cc (R375). -/
def FCond.holds (c : FCond) (a b : Num) : Bool :=
  if a.isNan || b.isNan then c == .un || c == .ne
  else
    let o := a.cmp b
    match c with
    | .eq => o == .eq
    | .ne => o != .eq
    | .lt => o == .lt
    | .le => o != .gt
    | .gt => o == .gt
    | .ge => o != .lt
    | .un => false
    | .or => true

/-! ### Tapered formats (R88, R89, R94) -/

/-- A tapered format: magnitude bits, whether an exponent bit follows the regime, and the exponent of the least
positive value, of which every value is a multiple. -/
structure TFmt where
  mbits : Nat
  hasE : Bool
  emin : Nat
  deriving DecidableEq, Repr
def t8 : TFmt := ⟨7, true, 12⟩
def t6 : TFmt := ⟨5, false, 4⟩

/-- Number of leading bits of `mag` (`n` bits left to look at) that equal `b`. -/
def leadRun (mag : Nat) (b : Bool) : Nat → Nat
  | 0 => 0
  | n + 1 => if (mag / 2 ^ n % 2 == 1) = b then leadRun mag b n + 1 else 0

/-- The value of a magnitude other than 0, in units of 2^−emin (R88, R89). -/
def TFmt.magUnits (t : TFmt) (mag : Nat) : Nat :=
  let b := mag / 2 ^ (t.mbits - 1) % 2 == 1
  let m := leadRun mag b t.mbits
  let k : Int := if b then m - 1 else -m
  let left := t.mbits - 1 - m
  let nf := if t.hasE then left - 1 else left
  let e := if t.hasE && 1 ≤ left then mag / 2 ^ (left - 1) % 2 else 0
  let f := mag % 2 ^ nf
  let x : Int := (if t.hasE then 2 * k + e else k) + t.emin - nf
  (2 ^ nf + f) * 2 ^ x.toNat / 2 ^ (-x).toNat

def TFmt.decode (t : TFmt) (b : Nat) : Num :=
  let neg := b / 2 ^ t.mbits % 2 == 1
  let mag := b % 2 ^ t.mbits
  if mag = 0 then (if neg then .nan else .fin false 0 0)
  else .fin neg (t.magUnits mag) (-t.emin)

/-- A rounded result and whether it saturated (sets %satf, R96). -/
structure SatBits where
  bits : Nat
  sat : Bool := false
  deriving DecidableEq, Repr

/-- R94 and R95 for T8 and T6. -/
def TFmt.encode (t : TFmt) (mode : RMode) : Num → SatBits
  | .nan => { bits := 2 ^ t.mbits }
  | .inf s => { bits := (if s then 2 ^ t.mbits else 0) + 2 ^ t.mbits - 1, sat := true }
  | .fin s m e =>
    let x := e + t.emin
    let n := m * 2 ^ x.toNat
    let d := 2 ^ (-x).toNat
    let top := 2 ^ t.mbits - 1
    let sg := fun k : Nat => if k = 0 then 0 else (if s then 2 ^ t.mbits else 0) + k
    if t.magUnits top * d < n then { bits := sg top, sat := true }
    else
      let val := fun k : Nat => if k = 0 then 0 else t.magUnits k
      let lo := (List.range (top + 1)).foldl (fun acc k => if val k * d ≤ n then k else acc) 0
      if val lo * d = n then { bits := sg lo }
      else
        let half := compare (2 * n) ((val lo + val (lo + 1)) * d)
        { bits := sg (if roundUp mode s (lo % 2 == 1) half false then lo + 1 else lo) }

/-- R91: the value of an S20 encoding; the sign of zero is ignored. DEDUCED (log 84): a NaS is a NaN, in CVT too, where R98
names none. -/
def decodeS20 (b : Nat) : Num :=
  match s20.decode (b % 2 ^ 20) with
  | .nan | .inf _ => .nan
  | .fin s m e => .fin (s && m != 0) m e
/-- The canonical NaS. -/
def nasBits : Nat := 0x7F800
/-- R94 and R95 for S20. -/
def encodeS20 (mode : RMode) : Num → SatBits
  | .nan => { bits := nasBits }
  | .inf s => { bits := s20.signBit s + 0x7F7FF, sat := true }
  | .fin s m e =>
    if Num.cmp (.fin false m e) (s20.decode 0x7F7FF) = .gt then { bits := s20.signBit s + 0x7F7FF, sat := true }
    else
      let b := s20.round mode s m e
      { bits := if b % 2 ^ 19 = 0 then 0 else b }

/-! ### Integers -/

/-- An integer as a number. -/
def Num.ofInt (v : Int) : Num := .fin (decide (v < 0)) v.natAbs 0
/-- The signed value of the low n bits. -/
def signedOf (n b : Nat) : Int :=
  let x := b % 2 ^ n
  if x < 2 ^ (n - 1) then x else (x : Int) - 2 ^ n

/-- Rounds to an integer in the mode (R93). -/
def Num.toIntRounded (mode : RMode) (s : Bool) (m : Nat) (e : Int) : Int :=
  let v : Nat := if 0 ≤ e then m * 2 ^ e.toNat else roundShift mode s m (-e).toNat false
  if s then -(v : Int) else v

/-- R95 for an integer destination of n bits. -/
def encodeInt (n : Nat) (mode : RMode) : Num → SatBits
  | .nan => { bits := 0, sat := true }
  | .inf s => { bits := if s then 2 ^ (n - 1) else 2 ^ (n - 1) - 1, sat := true }
  | .fin s m e =>
    let v := Num.toIntRounded mode s m e
    if v > 2 ^ (n - 1) - 1 then { bits := 2 ^ (n - 1) - 1, sat := true }
    else if v < -(2 ^ (n - 1)) then { bits := 2 ^ (n - 1), sat := true }
    else { bits := (v % 2 ^ n).toNat }

/-! ### Conversion (R98, R366) -/

/-- The value of a source operand in format `f` (R86, R366). -/
def decodeFmt (f : Fmt) (b : Nat) : Num :=
  match f with
  | .fp64 => fp64.decode (b % 2 ^ 64)
  | .fp32 => fp32.decode (b % 2 ^ 32)
  | .fp16 => fp16.decode (b % 2 ^ 16)
  | .bf16 => bf16.decode (b % 2 ^ 16)
  | .t8 => t8.decode (b % 2 ^ 8)
  | .t6 => t6.decode (b % 2 ^ 6)
  | .s20 => decodeS20 b
  | .int8 => .ofInt (signedOf 8 b)
  | .int16 => .ofInt (signedOf 16 b)
  | .int32 => .ofInt (signedOf 32 b)
  | .int64 => .ofInt (signedOf 64 b)

/-- One conversion step that does not pass through FP32. -/
def encodeFmt (f : Fmt) (mode : RMode) (x : Num) : SatBits :=
  match f with
  | .fp64 => { bits := fp64.encode mode x }
  | .fp32 => { bits := fp32.encode mode x }
  | .fp16 => { bits := fp16.encode mode x }
  | .bf16 => { bits := bf16.encode mode x }
  | .t8 => t8.encode mode x
  | .t6 => t6.encode mode x
  | .s20 => encodeS20 mode x
  | .int8 => encodeInt 8 mode x
  | .int16 => encodeInt 16 mode x
  | .int32 => encodeInt 32 mode x
  | .int64 => encodeInt 64 mode x

/-- Conversions with S20 pass through FP32, one rounding at each step (R98). -/
def convert (src dst : Fmt) (mode : RMode) (b : Nat) : SatBits :=
  let x := decodeFmt src b
  if dst = .s20 && src != .fp32 then encodeS20 mode (fp32.decode (fp32.encode mode x))
  else encodeFmt dst mode x

/-! ### FP32 operations on words -/

def f32 (w : Word) : Num := fp32.decode w.toNat
def toF32 (mode : RMode) (x : Num) : Word := BitVec.ofNat 32 (fp32.encode mode x)
def f32Add (mode : RMode) (a b : Word) : Word := toF32 mode ((f32 a).add mode (f32 b))
def f32Sub (mode : RMode) (a b : Word) : Word := toF32 mode ((f32 a).add mode (f32 b).neg)
def f32Mul (mode : RMode) (a b : Word) : Word := toF32 mode ((f32 a).mul (f32 b))
/-- a × b + c with one rounding. -/
def f32Fma (mode : RMode) (a b c : Word) : Word := toF32 mode (((f32 a).mul (f32 b)).add mode (f32 c))
def f32Div (mode : RMode) (a b : Word) : Word := BitVec.ofNat 32 (fp32.div mode (f32 a) (f32 b))
def f32Sqrt (mode : RMode) (a : Word) : Word := BitVec.ofNat 32 (fp32.sqrt mode (f32 a))
/-- minimumNumber and maximumNumber on words; two NaNs give the default NaN. -/
def f32MinMax (lo : Bool) (a b : Word) : Word := toF32 .rne ((f32 a).minmax lo (f32 b))
/-- a < b under IEEE, false with a NaN. -/
def f32Lt (a b : Word) : Bool := FCond.holds .lt (f32 a) (f32 b)
def f32Le (a b : Word) : Bool := FCond.holds .le (f32 a) (f32 b)
def f32IsNan (a : Word) : Bool := (f32 a).isNan
def f32Zero : Word := 0
def f32One : Word := 0x3F800000
def f32Inf : Word := 0x7F800000
def f32NaN : Word := 0x7FC00000

/-- FP32 with −0 equal to +0 and NaN above +∞ (R252), as an integer key. -/
def sortKeyF (a : Word) : Int :=
  match f32 a with
  | .nan => 2 ^ 32
  | _ =>
    let m : Int := (a.toNat % 2 ^ 31 : Nat)
    if a.toNat / 2 ^ 31 = 1 then -m else m

end Sys2Proof.Machine
end

