-- ==== Sys2Proof/Config.lean ====
section
/-! DEFINITION. What an implementation fixes and the values the spec leaves open. An `opaque` constant has no value
that Lean can see, so a claim holds whatever it is. -/

namespace Sys2Proof.Config

/-- The `k`-th part of the `n`-th unspecified choice (00 R3); `n` comes from the field `free` of State. -/
opaque freeNat (n k : Nat) : Nat

/-- SHA-256, which 16 R307 to R309 name and do not define. -/
opaque sha256 (bytes : List Byte) : BitVec 256

/-- The RSA signature of an attestation report under the device key (16 R308). -/
opaque sign (bytes : List Byte) : List Byte

/-- Whether a firmware image's signature verifies (16 R309). -/
opaque verify (bytes : List Byte) : Bool

/-- The configuration space that a configuration request reads (16 R298, R300). -/
opaque configSpace : List Byte

/-- The identity public key and its certificate that IDENT writes (16 Table 16.5). -/
opaque identity : List Byte

/-- The version that an Ifeic image names (16 R309). -/
opaque imageVersion (bytes : List Byte) : Word

/-- The bytes of an error log as ERRLOG copies it, from each record's kind, address and clock (16 R306). -/
opaque errorLog (l : List (Nat × Nat × Nat)) : List Byte

/-- Field k of a DISPLAY descriptor: output, timing, surface, colour depth, flip word (16 R312). -/
opaque displayField (k : Nat) (bytes : List Byte) : Nat
/-- Where scan-out reads for a surface and the value of its flip word, and how many bytes for a timing (16 R312). -/
opaque scanBase (surface flip : Nat) : Nat
opaque scanSize (timing : Quad) (tenBit : Bool) : Nat

/-- The page table root and the trap vector that Ifeic sets for its own context (15 R290). -/
opaque fwRoot : Nat
opaque fwVector : Nat

/-- Result of FEX2, FLG2, FSIN or FCOS (kind 0 to 3) where the integer enclosure of Machine/Transcend.lean does not
decide the rounding; `x` is the operand. -/
opaque elementary (kind : Nat) (x : Word) : Word

/-- Clocks per second of the core clock divided by the number of units (14 Table 14.1): 1.5 GHz. -/
def clocksPerSecond : Nat := 1500000000

end Sys2Proof.Config
end

