-- ==== Sys2Proof/Machine/Tbl.lean ====
section
/-! DEFINITION. Sparse tables: lists of (key, value) pairs with keys strictly rising and no entry equal to the value
that an unlisted key has, so that equal tables are equal data. Memory, register files and every indexed unit use them. -/

namespace Sys2Proof.Machine

/-- A sparse table over natural keys. -/
abbrev Tbl (α : Type) := List (Nat × α)

namespace Tbl

variable {α : Type}

/-- The value at key `k`; `d` where none is listed. -/
def get (d : α) : Tbl α → Nat → α
  | [], _ => d
  | (k, v) :: r, n => if k = n then v else get d r n

/-- Whether key `k` is listed. -/
def has : Tbl α → Nat → Bool
  | [], _ => false
  | (k, _) :: r, n => k == n || has r n

/-- The table without key `k`. -/
def erase (t : Tbl α) (k : Nat) : Tbl α := t.filter fun p => p.1 != k

/-- Places a pair before the first larger key. -/
def insert (k : Nat) (v : α) : Tbl α → Tbl α
  | [] => [(k, v)]
  | (n, w) :: r => if k < n then (k, v) :: (n, w) :: r else (n, w) :: insert k v r

/-- Writes `v` at key `k`; writing the unlisted value removes the entry. -/
def set [DecidableEq α] (d : α) (t : Tbl α) (k : Nat) (v : α) : Tbl α :=
  if v = d then erase t k else insert k v (erase t k)

/-- The keys listed, rising in a well-formed table. -/
def keys (t : Tbl α) : List Nat := t.map (·.1)

/-- Applies `f` at key `k`. -/
def upd [DecidableEq α] (d : α) (t : Tbl α) (k : Nat) (f : α → α) : Tbl α := set d t k (f (get d t k))

/-- Canonical form: keys strictly rising, no entry equal to the unlisted value. -/
def wf [DecidableEq α] (d : α) : Tbl α → Bool
  | [] => true
  | (k, v) :: r => v != d && (r.all fun p => k < p.1) && wf d r

end Tbl
end Sys2Proof.Machine
end

