-- ==== Sys2Proof/WellFormed.lean ====
section
/-! DEFINITION. Which instructions an encoding admits: the field values of 17 Table 17.4, R322 to R329 and the
operand limits of the reference entries. Register alignment that 18 R335 applies after staggering is not here:
it is an issue-time check (Machine/Ops.lean). For an event, the ranges of its numbers. -/

namespace Sys2Proof

/-- A vector register field of a C-word: 0 to 119 (R317). -/
def vOk (v : Nat) : Bool := v < 120
/-- A group-scalar field: 0 to 23 (R317). -/
def sOk (s : Nat) : Bool := s < 24
/-- A group-scalar field in which 31 means none. -/
def sOrNone (s : Nat) : Bool := s < 24 || s == 31
/-- ORD and SCOPE (R132, R134): the scope is 0 to 4, and 0 when ORD is 0; `legal` lists the ORD values permitted. -/
def ordOk (legal : List Nat) (ord scope : Nat) : Bool :=
  legal.contains ord && scope < 5 && (ord != 0 || scope == 0)
/-- A VM operand record (R317, R319). -/
def VmOp.wf (legal : List Nat) (o : VmOp) : Bool :=
  ordOk legal o.ord o.scope && vOk o.data && o.sel < 32 && o.off < 64
def SpOp.wf (legal : List Nat) (o : SpOp) : Bool :=
  ordOk legal o.ord o.scope && vOk o.data && o.sel < 32 && o.off < 32 && o.rank < 4 && (o.peer || o.rank == 0)
def SmOp.wf (o : SmOp) : Bool :=
  ordOk [0, 1] o.ord o.scope && sOk o.sd && o.sel < 32 && sOrNone o.so
/-- A per-lane offset field: 0 to 119, or 124 for none. -/
def offOk (off : Nat) : Bool := off < 120 || off == 124
def DaOp.wf (o : DaOp) : Bool := o.sel < 32 && offOk o.off
/-- D or SRC of a CAP.* word: c0 to c29, or s-pair 0 to 11. -/
def capRefOk (k : Bool) (d : Nat) : Bool := if k then d < 12 else d < 30
/-- V as a value operand of CAP.BND, CAP.PRM, CAP.OFS. -/
def capValOk (k : Bool) (v : Nat) : Bool := if k then v % 4 == 0 && v / 4 < 24 else offOk v
/-- V as the destination of CAP.GET and CAP.TST. -/
def capDstOk (k : Bool) (v : Nat) : Bool := if k then v % 4 == 0 && v / 4 < 24 else v < 120
def CapOp.wfWrite (o : CapOp) : Bool := capRefOk o.dk o.d && capRefOk o.sk o.src && capValOk o.dk o.v
def CapOp.wfRead (o : CapOp) : Bool := o.d == 0 && capRefOk o.sk o.src && capDstOk o.dk o.v
def SArg12.wf : SArg12 → Bool
  | .reg s => sOk s
  | .imm _ => true
  | .ext _ => true
def SArg9.wf : SArg9 → Bool
  | .reg s => sOk s
  | .imm _ => true
  | .ext _ => true
/-- OFF must be zero when EXT holds the offset (17 Table 17.3, BA). -/
def brOffOk (off : BitVec 16) (ext : Option (BitVec 32)) : Bool := ext.isNone || off == 0
/-- SV of BAR.INIT and BAR.TX (17 Table 17.4). -/
def svOk (sv : Nat) (ext : Option (BitVec 32)) : Bool := sOrNone sv && (ext.isNone || sv == 31)

/-- Special registers that S.RSR may name (04 Table 4.7). -/
def rsrOk (num : Nat) : Bool := num < 14
/-- Special registers marked RW (04 Table 4.7). -/
def wsrOk (num : Nat) : Bool := [0x06, 0x07, 0x08, 0x0A, 0x0D].contains num

/-- How an A-word uses its operand codes (R323, R325, R327). -/
structure AShape where
  pairDst : Bool := false
  pairA : Bool := false
  pairB : Bool := false
  usesB : Bool := true
  readsDst : Bool := false
  deriving DecidableEq, Repr

/-- A source code of an A-word: any of 0 to 127, but no odd latch code in a pair position (R323). -/
def srcOk (pair : Bool) (c : Nat) : Bool := c < 128 && !(pair && (c == 121 || c == 123))
/-- A destination code: 0 to 119, or a latch where the form does not read its destination (R64, R323). -/
def dstOk (sh : AShape) (c : Nat) : Bool :=
  c < 120 || (c < 124 && !sh.readsDst && !(sh.pairDst && (c == 121 || c == 123)))
/-- The static checks of an A-word (R322 to R327); an unused source field holds 124. -/
def AOp.wf (sh : AShape) (o : AOp) : Bool :=
  dstOk sh o.dst && srcOk sh.pairA o.srcA && (if sh.usesB then srcOk sh.pairB o.srcB else o.srcB == 124)
    && o.pred < 4

def shTwo : AShape := {}
def shOne : AShape := { usesB := false }
def shAcc : AShape := { readsDst := true }
def shPair : AShape := { pairDst := true, pairA := true, pairB := true }
def shPairOne : AShape := { pairDst := true, pairA := true, usesB := false }
def shPairAcc : AShape := { pairDst := true, pairA := true, pairB := true, readsDst := true }
def shPairCmp : AShape := { pairA := true, pairB := true }
/-- VSORT: a register pair and no latch (20 R450). -/
def shSort : AShape := { pairDst := true, readsDst := true }
def shL (l : Bool) : AShape := if l then shPair else shTwo
def shD1 (d : Bool) : AShape := if d then shPairOne else shOne

/-- Format code of Table 17.10. -/
def Fmt.code : Fmt → Nat
  | .fp32 => 0 | .fp16 => 1 | .bf16 => 2 | .t8 => 3 | .t6 => 4 | .int8 => 5 | .int16 => 6 | .int32 => 7
  | .fp64 => 8 | .int64 => 9 | .s20 => 10

def Fmt.ofCode : Nat → Option Fmt
  | 0 => some .fp32 | 1 => some .fp16 | 2 => some .bf16 | 3 => some .t8 | 4 => some .t6 | 5 => some .int8
  | 6 => some .int16 | 7 => some .int32 | 8 => some .fp64 | 9 => some .int64 | 10 => some .s20
  | _ => none

/-- FP64 and INT64 stand in pairs (R62). -/
def Fmt.isPair : Fmt → Bool
  | .fp64 | .int64 => true
  | _ => false

/-- The shape of every A-word; `none` for the others. -/
def Instr.aShape : Instr → Option (AShape × AOp)
  | .iadd l o | .isub l o | .imul l o | .ishl l o | .ishr l o | .isra l o => some (shL l, o)
  | .imulh _ o | .iand o | .ior o | .ixor o | .imin _ o | .imax _ o | .isel _ o | .icmp _ o
  | .packH o | .shfl _ o | .qrot o => some (shTwo, o)
  | .imad o | .packBl o | .packBh o | .dp4 o | .dp4U o | .dp4T8 o => some (shAcc, o)
  | .iabs o | .popc o | .clz o | .brev o | .mov o | .frsq o | .fex2 o | .flg2 o | .fsin o | .fcos o =>
    some (shOne, o)
  | .fadd d o | .fsub d o | .fmul d o | .fmin d o | .fmax d o => some (shL d, o)
  | .ffma d o => some (if d then shPairAcc else shAcc, o)
  | .fabs d o | .fcls d o | .frcp d o | .fsqrt d o => some (shD1 d, o)
  | .fcmp _ d o => some (if d then shPairCmp else shTwo, o)
  | .cvt f o =>
    some ({ pairDst := f.isPair, pairA := (Fmt.ofCode o.srcB).any Fmt.isPair }, o)
  | .unpk o => some (shTwo, o)
  | .vsort _ o => some (shSort, o)
  | _ => none

/-- One microprogram operation (10 Table 10.8): its 14 bits. -/
def microOp (p : BitVec 56) (i : Nat) : Nat := p.toNat / 2 ^ (14 * i) % 2 ^ 14
/-- R403: OP below 7, DST below 3, S zero but for SELGT, NONE all zero. -/
def microOk (w : Nat) : Bool :=
  let op := w / 2 ^ 11
  op < 7 && w / 2 ^ 9 % 4 < 3 && (op == 6 || w % 8 == 0) && (op != 0 || w == 0)
/-- R219, R403: every operation is well formed and none follows a NONE. -/
def progOk (p : BitVec 56) : Bool :=
  (List.range 4).all (fun i => microOk (microOp p i)) &&
    (List.range 3).all fun i => microOp p i != 0 || microOp p (i + 1) == 0

/-- Register fields of a traversal word. -/
def tOk (t : Nat) : Bool := t < 16

/-- The well-formedness of every instruction and event. -/
def Instr.wf (i : Instr) : Bool :=
  match i with
  | .nop | .exit | .bkpt | .eret | .inbox | .commit | .imm _ | .trap _ => true
  | .sarg s => sOk s
  | .bra cond s off ext => cond < 3 && sOk s && (cond != 0 || s == 0) && brOffOk off ext
  | .brc _ m off ext => 1 ≤ m && m < 4 && brOffOk off ext
  | .brx v | .ret v => vOk v
  | .call v off ext => vOk v && brOffOk off ext
  | .jset j | .join j => j < 8
  | .rep cnt len stride floor => cnt < 256 && len < 8 && stride < 32 && floor < 120
  | .fence scope => scope < 5
  | .sMov sd sa => sOk sd && sOk sa
  | .sLi sd hi v ext => sOk sd && (if ext.isSome then v == 0 else !hi)
  | .sAdd sd sa b | .sSub sd sa b | .sMul sd sa b | .sAnd sd sa b | .sOr sd sa b | .sXor sd sa b
  | .sShl sd sa b | .sShr sd sa b | .sSra sd sa b => sOk sd && sOk sa && b.wf
  | .sCmp sd sa b _ => sOk sd && sOk sa && b.wf
  | .sRsr s num => sOk s && rsrOk num && (num != 0x0C || s % 2 == 0)
  | .sWsr num b => wsrOk num && (match b with | .reg s _ => sOk s | .imm _ => true | .ext _ => true)
  | .sLd sz o => sz < 4 && o.wf
  | .vbc v s => vOk v && sOk s
  | .sxv s v lane => sOk s && vOk v && lane < 32
  | .vote _ s v => sOk s && vOk v
  | .barInit bar cnt sv ext => bar < 64 && 1 ≤ cnt && cnt < 4096 && svOk sv ext
  | .barArv bar | .barWait bar _ | .barArw bar => bar < 64
  | .barTx bar sv ext => bar < 64 && svOk sv ext
  | .barRem bar k => bar < 64 && k < 4
  | .acInit o => o.sel < 32 && o.sn < 23 && o.sn % 2 == 0 && sOrNone o.sd && !o.wt
  | .acTake o => o.sel < 32 && o.sn < 31 && sOrNone o.sd
  | .acGive o => o.sel < 32 && o.sn < 31 && sOrNone o.sd && !o.wt
  | .acRead o => o.sel < 32 && o.sn == 31 && sOk o.sd && !o.wt
  | .acDrop o => o.sel < 32 && o.sn == 31 && sOrNone o.sd && !o.wt
  | .cpy db | .sclCpy db => db < 3
  | .cpyG db off => db < 3 && off < 120
  | .cpyS db off => db < 3 && offOk off
  | .capBnd o | .capPrm o | .capOfs o => o.wfWrite
  | .capGet o fld => o.wfRead && fld < 6
  | .capTst o => o.wfRead
  | .oclaim slot cnt | .orel slot cnt => slot < 32 && cnt < 32
  | .accLd v sd q lone | .accSt v sd q lone => vOk v && sOk sd && (if lone then q < 4096 else q < 2048)
  | .qlaunch o | .selk o | .splat o | .cacheCln o | .cacheInv o => o.wf
  | .qtake v cq => v < 113 && v % 8 == 0 && cq < 4
  | .jobpost q o => q < 32 && o.wf
  | .ld _ o => o.wf [0, 1]
  | .ldInv _ o | .mwatch o | .mwait o => o.wf [0]
  | .st _ o => o.wf [0, 2]
  | .ldc o => o.wf [0, 1] && o.data % 4 == 0
  | .ldcSpair o => o.wf && o.sd % 2 == 0
  | .stc o => o.wf [0, 2] && o.data % 4 == 0
  | .tlbInv sa sb => sOk sa && sOk sb
  | .atom _ _ o => o.wf [0, 1, 2, 3]
  | .red op _ o => o.wf [0, 2] && op != .xchg && op != .cas
  | .lds _ o => o.wf [0, 1]
  | .sts _ o => o.wf [0, 2]
  | .atoms _ o => o.wf [0, 1, 2, 3]
  | .anop pred => pred < 4
  | .isel k o => 1 ≤ k && k < 4 && o.wf shTwo
  | .cvt f o =>
    (Fmt.ofCode o.srcB).isSome && o.srcB != f.code &&
      o.wf { pairDst := f.isPair, pairA := (Fmt.ofCode o.srcB).any Fmt.isPair }
  | .unpk o => o.srcB < 12 && o.wf shTwo
  | .iadd .. | .isub .. | .imul .. | .imulh .. | .imad .. | .iabs .. | .iand .. | .ior .. | .ixor .. | .ishl ..
  | .ishr .. | .isra .. | .popc .. | .clz .. | .brev .. | .imin .. | .imax .. | .icmp .. | .fadd .. | .fsub ..
  | .fmul .. | .ffma .. | .fmin .. | .fmax .. | .fabs .. | .fcls .. | .frcp .. | .frsq .. | .fsqrt .. | .fex2 ..
  | .flg2 .. | .fsin .. | .fcos .. | .fcmp .. | .packH .. | .packBl .. | .packBh .. | .dp4 .. | .dp4U ..
  | .dp4T8 .. | .mov .. | .shfl .. | .qrot .. | .vsort .. =>
    match i.aShape with
    | some (sh, o) => o.wf sh
    | none => false
  | .mxNop | .mxEnd => true
  | .mxZero t nr nc => t < 128 && nr < 8 && nc < 16
  | .mxMma o =>
    o.t < 128 && o.pa < 32 && o.swa < 4 && o.pb < 32 && o.swb < 4 && o.s < 8 && o.ca < 4096 && o.cb < 4096 &&
      (o.sa || o.ca == 0) && (o.sb || o.cb == 0)
  | .mxRec t pa swa pb swb s => t < 128 && pa < 32 && swa < 4 && pb < 32 && swb < 4 && s < 8
  | .mxProg p => progOk p
  | .mxScl t nr nc c => t < 128 && nr < 8 && nc < 16 && c < 4096
  | .mxWait b | .mxArv b => b < 64
  | .mxRel n m => n < 32 && 1 ≤ m && m < 33
  | .mxLoop x count step _ => x < 4 && 1 ≤ count && count < 65536 && step < 32
  | .nfetch a | .trit a | .tritImm a _ => tOk a
  | .ndec a b => tOk a && tOk b
  | .boxt | .hit | .pushCl | .spill | .fill | .handoff | .tEnd => true
  | .dist d a | .kcmp d a => tOk d && tOk a
  | .push a => tOk a && a % 2 == 0
  | .pop d => tOk d && d % 2 == 0
  | .emit a b => tOk a && tOk b && b % 4 == 0
  | .brT c a _ => tOk a && (c == .z || c == .nz || a == 0)
  | .tMov d a => tOk d && tOk a
  | .tMovImm d _ => tOk d
  | .tAdd d a b | .tLd d a b | .tCmp _ d a b => tOk d && tOk a && tOk b
  | .tAddImm d a _ | .tLdImm d a _ | .tCmpImm _ d a _ => tOk d && tOk a
  | .perstDeassert _ | .configRequest | .bar2PostedWrite .. | .bar2Read .. | .bar2AtomicOp .. | .registerWrite ..
  | .peerRequest _ | .suspend _ | .endCtx _ | .resume _ | .ctxctlComplete | .fltHeadWrite _ | .resolve ..
  | .invalidation _ | .invalidationComplete | .fltRfcountClear _ | .ctxcreate | .ctxdestroy | .memprot | .attest
  | .fwstage | .fwcommit | .fwabort | .errlog | .ident | .mailboxComplete | .pwcBudgetWrite _
  | .pwcTjhotWrite _ | .deckleAdjust .. | .thermalTrip _ | .thermalTripExit _ | .thermal _ | .dispatchStep
  | .tokenGrant | .faultRecord | .firmwareError | .perstAssert | .hostCompletion .. | .peerResponse ..
  | .farReductionAccept _ | .homeTake _ | .homeGive _ | .recallResponse _ | .ownCompletion _ | .recallLine _
  | .writeBack _ | .farReductionApply _ => true
  | .peerPortEvent port _ => port < 2
  | .hbxQtailWrite _ q _ | .tornClear q | .badentClear q | .cardFetch q | .cardReread q => q < 32
  | .display d => d.output < 4
  | .verticalBlank o => o < 4
  | .yield _ | .swapOut _ | .swapSave _ | .noframeRetest _ | .readmission _ | .hang _ | .retirement _
  | .streamFetch _ | .lostJoinRelease _ | .watchReread _ | .timeout _ | .signal _ | .chain _ | .copy _
  | .watch _ | .task _ | .taskPost _ | .cardComplete _ | .segmentDelivery _ | .fixupReplay _ => true
  | .clockGate c p | .powerGate c p | .ungate c p => c < 152 && p < 4
  | .monitorReread _ k | .replay _ k | .jobpostResume _ k => k < 4
  | .subqueryLost _ j | .subqueryResult _ j _ => j < 4
  | .pageWalk core _ va => core < 152 && va < 2 ^ 57
  | .readRequest ag _ | .invalidationReceipt ag _ => ag < 190
  | .ownRequest core .. | .fillRequest core _ | .acknowledgement core _ | .evictionNotice core _ => core < 152
  | .ssuCommandStart c | .ssuComplete c | .nodeCacheFill c _ => c < 38
  | .queryStart c t | .subqueryReceive c t _ _ => c < 152 && t < 64

end Sys2Proof
end

