-- ==== Sys2Proof/Machine/State.lean ====
section
/-! DEFINITION. The state of the machine as plain data, its faults and refusals, and the state at reset. Each field
cites the rule that names it; INVENTORY.md lists them with their reset values. Tables (`Tbl`) are keyed by numbers:
a block by its number `bid`, group g of block b by the group number 32 × b + g, a core by its physical number. -/

namespace Sys2Proof.Machine

/-! ### Groups (02 to 04) -/

/-- One lane of one vector register with its tag bit (R59, R61). -/
structure VCell where
  val : Word := 0
  tag : Bool := false
  deriving DecidableEq, Repr

/-- A capability as held in a quad, an s-pair or memory: its 128 bits and its tag (R75). -/
structure Cap where
  bits : BitVec 128 := 0
  tag : Bool := false
  deriving DecidableEq, Repr

/-- What a split with WAIT = 2 or 3 waits for (03 Table 3.1). -/
inductive WaitFor where
  | none
  /-- BAR.WAIT of barrier `bar` until PHASE ≠ p (R349). -/
  | bar (bar : Nat) (p : Bool)
  /-- BAR.ARW: for the group's record on `bar` to complete, which then gives the phase to pass (R348). -/
  | arw (bar : Nat)
  /-- Behind a partial-arrival record on another barrier (R57); the bundle has not issued. -/
  | record
  /-- MWAIT (R396); the bundle is issued again when an event arrives. -/
  | mwait
  /-- AC.TAKE.W (R176). -/
  | take
  /-- INBOX with an empty inbox (R385). -/
  | inbox
  /-- JOBPOST on a full ring (R387). -/
  | jobpost (q : Nat)
  /-- AC.GIVE or AC.DROP, until what it sent has reached the home (R173, R466). -/
  | give
  /-- TLB.INV of a context over a range code and base, until its conditions hold (R443); `pages` are the pages of the entries
  that it has removed, each with its size. -/
  | tlbInv (ctx code base : Nat) (pages : List (Nat × Nat))
  /-- A memory word that has issued: for a held line, for its release, or behind the core's earlier request to its counter
  (R173, R466). -/
  | memory
  deriving DecidableEq, Repr

/-- The monitor of MWATCH (R395): the virtual lines named, the device-memory lines watched, the host and peer words
loaded with the values read, EV and OVER. -/
structure Monitor where
  vlines : List Nat := []
  lines : List Nat := []
  remote : List (Nat × Nat × Word) := []
  ev : Bool := false
  overflow : Bool := false
  deriving DecidableEq, Repr

/-- One lane of an instruction that has not finished: its saved address and operand (09 R189, R190); where it has
translated, its target and address, whether it goes in lane order (R190), which half of a 16-byte access remains (1 low,
2 high, 0 all of it; R114), and for a host or peer target its outstanding request and the answer to it. -/
structure ParkedLane where
  lane : Nat
  va : Nat
  data : List Word := []
  dest : Option (Nat × Nat) := none
  ord : Bool := false
  half : Nat := 0
  out : Option Nat := none
  ok : Bool := false
  err : Bool := false
  deriving DecidableEq, Repr

/-- The faults a parked split waits for, with its saved operands (R189 to R193). -/
structure Parked where
  lanes : List ParkedLane := []
  /-- Addresses of the fault records whose resolution the split awaits. -/
  pages : List Nat := []
  /-- Clock of the park on a fault (R195). -/
  since : Nat := 0
  /-- Lanes that met an uncorrectable error (R293). -/
  errs : LaneMask := 0
  /-- Held under R170: reduction fault log full. -/
  rflog : Bool := false
  /-- A bundle fetch rather than an access. -/
  fetch : Bool := false
  /-- The next issue goes on with some lane: a replay, or lanes that have translated. -/
  resolved : Bool := false
  deriving DecidableEq, Repr

/-- A C-word whose bundle has issued and which acts again or goes on later, at a replay (R190) or after its wait: its
word, Active lanes, MM bit and the group's vector registers as they stood at issue, and what the bundle's A-word gives:
register lanes by cell key, and whether it saturated. Both take effect with the C-word's end, and neither if it traps
then (R285). -/
structure Again where
  word : Instr
  active : LaneMask
  mm : Bool
  snap : Tbl VCell
  cells : List (Nat × VCell) := []
  sat : Bool := false
  deriving DecidableEq, Repr

/-- WAIT of 03 Table 3.1. -/
inductive Wait where
  | ready | parked | barrier | long
  deriving DecidableEq, Repr

/-- One split slot (03 Table 3.1, 09 Table 9.8, 20 R423). PC is bits [56:3] of the address. -/
structure Slot where
  occ : Bool := false
  pc : BitVec 54 := 0
  run : LaneMask := 0
  fmt : Word := 0
  age : Nat := 0
  wait : Wait := .ready
  waitFor : WaitFor := .none
  /-- Lanes not yet performed, and the fault record's number (R189, R191). -/
  unf : LaneMask := 0
  fid : Half := 0
  parked : Option Parked := none
  again : Option Again := none
  /-- Repetition: ACT, IDX, PASS (04 Table 4.3) and the operands of the REP. -/
  act : Bool := false
  idx : Nat := 0
  pass : Nat := 0
  repBody : BitVec 54 := 0
  repCnt : Nat := 0
  repLen : Nat := 0
  repStride : Nat := 0
  repFloor : Nat := 0
  /-- A breaker ended its REP pass, which goes on first (R272 rule 2). -/
  cont : Bool := false
  /-- R289: held while another split is in the handler. -/
  held : Bool := false
  /-- The home's answer to an AC.TAKE, taken when the bundle issues again (R174, R176). -/
  answer : Option Quad := none
  /-- Its AC.* waits in the core for an earlier request to the same counter: the key of the core's entry, and its place in
  issue order (R173). -/
  acTicket : Option (Nat × Nat) := none
  monitor : Monitor := {}
  /-- The words that its MWATCH has loaded so far: virtual address, target, physical address and value. -/
  watching : List (Nat × Nat × Nat × Word) := []
  deriving DecidableEq, Repr

/-- One join register (03 Table 3.2); DPC is bits [56:3]. -/
structure JoinReg where
  armed : Bool := false
  dpc : BitVec 54 := 0
  rank : Nat := 0
  fmt : Word := 0
  expected : LaneMask := 0
  arrived : LaneMask := 0
  deriving DecidableEq, Repr

/-- One deferral entry (R44, R54): WT 1 waits for PHASE ≠ p of `bar`, WT 2 completes a BAR.ARW on `bar`, whose record is
open while it covers the entry's lanes. -/
structure Deferral where
  owner : Nat
  pc : BitVec 54
  mask : LaneMask
  fmt : Word
  wt : Nat := 0
  p : Bool := false
  bar : Nat := 0
  deriving DecidableEq, Repr

/-- The partial-arrival record (R57, R348). -/
structure Partial where
  bar : Nat
  mask : LaneMask
  /-- BAR.REM: the gang rank addressed. -/
  rem : Option Nat := none
  deriving DecidableEq, Repr

/-- The current task of a group (13 R266). -/
structure TaskState where
  record : List Quad
  committed : Bool := false
  restart : BitVec 54 := 0
  pins : List Nat := []
  card : Nat := 0
  deriving DecidableEq, Repr

/-- One group of a resident block (02 R24 to R42). -/
structure Group where
  /-- Its group slot in its partition, 0 to 127 (02 Table 2.3, R272). -/
  gslot : Nat := 0
  /-- v0 to v119: key 32 × r + lane. -/
  vregs : Tbl VCell := []
  sregs : Tbl Quad := []
  /-- Tag of each s-pair (R83). -/
  stags : Tbl Bool := []
  slots : Tbl Slot := []
  joins : Tbl JoinReg := []
  /-- Deferral store, newest last (R44, R47). -/
  defer : List Deferral := []
  par : Option Partial := none
  ended : LaneMask := 0
  gstat : Quad := 0
  satf : Bool := false
  cause : Quad := 0
  epc : Quad := 0
  opthr : Word := 0x3B800000
  task : Option TaskState := none
  deriving DecidableEq, Repr

/-! ### Blocks (02, 10) -/

/-- Block states (02 Table 2.4). -/
inductive BlockPhase where
  | resident | swapped | draining | retired
  deriving DecidableEq, Repr

/-- The kernel descriptor (02 Table 2.2). -/
structure Desc where
  entry : Nat := 0
  tok : Nat := 0
  mxs : Bool := false
  fuse : Bool := false
  gang : Nat := 0
  nbar : Nat := 0
  scr : Nat := 0
  nreg : Nat := 0
  ngrp : Nat := 0
  stream : Nat := 0
  roles : Quad := 0
  fmt : Word := 0
  deriving DecidableEq, Repr

/-! ### Matrix engine (10) -/

/-- States of an operand slot (10 Table 10.3). -/
inductive SlotState where
  | empty | claimed | filled
  deriving DecidableEq, Repr

/-- Operand slot header (10 Table 10.3). -/
structure SlotHdr where
  st : SlotState := .empty
  stamp : Bool := false
  fmt : Nat := 0
  swz : Nat := 0
  deriving DecidableEq, Repr

/-- Sequencer STATE (10 Table 10.5). -/
inductive SeqState where
  | run | waitBar | fetchWait | done | fault
  deriving DecidableEq, Repr

/-- Loop counter lc0 to lc3 (10 Table 10.5). -/
structure LoopCtr where
  arm : Bool := false
  rem : Nat := 0
  deriving DecidableEq, Repr

/-- The matrix sequencer (10 Table 10.5). -/
structure Seq where
  st : SeqState := .run
  pc : Nat := 0
  fcode : Nat := 0
  wbar : Nat := 0
  sbase : Nat := 0
  ep : Quad := 0
  prog : BitVec 56 := 0
  lc : Tbl LoopCtr := []
  /-- The word fetched by STREAM_FETCH and not yet executed. -/
  word : Option Quad := none
  /-- K-steps of the current MX.MMA already performed. -/
  step : Nat := 0
  /-- The address and clock of the fetch fault that the sequencer waits on (R188, R195). -/
  fltPage : Option Nat := none
  fltSince : Nat := 0
  deriving DecidableEq, Repr

/-- Operand, accumulator and scale memory of a block with MXS = 1 (R205, R216, R218). -/
structure Matrix where
  opmem : Tbl Byte := []
  hdrs : Tbl SlotHdr := []
  acc : Tbl Word := []
  scale : Tbl (BitVec 20) := []
  seq : Seq := {}
  deriving DecidableEq, Repr

/-! ### Blocks -/

/-- One entry of the absent-arrival log (R201): arrivals, or a signed byte charge. -/
structure LogEntry where
  charge : Bool
  bar : Nat
  src : Nat
  count : Nat
  bytes : Int
  deriving DecidableEq, Repr

/-- A block from dispatch to retirement (02 R25 to R36). -/
structure Block where
  phase : BlockPhase := .retired
  no : Nat := 0
  /-- Blocks of the gang by rank; a single block lists itself. -/
  gangIds : List Nat := []
  ctx : Nat := 0
  card : Nat := 0
  descVa : Nat := 0
  desc : Desc := {}
  core : Nat := 0
  p0 : Nat := 0
  scratch : Tbl Byte := []
  /-- Scratchpad words that hold an uncorrectable error (R393). -/
  scrBad : Tbl Bool := []
  mx : Matrix := {}
  /-- Pending MEMERR with subcode ASYNC (R294). -/
  aerr : Bool := false
  /-- R196 step 1: no new issue; arrivals go to the log. -/
  stopped : Bool := false
  absLog : List LogEntry := []
  heldLog : List LogEntry := []
  frame : Option Nat := none
  /-- Unresolved faults and copy records counted in the frame (09 Table 9.6), and the core that the block left (R151). -/
  nflt : Nat := 0
  ncopy : Nat := 0
  leftCore : Nat := 0
  tsusp : Nat := 0
  /-- Clock of the most recent issue (R41), of the residency and of the hang timer (R297). -/
  lastIssue : Nat := 0
  hangFrom : Nat := 0
  /-- Clock since which a swapped block has been eligible and found no room (R41). -/
  eligibleFrom : Option Nat := none
  /-- Swap-out in progress: stopped and draining (R196); then its frame is written with STATE 1. -/
  swapping : Bool := false
  saved : Bool := false
  /-- Its frame has STATE 3: its log is still to be applied (R202). -/
  restoring : Bool := false
  /-- No frame was free (R197); chosen under R41 for the swapped gang with this rank 0. -/
  noframe : Bool := false
  yieldTo : Option Nat := none
  /-- Tokens held from Deckle (R204). -/
  tokens : Nat := 0
  /-- A sequencer fault or FRAMEBAD ended its card (R211, R202). -/
  poisoned : Bool := false
  deriving DecidableEq, Repr

/-! ### Device memory and coherence (06, 08) -/

/-- Directory STATE (08 Table 8.1). -/
inductive DirState where
  | i | s | x
  deriving DecidableEq, Repr

/-- A directory entry (08 Table 8.1). In pointer form `ptrs` lists the agents (R158); in coarse form `shr` holds one
bit per cluster. -/
structure DirEntry where
  st : DirState := .i
  coarse : Bool := false
  /-- XKIND: the owner is a CPE copy. -/
  cpe : Bool := false
  ptrs : List Nat := []
  shr : BitVec 38 := 0
  ctr : Bool := false
  deriving DecidableEq, Repr

/-- What a request in progress at the home does next (R160 to R168). -/
inductive TxnKind where
  /-- Own request: invalidations out, the requester collects acknowledgements (R161). -/
  | own (core : Nat) (data : Bool)
  /-- Read request served by recall (R162). -/
  | read (agent : Nat)
  /-- Fill request of the owner (R163). -/
  | fill (core : Nat)
  /-- Nothing: the queue waits for a CPE copy's write or for accepted reductions (R162, R168). -/
  | idle
  /-- A take on counter `pa` in its recall (R175). -/
  | counter (pa core n gid slot : Nat) (wait : Bool) (va ctx : Nat)
  deriving DecidableEq, Repr

/-- A message between the home and an L1, in transit. -/
inductive CohMsg where
  /-- Invalidation to `agent`, acknowledged to `dst`. -/
  | inv (agent dst : Nat)
  | ack (agent dst : Nat)
  /-- Recall of the owner; `down` keeps a shared copy. -/
  | recall (core : Nat) (down : Bool)
  /-- Completion of an own request. -/
  | completion (core : Nat)
  deriving DecidableEq, Repr

/-- The transaction in progress on a line with its messages, and the requests queued behind it (R160). -/
structure Txn where
  kind : TxnKind
  /-- ACKN of the grant, and acknowledgements received so far. -/
  ackn : Nat := 0
  acks : Nat := 0
  granted : Bool := false
  msgs : List CohMsg := []
  /-- Each with the number of accepted reductions that are to be applied before it (R168). -/
  queue : List (Nat × TxnKind) := []
  deriving DecidableEq, Repr

/-- One line of an L1 (06 R115, 08 R163). The data of its valid words is the coherent value; only dirty words hold data
of their own (`data`, keyed by byte of the line). -/
structure L1Line where
  owned : Bool := false
  valid : BitVec 32 := 0
  dirty : BitVec 32 := 0
  data : Tbl Byte := []
  /-- Watch bit of a monitor (R171). -/
  watch : Bool := false
  /-- Footprint pins held (R126). -/
  pins : Nat := 0
  /-- Order of use within its set: the least is the least recently used (R115). -/
  used : Nat := 0
  deriving DecidableEq, Repr

/-- What a write replaced while a card was running: the bytes from `pa` on and the tags of their granules, which an
invariant load's location may still give (R128). Or mappings of the context `moved` were removed, after which its physical
pages may be another's (R187). -/
structure OldBytes where
  pa : Nat
  bytes : List (BitVec 8)
  tags : List (Nat × Bool) := []
  moved : Option Nat := none
  deriving DecidableEq, Repr

/-- A far reduction sent to the home (R168, R421). -/
structure FarRed where
  pa : Nat
  op : AtomOp
  z : Bool
  operand : Quad
  rm : Nat
  scope : Nat
  va : Nat
  lane : Nat
  bid : Nat
  /-- The issuing context, %block and CARD field of Table 8.5. -/
  ctx : Nat := 0
  block : Nat := 0
  card : Nat := 0
  opc : Nat
  /-- Not 0: it met this fault, and waits for room in the reduction fault log (R169, R170). -/
  cause : Nat := 0
  deriving DecidableEq, Repr

/-- A unit message of an allowance counter in transit (R174, R175). -/
inductive CtrMsgKind where
  /-- TAKE of n by a split; `wait` is AC.TAKE.W. -/
  | take (n : Nat) (gid slot : Nat) (wait : Bool)
  /-- Units that an L1 returns of itself (R178). -/
  | give
  /-- What AC.GIVE or AC.DROP of a split sends; its result, or none where the home gives it. -/
  | sent (gid slot : Nat) (r : Option Quad)
  | recallResponse
  deriving DecidableEq, Repr
structure CtrMsg where
  pa : Nat
  core : Nat
  kind : CtrMsgKind
  /-- Units carried. -/
  units : Nat
  /-- Arrived: its units have joined RESERVE, and it waits in the line's queue. -/
  arrived : Bool := false
  /-- The address that a split named, in its context (R187). -/
  va : Nat := 0
  ctx : Nat := 0
  deriving DecidableEq, Repr

/-- A take on a counter's waiting list (R176): a split, the Headbox for a block's tokens, or the power controller. -/
inductive CtrWaiter where
  | split (gid slot : Nat)
  | headbox (card : Nat)
  /-- A swapped block or gang, by its rank 0, before re-admission (R202). -/
  | block (bid : Nat)
  | power
  deriving DecidableEq, Repr
structure CtrWait where
  who : CtrWaiter
  n : Nat
  deriving DecidableEq, Repr

/-- An access to host or peer memory on its link: a read or atomic of a split's lane, or a peer write not yet
answered (R155, R310). `tgt` is 1 for host memory, 2 for the paired card. -/
structure Pending where
  id : Nat
  tgt : Nat
  gid : Nat
  slot : Nat
  /-- The context and virtual address it was translated from (R187). -/
  ctx : Nat := 0
  va : Nat := 0
  /-- For a write: its address and bytes. -/
  write : Option (Nat × List (BitVec 8)) := none
  /-- For a reduction: what it does. -/
  red : Option FarRed := none
  /-- A write or reduction: the groups before whose next access it happens, and those that have since released, with the
  scope and the blocks of their gang (R133, R137). -/
  seen : List Nat := []
  released : List (Nat × Nat × List Nat) := []
  deriving DecidableEq, Repr

/-- An allowance table entry (R173). -/
structure Allow where
  ctx : Nat := 0
  allow : Nat := 0
  cap : Nat := 0
  /-- Order of use within the core's table: the least is the least recently used. -/
  used : Nat := 0
  deriving DecidableEq, Repr

/-- A cached leaf translation (R185): virtual page, page size in address bits, target and permissions. -/
structure Tlb where
  ctx : Nat
  size : Nat
  vpage : Nat
  ppage : Nat
  tgt : Nat
  r : Bool
  w : Bool
  x : Bool
  deriving DecidableEq, Repr

/-! ### Contexts, the fault unit and copies (09, 16) -/

/-- A context (16 Table 16.6). -/
structure Ctx where
  exist : Bool := false
  /-- Ifeic's own context on the firmware column (R39, R290). -/
  fw : Bool := false
  /-- Ended by EndContext (R292); destroyed later by CTXDESTROY. -/
  ended : Bool := false
  /-- HBX_CTXCTL END has completed for it (16 Table 16.5). -/
  endDone : Bool := false
  suspended : Bool := false
  ptroot : Nat := 0
  pool : Nat := 0
  stride : Nat := 0
  nframe : Nat := 0
  rflog : Nat := 0
  tvec : Nat := 0
  trarea : Nat := 0
  swapt : Nat := 30000
  pairctx : Nat := 0
  rfcount : Nat := 0
  nextFid : Nat := 0
  /-- Frames of the pool in use. -/
  frames : List Nat := []
  deriving DecidableEq, Repr

/-- The party that met a fault (09 Table 9.3). -/
inductive Party where
  | split (gid slot : Nat)
  | seq (bid : Nat)
  | copy (cid : Nat)
  | trp (thr : Nat)
  | ssu (cluster : Nat)
  | headbox (card : Nat)
  | none
  deriving DecidableEq, Repr

/-- A fault record (09 Table 9.4) with the party it holds. -/
structure FaultRec where
  va : Nat := 0
  cause : Nat := 0
  source : Nat := 0
  access : Nat := 0
  level : Nat := 0
  ctx : Nat := 0
  fid : Nat := 0
  block : Nat := 0
  card : Nat := 0
  pcore : Nat := 0
  group : Nat := 0
  slot : Nat := 0
  unf : LaneMask := 0
  party : Party := .none
  deriving DecidableEq, Repr

/-- The fault unit (09 Table 9.5, R192, R193). -/
structure FaultUnit where
  ringbase : Quad := 0
  ringsize : Quad := 6
  head : Quad := 0
  tail : Quad := 0
  resva : Quad := 0
  invva : Quad := 0
  invctl : Quad := 0
  rfsel : Quad := 0
  /-- Records not yet written to the ring, oldest first. -/
  held : List FaultRec := []
  /-- Faults not yet resolved. -/
  open_ : List FaultRec := []
  /-- Invalidations that are not complete (R187): context, range code, base, and the pages of the entries removed, each with
  its size. -/
  invalidating : List (Nat × Nat × Nat × List (Nat × Nat)) := []
  deriving DecidableEq, Repr

/-- One side of a copy: kind 0 global, 1 scratchpad, 2 operand slots, 3 scale memory; where row 0 starts (an address, an
offset, a slot or an entry), the stride, the starts of rows that a per-lane register gave (R363), and the blocks whose
scratchpad or matrix memory it is. -/
structure CopySide where
  kind : Nat
  start : Nat
  stride : Nat := 0
  rows : List Nat := []
  bids : List Nat := []
  deriving DecidableEq, Repr

/-- A fix-up range (R194, R200): its first segment's number and place, and its count; the clock since which its segments have
waited (R195); and, while it is replayed, the next of its segments. -/
structure FixRange where
  first : Nat
  count : Nat
  row : Nat
  off : Nat
  since : Nat := 0
  due : Option Nat := none
  deriving DecidableEq, Repr

/-- One CPE or Headbox copy (R194, R200, R361, R431). -/
structure Copy where
  /-- Issuing block, group and split slot; for a COPY card no block issues it. -/
  bid : Option Nat
  gid : Nat
  slot : Nat
  core : Nat
  /-- CPE slot 0 to 63, or Headbox channel. -/
  cslot : Nat
  ctx : Nat
  card : Nat
  /-- The 64-byte descriptor. -/
  quads : List Quad
  src : CopySide
  dst : CopySide
  /-- SWZ and EFMT of operand slots. -/
  swz : Nat := 0
  fmt : Nat := 0
  rowb : Nat
  nrow : Nat
  /-- The first segment not started: its number, row and byte. -/
  next : Nat := 0
  row : Nat := 0
  off : Nat := 0
  fix : List FixRange := []
  withdrawn : Bool := false
  bar : Option Nat := none
  /-- Global destination lines that the copy owns (R144), once for each segment that has still to write them. -/
  owned : List Nat := []
  /-- SCL.CPY: delivered bytes of words that are not whole yet, by their place from entry 0 (R218, R220). -/
  part : List (Nat × BitVec 8) := []
  deriving DecidableEq, Repr

/-! ### Headbox (13) -/

/-- Where a card stands (13 R258 to R264). -/
inductive CardPhase where
  /-- Its ring entry was in error, and is to be read again (R258). -/
  | entry
  /-- Its bytes are still to be read and checked. -/
  | fetch
  /-- Read, checked and due to run; at the head of its queue's service. -/
  | ready
  /-- Waiting for Deckle tokens for its next block or gang (R260). -/
  | tokens
  /-- Dispatching or dispatched; its queue has moved on when every block has left. -/
  | running
  /-- A WATCH card armed (R261). -/
  | armed
  /-- Of a context that has ended: its status ABORTED is still to be written (R292). -/
  | abort
  | done
  deriving DecidableEq, Repr

/-- A card the Headbox has read. Its sixteen quads are those read at R258. -/
structure Card where
  phase : CardPhase := .done
  ctx : Nat := 0
  va : Nat := 0
  queue : Nat := 0
  /-- It stands at the head of its queue's ring, not of the ready list. -/
  fromRing : Bool := false
  quads : List Quad := []
  /-- The capability of a DEV = 1 entry (13 Table 13.2). -/
  dev : Option Cap := none
  desc : Option Desc := none
  lcap : Cap := {}
  /-- Next block to dispatch, blocks dispatched and not yet retired. -/
  nextBlk : Nat := 0
  live : Nat := 0
  /-- S × TOK tokens held for the next block or gang. -/
  tokens : Nat := 0
  /-- It completes with this status, detail and information (13 Table 13.5). -/
  err : Option (Nat × Nat × Nat) := none
  /-- A sequencer fault or FRAMEBAD has stopped its dispatch (R211, R202). -/
  noMore : Bool := false
  /-- TASK: its records have been read; those not yet posted, in order; those posted and not retired; core that took the
  last one. -/
  recsRead : Bool := false
  unposted : List (List Quad) := []
  posted : Nat := 0
  lastCore : Option Nat := none
  /-- Records with the core that each goes to, not posted yet (R125, R265). -/
  assigned : List (Nat × List Quad) := []
  /-- COPY: the copy running on a channel. -/
  copy : Option Nat := none
  /-- WATCH: clock at which it was armed, clock of the last read. -/
  armedAt : Nat := 0
  lastRead : Nat := 0
  /-- A faulted card, descriptor or record read waits (R188). -/
  fltWait : Bool := false
  /-- Failed reads of the card, or of its ring entry, and the clock at which it is read again (R258). -/
  fails : Nat := 0
  rereadAt : Option Nat := none
  /-- From the dispatch of its first block to its completion: the position in the history of writes at that dispatch, and
  the locations that its blocks have read with LD.INV, as address, length and position then (R127, R128). -/
  since : Option Nat := none
  invs : List (Nat × Nat × Nat) := []
  /-- The status is written; successors still to be released (R257). -/
  succ : Option (List Nat) := none
  deriving DecidableEq, Repr

/-- One hardware queue (13 Table 13.1). -/
structure Queue where
  base : Quad := 0
  size : Quad := 4
  tail : Half := 0
  head : Half := 0
  en : Bool := false
  torn : Bool := false
  badent : Bool := false
  devpost : Bool := false
  prio : Nat := 0
  ctx : Nat := 0
  cur : BitVec 57 := 0
  /-- Ready list: cards released, by context and address (R259). -/
  ready : List (Nat × Nat) := []
  /-- Releases that wait for room in the ready list. -/
  waiting : List (Nat × Nat) := []
  /-- Cards of its ring that it has passed over, with the capability of a DEV = 1 entry and quad 0 (R259, R263). -/
  passed : List (Nat × Option Cap × Quad) := []
  /-- The card taken up from the head of the ready list, and the one from the head of the ring. -/
  rel : Option Nat := none
  card : Option Nat := none
  deriving DecidableEq, Repr

/-- HBX_CTXCTL (15 Table 15.4) and the rest of the Headbox. -/
structure Headbox where
  yield_ : Quad := 150000
  ctl : Quad := 0
  lastServed : Nat := 31
  /-- Rank 0 of the swapped gang in whose place a block or gang is being swapped out (R41). -/
  yieldFor : Option Nat := none
  /-- Deckle registers (13 Table 13.7). -/
  dklTarget : Nat := 0
  dklMax : Nat := 0
  dklMin : Nat := 128
  /-- A take on Deckle's list has waited at some time in this period (R271). -/
  waitedInPeriod : Bool := false
  deriving DecidableEq, Repr

/-! ### Engines (11, 12) -/

/-- A query record (11 R228) as QLAUNCH copied it, with its address, the launching block's number and NCAP. -/
structure QueryRec where
  ctx : Nat
  card : Nat
  block : Nat
  va : Nat
  quads : List Quad
  cap : Cap
  /-- Order of entry to the ingress queues (R226). -/
  entered : Nat := 0
  deriving DecidableEq, Repr

/-- The held wide node (R410). -/
structure WideNode where
  va : Nat
  bytes : List Byte
  deriving DecidableEq, Repr
/-- The held decoded node: its pointer, its decode descriptor (Table 11.8) and its bytes (R408). -/
structure DecNode where
  va : Nat
  desc : List Quad
  bytes : List Byte
  deriving DecidableEq, Repr

/-- A sub-query sent: index in its message, HANDOFF order, clock of sending, pointer and HITV shipped (R240, R378). -/
structure SubOut where
  idx : Nat
  ord : Nat
  sent : Nat
  ptr : Quad
  hit : List Word
  deriving DecidableEq, Repr

/-- One part of a query that has ended (R241): its status, AUX, HITV and node count. -/
structure QueryPart where
  status : Nat
  aux : Quad
  hit : List Word
  nodes : Nat
  deriving DecidableEq, Repr

/-- Thread states of a TRP. -/
inductive TrpPhase where
  | free | run
  /-- Waits for a translation fault to be resolved, at the word it will execute again. -/
  | fault
  /-- Its own part has ended; it waits for sub-query results and for room in its completion queue (R442). -/
  | ended
  deriving DecidableEq, Repr

/-- One TRP thread (11 Table 11.1). -/
structure Trp where
  phase : TrpPhase := .free
  ctx : Nat := 0
  card : Nat := 0
  block : Nat := 0
  t : Tbl Quad := []
  pc : Nat := 0
  o : List Word := []
  d : List Word := []
  tmin : Word := 0
  tmax : Word := 0
  /-- HITV: THIT, PRIM, U, V, and whether a hit is committed. -/
  hit : List Word := []
  hitValid : Bool := false
  /-- Stack, bottom first: entries of 128 bits. -/
  stk : List (BitVec 128) := []
  sd : Nat := 0
  cl : List (BitVec 128) := []
  ncap : Cap := {}
  rmt : Bool := false
  rmtPtr : Quad := 0
  /-- The candidate of TRIT: t, PRIM, U, V; CND is whether it stands. -/
  cand : Option (List Word) := none
  leaf : Bool := false
  wide : Option WideNode := none
  node : Option DecNode := none
  nodes : Nat := 0
  /-- The query record. -/
  quads : List Quad := []
  /-- Sub-queries outstanding (SUBQ is their number), results held with their HANDOFF order, and sub-queries sent. -/
  subs : List SubOut := []
  parts : List (Nat × QueryPart) := []
  sent : Nat := 0
  /-- The thread's own part, once ended. -/
  own : Option QueryPart := none
  /-- A sub-query of the paired card: quad 36 of its message, which its result repeats. -/
  echo : Option Quad := none
  /-- The line that the thread misses in the node cache and waits for (R238). -/
  miss : Option Nat := none
  fltPage : Option Nat := none
  /-- Order in which its query entered an ingress queue (R226). -/
  entered : Nat := 0
  deriving DecidableEq, Repr

/-- A completion record in a completion queue (11 R239). -/
structure CqRec where
  ctx : Nat
  words : List Quad
  deriving DecidableEq, Repr

/-- An SSU command (12 R243): its descriptor's address and capability, its block and %opthr at issue; once it runs, what
it still has to write. -/
structure SsuCmd where
  gid : Nat
  bid : Nat
  /-- %block, core, NBAR and SCR of its block. -/
  no : Nat := 0
  core : Nat := 0
  nbar : Nat := 0
  scrKib : Nat := 0
  ctx : Nat
  card : Nat
  va : Nat
  isSplat : Bool
  cap : Cap
  opthr : Word := 0
  started : Bool := false
  /-- Global writes by virtual address, scratchpad writes, status record offset, barrier and status record. -/
  glob : List (Nat × List (BitVec 8)) := []
  scr : List (Nat × List (BitVec 8)) := []
  sts : Nat := 0
  bar : Nat := 0
  record : List Quad := []
  /-- BAR or STS is out of range: nothing is written but a report (R245). -/
  report : Bool := false
  deriving DecidableEq, Repr

/-- A task record in a core's inbox (R265). -/
structure InboxRec where
  ctx : Nat
  descVa : Nat
  card : Nat
  quads : List Quad
  pins : List Nat := []
  deriving DecidableEq, Repr

/-! ### The device (01, 15, 16) -/

/-- Boot phases (16 R300): PERST# asserted, step 1, steps 2 to 6, and the two ends. -/
inductive BootPhase where
  | held | booting | loading | done | failed
  deriving DecidableEq, Repr

/-- One display output (16 R312). -/
structure Output where
  timing : Quad := 0
  surface : Nat := 0
  tenBit : Bool := false
  flip : Nat := 0
  /-- Bytes that scan-out last read. -/
  shown : List (BitVec 8) := []
  deriving DecidableEq, Repr

/-- What became of a request of the host or the peer. -/
inductive ReplyKind where
  | ok
  /-- The PCIe poisoned attribute, or a UALink response with an error. -/
  | bad
  /-- Request Retry Status (R300). -/
  | retry
  deriving DecidableEq, Repr
/-- A completion or response that the device returns. -/
structure Reply where
  kind : ReplyKind := .ok
  data : List (BitVec 8) := []
  deriving DecidableEq, Repr

/-- An error log record (16 R306): kind 1 corrected, 2 uncorrectable, 3 poison, 4 thermal, 5 link. -/
structure ErrRec where
  kind : Nat
  addr : Nat
  clock : Nat
  deriving DecidableEq, Repr

/-- Boot, firmware, host link, peer link and display (16). -/
structure Dev where
  boot : BootPhase := .held
  bootDone : Bool := false
  fail : Bool := false
  fwerr : Bool := false
  /-- Clock of the last deassertion of PERST#, and what the sequencer then reads. -/
  bootAt : Nat := 0
  bootIn : Option BootInput := none
  code : Nat := 0
  chmask : BitVec 16 := 0
  clmask : BitVec 38 := 0
  sku120 : Bool := false
  minver : Word := 0
  f : Nat := 0
  c : Nat := 0
  /-- WIDTH: two firmware columns (16 Table 16.3). -/
  wide : Bool := false
  fwcol : Nat := 0
  rolemap : Word := 0
  p : Nat := 512
  wmk : List (BitVec 256) := []
  wmkVer : Word := 0
  staged : Option (BitVec 256 × Word) := none
  cmd : Quad := 0
  /-- The mailbox command in progress: its work is still to be done (none), or the status it will complete with; and the
  content of a DISPLAY command. -/
  mbox : Option (Option Nat) := none
  mboxDisp : Option DisplayCmd := none
  arg0 : Quad := 0
  arg1 : Quad := 0
  fwref : Word := 0
  /-- What firmware has last read through the slice diagnostic port (R157, R304). -/
  diag : Quad := 0
  firewall : Bool := false
  errlog : List ErrRec := []
  /-- MSI-X messages posted, oldest first, by vector (16 R298). -/
  msi : List Nat := []
  /-- BAR2 posted writes not yet visible: requester, relaxed, address, data. -/
  posted : List (Nat × Bool × Nat × List (BitVec 8)) := []
  outputs : Tbl Output := []
  ports : BitVec 2 := 0
  winbase : Quad := 0
  winlim : Quad := 0
  /-- Replies of the device to the host and the peer: data returned, oldest first. -/
  replies : List Reply := []
  /-- Sub-query messages and results sent to the paired card, oldest first (19 R378, R379). -/
  peerOut : List (List Quad) := []
  deriving DecidableEq, Repr

/-- Power controller (16 Table 16.8). -/
structure Power where
  budget : Quad := 520
  tjhot : Quad := 95
  tjtrip : Quad := 105
  gate : Quad := 75000
  pgate : Quad := 1500000
  hang : Quad := 3000000000
  power : Quad := 0
  tj : Quad := 0
  trip : Bool := false
  /-- Clock since which Tj has been below the exit threshold of a trip. -/
  tripBelow : Option Nat := none
  /-- Shutdown at 120 °C: every clock is stopped (16 R314). -/
  stopped : Bool := false
  deriving DecidableEq, Repr

/-- Gating of one partition (R297). -/
inductive Gate where
  | on | clock | power
  deriving DecidableEq, Repr
structure Part where
  gate : Gate := .on
  /-- Clocks idle with a resident split. -/
  idle : Nat := 0
  deriving DecidableEq, Repr

/-- The latches of one issue port (R67) and its chain (R68 to R70). -/
structure Port where
  /-- Key 32 × k + lane. -/
  lat : Tbl Word := []
  written : BitVec 4 := 0
  owner : Option (Nat × Nat) := none
  pos : Nat := 0
  deriving DecidableEq, Repr

/-- A BAR.REM arrival on its way to barrier `bar` of block `bid`, from gang rank `src` (R348, R464). -/
structure RemArrival where
  bid : Nat
  bar : Nat
  src : Nat
  deriving DecidableEq, Repr

/-! ### The agenda and the bundle being issued -/

/-- Which agent moves next. -/
inductive Turn where
  /-- A port of a partition picks among its ready splits (R272); `skip` lists splits that are not ready yet. -/
  | port (core part port : Nat) (skip : List (Nat × Nat))
  /-- Both ports of a partition in one clock (R51, R272). -/
  | ports (core part : Nat)
  /-- The same for a memory word that performs only `n` of its accesses now (R114, R131). -/
  | portPart (core part port n : Nat)
  /-- A port and the sequencer of a block in one clock (R413). -/
  | portSeq (core part port bid : Nat)
  /-- A memory word that has issued and waits goes on (R466), or a TLB.INV whose conditions hold (R443). -/
  | goOn (gid slot : Nat)
  | seq (bid : Nat)
  /-- The TRP of a core issues a word (R226); `skip` lists threads that are not ready yet. -/
  | trp (core : Nat) (skip : List Nat)
  | event (i : Instr)
  | clock (n : Nat)
  /-- The i-th BAR.REM arrival under way reaches its block, or its log (R201, R348). -/
  | arrival (i : Nat)
  /-- The SSU of a cluster writes the i-th of the scratchpad words that its running command has still to write (R250). -/
  | ssuWrite (cluster i : Nat)
  /-- A slice gives up a line (R157). -/
  | sliceEvict (line : Nat)
  /-- Firmware reads the entry of a line through the slice diagnostic port (R157, R304). -/
  | sliceRead (line : Nat)
  /-- Memory errors: a sector of device memory, corrected or not (R112), a scratchpad word, and a sector of the paired
  card's memory that its responses report from now on, or no longer. -/
  | eccError (sector : Nat)
  | eccCorrected (pa : Nat)
  | scrError (bid word : Nat)
  | peerError (sector : Nat) (bad : Bool)
  /-- The boot sequencer goes on (R300). -/
  | bootStep
  /-- The host reads a BAR0 register (16 Table 16.1). -/
  | regRead (off : Nat)
  deriving DecidableEq, Repr

/-- What became of the bundle being issued. -/
inductive Out where
  /-- The split goes on to the next bundle. -/
  | advance
  /-- The C-word has set the program counter or ended the split. -/
  | jumped
  /-- A trap was taken. -/
  | trapped
  /-- The split stays at this bundle: parked, waiting or held; neither word has more to do now. -/
  | stay
  deriving DecidableEq, Repr

/-- The bundle being issued: the split, the bundle's address, the enabled lanes (R66), the MM bit, the carriers, the
operands of the split's group as they stood at issue (none: as they stand). -/
structure Issue where
  gid : Nat := 0
  slot : Nat := 0
  addr : Nat := 0
  active : LaneMask := 0
  mm : Bool := false
  imm : Option (BitVec 23) := none
  sarg : Option Nat := none
  port : Nat := 0
  snap : Option (Tbl VCell) := none
  out : Out := .advance
  /-- Words of memory C-words that replay a park take their lanes from UNF. -/
  replay : Bool := false
  /-- The issue-time checks of both words of the bundle have been made and passed (R286). -/
  checked : Bool := false
  /-- A memory word performs no more than this many accesses now (none: all). -/
  upTo : Option Nat := none
  /-- Two JOINs of one group on one register in one clock (R51): 1 the higher slot's, which only deposits; 2 the lower
  slot's, after it. -/
  joins : Nat := 0
  /-- The TRP thread that issues a traversal word: 64 × core + thread. -/
  thr : Nat := 0
  deriving DecidableEq, Repr

/-! ### The whole state -/

structure State where
  clock : Nat
  dev : Dev
  pwr : Power
  /-- Home copies of device memory (R107). -/
  mem : Tbl Byte
  /-- Tagged 16-byte granules, by address ÷ 16 (R81). -/
  mtags : Tbl Bool
  /-- 32-byte sectors that hold an uncorrectable error, by address ÷ 32 (R112). -/
  poison : Tbl Bool
  hostMem : Tbl Byte
  peerMem : Tbl Byte
  /-- Sectors of the paired card's memory whose reads are answered with an error (R310). -/
  peerBad : Tbl Bool
  /-- What writes have replaced while cards were running, oldest first (R128). -/
  hist : List OldBytes
  dirs : Tbl DirEntry
  /-- Lines resident in the L2 slices: key 1,024 × physical slice + set (R117). -/
  l2 : Tbl (List Nat)
  txns : Tbl Txn
  /-- L1 lines: key 256 × line + core. -/
  lines : Tbl L1Line
  /-- Lines of the L1 instruction caches, as filled, and for which context: key 256 × line + core (R115). -/
  icache : Tbl (Nat × List (BitVec 8))
  /-- Far reductions sent and not yet accepted, and those accepted per line (R168). -/
  farSent : List FarRed
  farQ : Tbl (List FarRed)
  /-- Counter messages in transit, waiting lists by counter line address ÷ 64, allowances by 256 × that + core. -/
  ctrMsgs : List CtrMsg
  ctrWait : Tbl (List CtrWait)
  allows : Tbl Allow
  /-- Cores that have left (R166). -/
  left : Tbl Bool
  /-- Node cache lines present: key 64 × line + cluster; true: poisoned (R242). -/
  ncache : Tbl (Option Bool)
  /-- Order of use of the lines of the node caches, by the same key. -/
  ncUsed : Tbl Nat
  fused : Tbl (Option Nat)
  /-- L1 TLBs by core and L2 TLBs by cluster (R185). -/
  l1tlb : Tbl (List Tlb)
  l2tlb : Tbl (List Tlb)
  ctxs : Tbl Ctx
  flt : FaultUnit
  copies : Tbl Copy
  hbx : Headbox
  queues : Tbl Queue
  cards : Tbl Card
  blks : Tbl Block
  grps : Tbl Group
  ports : Tbl Port
  parts : Tbl Part
  inbox : Tbl (List InboxRec)
  /-- TRP threads (key 64 × core + thread), ingress queues and completion queues (key 4 × cluster + queue). -/
  trps : Tbl Trp
  ingress : Tbl (List QueryRec)
  cqs : Tbl (List CqRec)
  ssus : Tbl (List SsuCmd)
  /-- Host and peer accesses that wait for their completion. -/
  pending : List Pending
  arrivals : List RemArrival
  agenda : List Turn
  issue : Issue
  /-- Numbers given so far to blocks, cards, copies and queries, and free values taken so far (the model's own fields). -/
  ids : Nat
  free : Nat
  deriving DecidableEq, Repr

/-- Why a step can stop. No rule of the spec makes the machine stop. -/
inductive Fault where
  /-- Raised by `step` alone, when the agenda names an instruction word as an event; safe: no such event exists. -/
  | notAnEvent
  deriving DecidableEq, Repr

/-- Why an instruction has no meaning. -/
inductive Refusal where
  /-- Raised by the arm of an instruction that is not modelled yet; safe. -/
  | notModelled (mnemonic : String)
  deriving DecidableEq, Repr

/-- Right after reset, PERST# asserted (16 R300). -/
def State.reset : State :=
  { clock := 0, dev := {}, pwr := {}, mem := [], mtags := [], poison := [], hostMem := [], peerMem := [], peerBad := [],
    hist := [], dirs := [], l2 := [], txns := [], lines := [], icache := [], farSent := [], farQ := [], ctrMsgs := [], ctrWait := [], allows := [],
    left := [], ncache := [], ncUsed := [], fused := [], l1tlb := [], l2tlb := [], ctxs := [], flt := {}, copies := [], hbx := {},
    queues := [], cards := [], blks := [], grps := [], ports := [], parts := [], inbox := [], trps := [],
    ingress := [], cqs := [], ssus := [], pending := [], arrivals := [], agenda := [], issue := {}, ids := 0, free := 0 }

/-- The answer of every meaning. -/
abbrev Res := Host.Outcome State Fault Refusal

end Sys2Proof.Machine
end

