-- ==== Sys2Proof/Machine/Mem.lean ====
section
/-! DEFINITION. Device memory as the agents see it (06, 08): the coherent value of a byte, home reads and writes, the
L1 transactions that a load and a store make, tags and uncorrectable errors. -/

namespace Sys2Proof.Machine.State

/-! ### Free values -/

/-- The `k`-th part of the next unspecified choice (00 R3). -/
def freeNat (s : State) (k : Nat) : Nat := Config.freeNat s.free k
def freeBit (s : State) (k : Nat) : Bool := s.freeNat k % 2 == 1
/-- One element of a list where the spec does not say which. -/
def choose {α : Type} (s : State) (k : Nat) : List α → Option α
  | [] => none
  | [a] => some a
  | l => l[s.freeNat k % l.length]?
/-- The next choice is a new one. -/
def tick (s : State) : State := { s with free := s.free + 1 }

/-! ### Layout (06 R107 to R111) -/

def mib : Nat := 2 ^ 20
/-- Channels in service. -/
def channels (s : State) : Nat := (List.range 16).countP fun i => s.dev.chmask.getLsbD i
/-- End of protected memory. -/
def protEnd (s : State) : Nat := 15 * s.channels * s.dev.p * mib
/-- Usable capacity U (R108). -/
def usable (s : State) : Nat := s.protEnd + 16 * s.channels * (512 - s.dev.p) * mib
/-- End of the firmware region, granules 0 to F − 1 (R109). -/
def fwEnd (s : State) : Nat := 15 * s.channels * s.dev.f * mib
/-- End of the carve-out, granules 0 to C − 1 (R109). -/
def carveEnd (s : State) : Nat := 15 * s.channels * s.dev.c * mib
/-- Whether memory tags exist for this address (R111). -/
def hasTags (s : State) (pa : Nat) : Bool := s.fwEnd ≤ pa && pa < s.carveEnd

/-! ### L2 slices (01 R11, R18, R465, 06 R113, R117) -/

/-- The physical slices in service, in increasing order: channel c has slices 4c to 4c + 3, mapped out with it. -/
def slices (s : State) : List Nat :=
  ((List.range 16).filter fun c => s.dev.chmask.getLsbD c).flatMap fun c => (List.range 4).map (4 * c + ·)
/-- The number of a line's home slice among those in service. -/
def homeIndex (s : State) (line : Nat) : Nat := line % (4 * s.channels)
/-- The physical home slice of a line, and the channel that holds the line. -/
def homeSlice (s : State) (line : Nat) : Nat := s.slices.getD (s.homeIndex line) 0
def channelOf (s : State) (line : Nat) : Nat := s.homeSlice line / 4
/-- The set of its home slice in which a line is resident. DESIGN CHOICE (log 73): the spec gives no set index. -/
def l2Key (s : State) (line : Nat) : Nat := 1024 * s.homeSlice line + line / (4 * s.channels) % 1024

/-! ### The coherent value (07 R139) -/

def lineOf (pa : Nat) : Nat := pa / 128
def lineKey (line core : Nat) : Nat := 256 * line + core % 256

def l1 (s : State) (core line : Nat) : L1Line := Tbl.get {} s.lines (lineKey line core)
def setL1 (s : State) (core line : Nat) (l : L1Line) : State :=
  { s with lines := Tbl.set {} s.lines (lineKey line core) l }
def dir (s : State) (line : Nat) : DirEntry := Tbl.get {} s.dirs line
def setDir (s : State) (line : Nat) (d : DirEntry) : State := { s with dirs := Tbl.set {} s.dirs line d }

/-- The L1 that holds word `w` of `line` dirty, if one does. -/
def dirtyAt (s : State) (line w : Nat) : Option L1Line :=
  (s.lines.find? fun p => p.1 / 256 == line && p.2.dirty.getLsbD w).map (·.2)

/-- The value of a byte of device memory in its coherence order (R139): the owner's dirty word, else the home's. -/
def peek (s : State) (pa : Nat) : Byte :=
  match s.dirtyAt (lineOf pa) (pa % 128 / 4) with
  | some l => Tbl.get 0 l.data (pa % 128)
  | none => Tbl.get 0 s.mem pa

def peekBytes (s : State) (pa n : Nat) : List Byte := (List.range n).map fun i => s.peek (pa + i)
def homeBytes (s : State) (pa n : Nat) : List Byte := (List.range n).map fun i => Tbl.get 0 s.mem (pa + i)

/-- The number in `n` bytes, little-endian (R5). -/
def leNum : List Byte → Nat
  | [] => 0
  | b :: r => b.toNat + 256 * leNum r
def toLe : Nat → Nat → List Byte
  | 0, _ => []
  | n + 1, v => BitVec.ofNat 8 v :: toLe n (v / 256)

/-- Writes bytes to a sparse byte table. -/
def putBytes (m : Tbl Byte) (a : Nat) : List Byte → Tbl Byte
  | [] => m
  | b :: r => putBytes (Tbl.set 0 m a b) (a + 1) r

/-! ### Errors and tags -/

/-- A sector of a protected granule holds an uncorrectable error (R112). -/
def sectorBad (s : State) (q : Nat) : Bool := Tbl.get false s.poison q && 32 * q < s.protEnd
/-- The sectors that the range [pa, pa + n) touches. -/
def sectorsOf (pa n : Nat) : List Nat := (List.range ((pa + n - 1) / 32 + 1 - pa / 32)).map (pa / 32 + ·)
/-- Some byte of the range lies in a sector with an uncorrectable error. -/
def bad (s : State) (pa n : Nat) : Bool := (sectorsOf pa n).any s.sectorBad

/-- Erases the keys from `k` on, `n` of them, for which `p` holds. -/
def eraseRange {α : Type} (p : Nat → Bool) (t : Tbl α) (k n : Nat) : Tbl α :=
  (List.range n).foldl (fun t i => if p (k + i) then Tbl.erase t (k + i) else t) t

/-- A write of [pa, pa + n) clears the error of each sector that it supplies whole (R112). -/
def clearBad (s : State) (pa n : Nat) : State :=
  let whole := fun q : Nat => pa ≤ 32 * q && 32 * q + 32 ≤ pa + n
  { s with poison := eraseRange whole s.poison (pa / 32) ((pa + n) / 32 + 1 - pa / 32) }

/-- Any write of a byte clears its granule's tag (R81). -/
def clearTags (s : State) (pa n : Nat) : State :=
  { s with mtags := eraseRange (fun _ => true) s.mtags (pa / 16) ((pa + n - 1) / 16 + 1 - pa / 16) }

/-- Adds a record to the error log, which keeps the last 256 (16 R306). -/
def logRecord (s : State) (kind addr : Nat) : State :=
  let l := s.dev.errlog ++ [{ kind, addr, clock := s.clock : ErrRec }]
  { s with dev := { s.dev with errlog := l.drop (l.length - 256) } }
/-- Posts an MSI-X message (16 R298). -/
def postMsi (s : State) (v : Nat) : State := { s with dev := { s.dev with msi := s.dev.msi ++ [v] } }
/-- Logs an uncorrectable error and posts the error vector (R291, R306). -/
def logError (s : State) (pa : Nat) : State := (s.logRecord 2 pa).postMsi 1
/-- Logs that data in error goes on with a mark of poison: into a node cache (11 R242), or as a host read's completion (R291).
DESIGN CHOICE, log 101. -/
def logPoison (s : State) (pa : Nat) : State := s.logRecord 3 pa
/-- Logs each sector of a list whose error a merge of part of it has left in place (R112). -/
def logSectors (s : State) (qs : List Nat) : State := (qs.filter s.sectorBad).foldl (fun s q => s.logError (32 * q)) s

/-! ### Values that writes replace (R128) -/

/-- What a write of [pa, pa + n) replaces is kept while a card is running. -/
def noteWrite (s : State) (pa n : Nat) : State :=
  if s.cards.any fun p => p.2.since.isSome then
    let tags := (List.range ((pa + n - 1) / 16 + 1 - pa / 16)).map fun i => (pa / 16 + i, Tbl.get false s.mtags (pa / 16 + i))
    { s with hist := s.hist ++ [{ pa, bytes := s.peekBytes pa n, tags }] }
  else s
/-- Mappings of a context have been removed: what its pages hold from now on may be another's (R187). -/
def noteMoved (s : State) (ctx : Nat) : State :=
  if s.cards.any fun p => p.2.since.isSome then { s with hist := s.hist ++ [{ pa := 0, bytes := [], moved := some ctx }] } else s
/-- The position from which on a context may be given what a location has held: the card's dispatch, or the last removal of
another context's mappings, whose page it may have been (R3, R128, R187). -/
def heldFrom (s : State) (since : Option Nat) (ctx : Nat) : Nat :=
  let lo := since.getD s.hist.length
  (List.range s.hist.length).foldl
    (fun m i => if (s.hist[i]?.bind (·.moved)).any (· != ctx) then max m (i + 1) else m) lo
/-- The first write from position `m` on that replaced what `f` looks for gives its value then; none: it has not changed. -/
def heldAt {α : Type} (s : State) (m : Nat) (f : OldBytes → Option α) : Option α := (s.hist.drop m).findSome? f
/-- A byte, and the tag of its granule, as they stood at position `m`. -/
def byteAt (s : State) (m pa : Nat) : Byte :=
  (s.heldAt m fun o => if o.pa ≤ pa then o.bytes[pa - o.pa]? else none).getD (s.peek pa)
def tagAt (s : State) (m pa : Nat) : Bool := (s.heldAt m fun o => o.tags.lookup (pa / 16)).getD (Tbl.get false s.mtags (pa / 16))

/-! ### Monitors (08 R171) -/

/-- Sets EV of every monitor on a line and wakes its split. -/
def wakeSlots (line : Nat) (t : Tbl Slot) : Tbl Slot :=
  t.map fun p =>
    if p.2.monitor.lines.contains line then
      (p.1, { p.2 with monitor := { p.2.monitor with ev := true },
                       wait := if p.2.waitFor = .mwait then .ready else p.2.wait,
                       waitFor := if p.2.waitFor = .mwait then .none else p.2.waitFor })
    else p
/-- A watched line is invalidated in, or evicted from, the L1 of `core` (R171); the watching cores are that core or,
on a fused cluster, every core of its cluster. -/
def wakeWatch (s : State) (core line : Nat) : State :=
  if (s.l1 core line).watch then
    { s with grps := s.grps.map fun p =>
        let c := (Tbl.get ({} : Block) s.blks (p.1 / 32)).core
        if c == core || ((Tbl.get none s.fused (core / 4)).isSome && c / 4 == core / 4) then
          (p.1, { p.2 with slots := wakeSlots line p.2.slots })
        else p }
  else s

/-! ### Lines -/

/-- The sectors of a line that one copy's dirty words cover whole (R112). -/
def healedSectors (s : State) (line : Nat) : List Nat :=
  (List.range 4).filter fun q => s.lines.any fun p =>
    p.1 / 256 == line && (p.2.dirty >>> (8 * q)) &&& 0xFF == 0xFF

/-- The sectors of a line in which some copy has a dirty word. -/
def dirtySectors (s : State) (line : Nat) : List Nat :=
  (List.range 4).filter fun q => s.lines.any fun p =>
    p.1 / 256 == line && (p.2.dirty >>> (8 * q)) &&& 0xFF != 0

/-- Writes every dirty word of a line back to the home; the copies stay, clean (R164). A write-back that carries a
whole sector clears its error; one that carries part of it leaves the error, which is logged (R112). -/
def cleanLine (s : State) (line : Nat) : State :=
  if s.lines.any fun p => p.1 / 256 == line && p.2.dirty != 0 then
    let s1 : State :=
      { s with mem := putBytes s.mem (128 * line) (s.peekBytes (128 * line) 128),
               poison := (s.healedSectors line).foldl (fun t q => Tbl.erase t (4 * line + q)) s.poison,
               lines := s.lines.map fun p => if p.1 / 256 == line then (p.1, { p.2 with dirty := 0, data := [] }) else p }
    s1.logSectors ((s.dirtySectors line).map (4 * line + ·))
  else s

/-- A load through an L1 meets an uncorrectable error: a touched sector is in error and the touched word is not held
dirty by an L1. -/
def l1Bad (s : State) (pa n : Nat) : Bool :=
  (List.range n).any fun i => s.sectorBad ((pa + i) / 32) &&
    (s.dirtyAt (lineOf (pa + i)) ((pa + i) % 128 / 4)).isNone

/-- Drops a core's copy of a line; the caller has cleaned it. Pins stay to be made again (R126). -/
def dropCopy (s : State) (core line : Nat) : State :=
  let s := s.wakeWatch core line
  s.setL1 core line { pins := (s.l1 core line).pins }

/-- The cores whose L1 lists the line. -/
def holders (s : State) (line : Nat) : List Nat :=
  (s.lines.filter fun p => p.1 / 256 == line && (p.2.owned || p.2.valid != 0 || p.2.watch)).map fun p => p.1 % 256

/-- Invalidates every copy of a line but that of `keep`, node caches included (R161, R119). -/
def invalidate (s : State) (keep : Option Nat) (line : Nat) : State :=
  let s := s.cleanLine line
  let s := (s.holders line).foldl (fun s c => if keep = some c then s else s.dropCopy c line) s
  { s with ncache := s.ncache.filter fun p => p.1 / 64 != line }

/-- An event must not act on a line while the home serves another request to it (R160). -/
def lineBusy (s : State) (line : Nat) : Bool := Tbl.has s.txns line

/-- The core whose L1 holds a line for an access of `core` (R116). -/
def l1Core (s : State) (core line : Nat) : Nat :=
  if (Tbl.get none s.fused (core / 4)).isSome then core / 4 * 4 + line % 4 else core

/-- Adds a reader to an entry in state I or S (R158, R159). -/
def DirEntry.addReader (d : DirEntry) (agent : Nat) : DirEntry :=
  let clusterOf := fun a : Nat => if a < 152 then a / 4 else a - 152
  let setBit := fun (v : BitVec 38) (c : Nat) => v ||| BitVec.ofNat 38 (2 ^ c)
  if d.coarse then { d with shr := setBit d.shr (clusterOf agent) }
  else if d.ptrs.contains agent then { d with st := .s }
  else if d.ptrs.length < 4 then { d with st := .s, ptrs := d.ptrs ++ [agent] }
  else { d with st := .s, coarse := true, ptrs := [],
                shr := setBit (d.ptrs.foldl (fun v a => setBit v (clusterOf a)) 0) (clusterOf agent) }

/-! ### Lines of a slice (R117, R157) -/

/-- A slice may give up the line: it is no counter (R172), no CPE copy owns it, and no request or reduction is in
progress on it. -/
def evictable (s : State) (line : Nat) : Bool :=
  let d := s.dir line
  !d.ctr && !(d.st == .x && d.cpe) && !s.lineBusy line && (Tbl.get [] s.farQ line).isEmpty
/-- A slice evicts a line: every copy is invalidated or recalled first, and the entry is gone (R157). -/
def evictSlice (s : State) (line : Nat) : State :=
  let s1 := (s.invalidate none line).setDir line {}
  { s1 with l2 := Tbl.upd [] s1.l2 (s1.l2Key line) fun l => l.filter (· != line) }
/-- The lines of the set of its home slice in which a line is, or would be, resident. -/
def l2Ways (s : State) (line : Nat) : List Nat := Tbl.get [] s.l2 (s.l2Key line)
/-- The set of a line is full, and none of its 16 lines may be given up now: the line has to wait (log 73). -/
def noWay (s : State) (line : Nat) : Bool :=
  let l := s.l2Ways line
  16 ≤ l.length && !l.contains line && !l.any s.evictable
/-- A line becomes resident in its home slice. A full set of 16 gives up a line that the spec does not choose (log 73). -/
def allocate (s : State) (line : Nat) : State :=
  if (s.l2Ways line).contains line || s.noWay line then s
  else
    let s1 := if (s.l2Ways line).length < 16 then s else match s.choose 41 ((s.l2Ways line).filter s.evictable) with
      | some v => s.tick.evictSlice v
      | none => s
    { s1 with l2 := Tbl.upd [] s1.l2 (s1.l2Key line) fun l => l ++ [line] }

/-! ### Lines of an L1 (R115) -/

/-- The set of its L1 in which a line stands. DESIGN CHOICE (log 73): the spec gives no set index; the L1s of a fused
cluster, which hold one line in four each, number their own lines. -/
def l1Set (s : State) (core line : Nat) : Nat :=
  (if (Tbl.get none s.fused (core / 4)).isSome then line / 4 else line) % 256
/-- The ways in use of the set in which a line stands. -/
def l1Ways (s : State) (core line : Nat) : Tbl L1Line :=
  s.lines.filter fun p => p.1 % 256 == core && s.l1Set core (p.1 / 256) == s.l1Set core line &&
    (p.2.owned || p.2.valid != 0 || p.2.pins != 0)
/-- The line is the most recently used of its set. -/
def useL1 (s : State) (core line : Nat) : State :=
  let l := s.l1 core line
  let rest := (s.l1Ways core line).filter fun p => p.1 != lineKey line core
  let top := rest.foldl (fun m p => max m p.2.used) 0
  if top < l.used then s else s.setL1 core line { l with used := top + 1 }
/-- An L1 drops a line and its notice reaches the home with no request in progress: dirty words are written back, and the
entry forgets the owner or the pointer (R165). -/
def cacheDrop (s : State) (core line : Nat) : State :=
  let s1 := if (s.l1 core line).dirty = 0 then s else s.cleanLine line
  let l := s1.l1 core line
  if l.pins != 0 then s1
  else
    let s2 := s1.dropCopy core line
    let d := s2.dir line
    if l.owned then s2.setDir line { d with st := .i, ptrs := [] }
    else if !d.coarse && d.st == .s && d.ptrs.contains core then
      let ptrs := d.ptrs.filter (· != core)
      s2.setDir line { d with ptrs, st := if ptrs.isEmpty then .i else .s }
    else s2
/-- The L1 owns the line by a request whose completion has not reached the home (R161). -/
def completing (s : State) (core line : Nat) : Bool :=
  (s.l1 core line).owned && (s.txns.lookup line).any fun x => match x.kind with
    | .own c _ => c == core
    | _ => false
/-- The ways that an L1 may give up of the set in which a line stands. -/
def freeWays (s : State) (core line : Nat) : Tbl L1Line :=
  (s.l1Ways core line).filter fun p => p.2.pins == 0 && !s.completing core (p.1 / 256)
/-- The L1 holds the line, or can take it. -/
def hasRoom (s : State) (core line : Nat) : Bool :=
  let ways := s.l1Ways core line
  ways.length < 8 || ways.any (fun p => p.1 == lineKey line core) || !(s.freeWays core line).isEmpty
/-- An L1 drops a line. A recall that crosses the notice is answered "evicted"; an invalidation is acknowledged without
the line (Table 8.3). -/
def evictLine (s : State) (core line : Nat) : State :=
  if !s.lineBusy line then s.cacheDrop core line
  else if (s.l1 core line).owned then
    let s1 := (s.cleanLine line).dropCopy core line
    s1.setDir line { s1.dir line with st := .i, ptrs := [] }
  else s.dropCopy core line
/-- The least recently used unpinned way of a full set is given up for a line that the L1 does not hold. -/
def makeRoom (s : State) (core line : Nat) : State :=
  let ways := s.l1Ways core line
  if ways.length < 8 || ways.any fun p => p.1 == lineKey line core then s
  else
    let free := s.freeWays core line
    match free.find? fun p => free.all fun q => p.2.used ≤ q.2.used with
    | some p => s.evictLine core (p.1 / 256)
    | none => s

/-- A read request served whole (R160, R162): an owner is recalled and keeps a clean shared copy. -/
def homeShare (s : State) (agent line : Nat) : State :=
  let s := (s.allocate line).cleanLine line
  let d := s.dir line
  match d.st with
  | .x =>
    let owner := d.ptrs.headD 0
    let s := s.setL1 owner line { s.l1 owner line with owned := false }
    s.setDir line { d with st := .s, coarse := false, cpe := false, shr := 0,
                           ptrs := if d.cpe || owner == agent then [agent] else [owner, agent] }
  | _ => s.setDir line (State.DirEntry.addReader d agent)

/-- A load of an L1: the line is shared, or filled where it is owned (R162, R163). -/
def shareLine (s : State) (core line : Nat) : State :=
  let core := s.l1Core core line
  let l := s.l1 core line
  if (s.dir line).ctr then s
  else if l.owned || l.valid != 0 then (s.setL1 core line { l with valid := -1 }).useL1 core line
  else if !s.hasRoom core line then s
  else
    let s := (s.makeRoom core line).homeShare core line
    (s.setL1 core line { s.l1 core line with valid := -1 }).useL1 core line

/-- A store of an L1: an own request invalidates every other copy (R161). -/
def ownLine (s : State) (core line : Nat) : State :=
  let core := s.l1Core core line
  if (s.l1 core line).owned then s.useL1 core line
  else if !s.hasRoom core line then s
  else
    let s := ((s.makeRoom core line).allocate line).invalidate (some core) line
    let s := s.setDir line { s.dir line with st := .x, coarse := false, cpe := false, shr := 0, ptrs := [core] }
    (s.setL1 core line { s.l1 core line with owned := true }).useL1 core line

/-- The words of a line that n bytes at offset `o` touch. -/
def wordMask (o n : Nat) : BitVec 32 :=
  (List.range ((o + n - 1) / 4 + 1 - o / 4)).foldl (fun m i => m ||| BitVec.ofNat 32 (2 ^ (o / 4 + i))) 0

/-- The bytes of the touched words as they stand, so that a word marked dirty is whole. -/
def dirtyWords (s : State) (pa n : Nat) : List (Nat × Byte) :=
  let lo := pa / 4 * 4
  let hi := (pa + n + 3) / 4 * 4
  (List.range (hi - lo)).map fun i => (lo + i, s.peek (lo + i))

/-! ### Home accesses -/

/-- Bytes written at the home (R164, R168, R172): every copy is recalled, tags are cleared, whole sectors are healed, and
an error left in a sector is logged again (R112). -/
def homeWrite (s : State) (pa : Nat) (bs : List Byte) : State :=
  if bs.length = 0 then s
  else
    let s := s.noteWrite pa bs.length
    let lines := (List.range (lineOf (pa + bs.length - 1) + 1 - lineOf pa)).map (lineOf pa + ·)
    let s := lines.foldl (fun s l =>
      let s := s.invalidate none l
      s.setDir l { s.dir l with st := .i, coarse := false, cpe := false, ptrs := [], shr := 0 }) s
    let s := (s.clearTags pa bs.length).clearBad pa bs.length
    { s with mem := putBytes s.mem pa bs }.logSectors (sectorsOf pa bs.length)

/-- Bytes that a CPE copy writes: the lines that it owns stay its own until their last write (R164). -/
def cpeWrite (s : State) (pa : Nat) (bs : List Byte) : State :=
  let lines := (List.range (lineOf (pa + bs.length - 1) + 1 - lineOf pa)).map (lineOf pa + ·)
  lines.foldl (fun t l => if (s.dir l).st == .x && (s.dir l).cpe then t.setDir l (s.dir l) else t) (s.homeWrite pa bs)

/-- A store of a core through its L1, within one line (R115, R161, R163); at the home where the L1 has no way for the line
(log 73). -/
def l1Write (s : State) (core pa : Nat) (bs : List Byte) : State :=
  let line := lineOf pa
  if (s.dir line).ctr || !s.hasRoom (s.l1Core core line) line then s.homeWrite pa bs
  else
    let s := (s.noteWrite pa bs.length).ownLine core line
    let c := s.l1Core core line
    let base := (s.dirtyWords pa bs.length).foldl (fun t p => Tbl.set 0 t (p.1 % 128) p.2) (s.l1 c line).data
    let l := s.l1 c line
    let m := wordMask (pa % 128) bs.length
    let s := s.setL1 c line { l with valid := l.valid ||| m, dirty := l.dirty ||| m,
                                     data := putBytes base (pa % 128) bs }
    let s := s.clearTags pa bs.length
    s.clearBad pa bs.length

/-- The tag of the granule at `pa` (R81). -/
def memTag (s : State) (pa : Nat) : Bool := s.hasTags pa && Tbl.get false s.mtags (pa / 16)
def setMemTag (s : State) (pa : Nat) (t : Bool) : State :=
  { s with mtags := Tbl.set false s.mtags (pa / 16) (t && s.hasTags pa) }

/-- Little-endian numbers at the home's coherent value. -/
def peekNat (s : State) (pa n : Nat) : Nat := leNum (s.peekBytes pa n)
def peekQuad (s : State) (pa : Nat) : Quad := BitVec.ofNat 64 (s.peekNat pa 8)
def writeQuad (s : State) (pa : Nat) (v : Quad) : State := s.homeWrite pa (toLe 8 v.toNat)

end Sys2Proof.Machine.State
end

