-- ==== Sys2Proof/Machine/Xlate.lean ====
section
/-! DEFINITION. Translation (09 R181 to R187): the walk, the TLBs and the permission checks. -/

namespace Sys2Proof.Machine

/-- Access kinds with the codes of 09 Table 9.4. -/
inductive Acc where
  | read | write | rmw | exec
  deriving DecidableEq, Repr
def Acc.code : Acc → Nat
  | .read => 0 | .write => 1 | .rmw => 2 | .exec => 3

/-- Causes of 09 Table 9.4 that a translation gives. -/
def causeNotMapped : Nat := 1
def causePermission : Nat := 2
def causeBadPte : Nat := 3
def causeUncorrectable : Nat := 4

/-- A translated address: its target (0 device, 1 host, 2 peer) and physical address; or the fault. -/
inductive Xl where
  | ok (tgt pa : Nat)
  | fault (cause level : Nat)
  deriving DecidableEq, Repr

/-- The permission of Table 9.2. -/
def Tlb.permits (t : Tlb) : Acc → Bool
  | .read => t.r
  | .write => t.w
  | .rmw => t.r && t.w
  | .exec => t.x

/-- Address bits that a leaf at `level` maps; `c64` for a 64 KiB page. -/
def pageBits (level : Nat) (c64 : Bool) : Nat :=
  match level with
  | 0 => if c64 then 16 else 12
  | 1 => 21
  | _ => 30
/-- The level of a cached page. -/
def levelOf (size : Nat) : Nat := if size = 30 then 2 else if size = 21 then 1 else 0

namespace State

/-- Bits [lo + n − 1 : lo] of a number. -/
def bitsOf (v lo n : Nat) : Nat := v / 2 ^ lo % 2 ^ n

/-- R183: whether the entry reached at `level` breaks a rule. -/
def badPte (s : State) (level e : Nat) : Bool :=
  let leaf := bitsOf e 1 1 == 1
  let tgt := bitsOf e 62 2
  let c64 := bitsOf e 61 1 == 1
  let pa := bitsOf e 12 45 * 4096
  bitsOf e 57 4 != 0 || bitsOf e 6 6 != 0 || bitsOf e 2 1 != 0 || tgt == 3 ||
    (leaf && level ≥ 3) || (!leaf && level == 0) || (!leaf && tgt != 0) || (c64 && level != 0) ||
    (leaf && pa % 2 ^ pageBits level c64 != 0) || ((!leaf || tgt == 0) && pa ≥ s.usable)

/-- The leaf that an entry describes. -/
def leafOf (ctx va level e : Nat) : Tlb :=
  let size := pageBits level (bitsOf e 61 1 == 1)
  { ctx, size, vpage := va / 2 ^ size, ppage := bitsOf e 12 45 * 4096 / 2 ^ size, tgt := bitsOf e 62 2,
    r := bitsOf e 3 1 == 1, w := bitsOf e 4 1 == 1, x := bitsOf e 5 1 == 1 }

/-- A line that no access is served from now: a CPE copy owns it (R144), the home serves another request to it (R160), or
its set has no way for it. -/
def lineHeld (s : State) (line : Nat) : Bool :=
  ((s.dir line).st == .x && (s.dir line).cpe) || s.lineBusy line || s.noWay line
/-- The firewall refuses the read of a table in the firmware region for a user context, and gives zero (R305). -/
def pteRefused (s : State) (ctx a : Nat) : Bool := a < s.fwEnd && !(Tbl.get {} s.ctxs ctx : Ctx).fw

/-- The entry at an address as a walk of a context reads it. -/
def pteAt (s : State) (ctx a : Nat) : Nat := if s.pteRefused ctx a then 0 else s.peekNat a 8
/-- Some entry of the 16 in the 128-byte line of `a` is of a 64 KiB page. -/
def has64 (s : State) (ctx a : Nat) : Bool :=
  (List.range 16).any fun i => bitsOf (s.pteAt ctx (a / 128 * 128 + 8 * i)) 0 2 == 3 &&
    bitsOf (s.pteAt ctx (a / 128 * 128 + 8 * i)) 61 1 == 1
/-- The level-0 entry that translates: where the 16 entries of a 64 KiB page differ, any one of them, one that is not valid
included (R183). -/
def pteFor (s : State) (ctx a : Nat) : Nat :=
  let a' := a / 128 * 128 + 8 * (s.freeNat 16 % 16)
  if s.has64 ctx a && (s.pteAt ctx a' % 2 == 0 || bitsOf (s.pteAt ctx a') 61 1 == 1) then a' else a

/-- One level of a walk and the levels below it (R183); `n` is the level plus one. A failure names its cause, the level and
the address of the entry; cause 0 is no failure: the entry's line is held or has reductions to be applied first, and the
walk comes about later. -/
def walkFrom (s : State) (ctx va : Nat) : Nat → Nat → Except (Nat × Nat × Nat) Tlb
  | 0, _ => .error (causeBadPte, 0, 0)
  | level + 1, table =>
    let idx := bitsOf va (12 + 9 * level) 9
    let a := if level = 0 then s.pteFor ctx (table + 8 * idx) else table + 8 * idx
    let e := s.pteAt ctx a
    if s.lineHeld (lineOf a) || !(Tbl.get [] s.farQ (lineOf a)).isEmpty then .error (0, level, a)
    else if s.bad a 8 && !s.pteRefused ctx a then .error (causeUncorrectable, level, a)
    else if e % 2 = 0 then .error (causeNotMapped, level, a)
    else if s.badPte level e then .error (causeBadPte, level, a)
    else if bitsOf e 1 1 = 1 then .ok (leafOf ctx va level e)
    else s.walkFrom ctx va level (bitsOf e 12 45 * 4096)

/-- A walk of a context's tables from the root. -/
def walk (s : State) (ctx va : Nat) : Except (Nat × Nat × Nat) Tlb :=
  s.walkFrom ctx va 5 (Tbl.get {} s.ctxs ctx : Ctx).ptroot

/-- A refusal of the firewall is counted (R305). -/
def countRefusal (s : State) : State :=
  { s with dev := { s.dev with fwref := if s.dev.fwref = 0xFFFFFFFF then s.dev.fwref else s.dev.fwref + 1 } }
/-- What a walk that fails leaves: an uncorrectable error is logged, a refusal counted. -/
def walkFailed (s : State) (ctx cause a : Nat) : State :=
  if cause = causeUncorrectable then s.logError a
  else if cause = causeNotMapped && s.pteRefused ctx a then s.countRefusal else s

/-- The physical address a leaf gives. -/
def Tlb.pa (t : Tlb) (va : Nat) : Nat := t.ppage * 2 ^ t.size + va % 2 ^ t.size

/-- R109, R184: device memory below the firmware end is refused to a user context. -/
def fwRefused (s : State) (ctx : Nat) (t : Tlb) (va : Nat) : Bool :=
  t.tgt == 0 && Tlb.pa t va < s.fwEnd && !(Tbl.get {} s.ctxs ctx : Ctx).fw

def findTlb (l : List Tlb) (ctx va : Nat) : Option Tlb :=
  l.find? fun t => t.ctx == ctx && t.vpage == va / 2 ^ t.size

/-- Caches a translation; a full TLB gives up an unspecified entry, by the free value `key` (R185). -/
def insertTlb (s : State) (key cap : Nat) (l : List Tlb) (t : Tlb) : List Tlb :=
  if l.contains t then l
  else if l.length < cap then l ++ [t] else l.eraseIdx (s.freeNat key % l.length) ++ [t]

/-- Caches a translation in the L1 TLB of a core. -/
def cacheL1Tlb (s : State) (core : Nat) (t : Tlb) : State :=
  let s1 : State := { s with l1tlb := Tbl.upd [] s.l1tlb core fun l => s.insertTlb 17 128 l t }
  if (Tbl.get [] s.l1tlb core).length < 128 then s1 else s1.tick
/-- The same in the L2 TLB of its cluster as well. -/
def cacheTlb (s : State) (core : Nat) (t : Tlb) : State :=
  let s1 := s.cacheL1Tlb core t
  let s2 : State := { s1 with l2tlb := Tbl.upd [] s1.l2tlb (core / 4) fun l => s1.insertTlb 18 4096 l t }
  if (Tbl.get [] s1.l2tlb (core / 4)).length < 4096 then s2 else s2.tick
def dropTlb (s : State) (core : Nat) (t : Tlb) : State :=
  { s with l1tlb := Tbl.upd [] s.l1tlb core fun l => l.filter (· != t),
           l2tlb := Tbl.upd [] s.l2tlb (core / 4) fun l => l.filter (· != t) }

/-- The result of a fresh walk for an access (R186): a permitted translation is cached. -/
def walkFor (s : State) (core : Option Nat) (ctx va : Nat) (acc : Acc) : Xl × State :=
  match s.walk ctx va with
  | .error (c, l, a) => (.fault c l, (if l = 0 && s.has64 ctx a then s.tick else s).walkFailed ctx c a)
  | .ok t =>
    -- a 64 KiB page has taken a choice among its entries
    let s := if t.size = 16 then s.tick else s
    if s.fwRefused ctx t va || !t.permits acc then (.fault causePermission (levelOf t.size), s)
    else
      (.ok t.tgt (Tlb.pa t va), match core with
        | some c => s.cacheTlb c t
        | none => s)

/-- Translation of one access by an agent of `core`, or by the Headbox (`none`), which holds no TLB of its own. A fault of
cause 0 is none: the walk waits for a line, and the access comes about later. -/
def translate (s : State) (core : Option Nat) (ctx va : Nat) (acc : Acc) : Xl × State :=
  match core with
  | none => s.walkFor none ctx va acc
  | some c =>
    let near := findTlb (Tbl.get [] s.l1tlb c) ctx va
    match near.or (findTlb (Tbl.get [] s.l2tlb (c / 4)) ctx va) with
    | none => s.walkFor core ctx va acc
    | some t =>
      if s.fwRefused ctx t va then (.fault causePermission (levelOf t.size), s)
      else if t.permits acc then (.ok t.tgt (Tlb.pa t va), if near.isSome then s else s.cacheL1Tlb c t)
      else (s.dropTlb c t).walkFor core ctx va acc

/-- Bytes at a target (R107). -/
def tgtBytes (s : State) (tgt pa n : Nat) : List Byte :=
  match tgt with
  | 0 => s.peekBytes pa n
  | 1 => (List.range n).map fun i => Tbl.get 0 s.hostMem (pa + i)
  | _ => (List.range n).map fun i => Tbl.get 0 s.peerMem (pa + i)
/-- Whether the peer link is in service (16 R310). -/
def linkUp (s : State) : Bool := s.dev.ports != 0
/-- A request to the paired card fails: the link is down, or the response reports an error (16 R310). -/
def peerFails (s : State) (pa n : Nat) : Bool := !s.linkUp || (sectorsOf pa n).any fun q => Tbl.get false s.peerBad q
/-- Bytes written at a target by an agent outside the L1s; a peer write that fails is discarded and logged (16 R310). -/
def tgtWrite (s : State) (tgt pa : Nat) (bs : List Byte) : State :=
  match tgt with
  | 0 => s.homeWrite pa bs
  | 1 => { s with hostMem := putBytes s.hostMem pa bs }
  | _ => if s.peerFails pa bs.length then s.logError pa else { s with peerMem := putBytes s.peerMem pa bs }

/-- Some line of [pa, pa + n) at the target is held. -/
def blocked (s : State) (tgt pa n : Nat) : Bool :=
  tgt == 0 && n != 0 && (List.range (lineOf (pa + n - 1) + 1 - lineOf pa)).any fun i => s.lineHeld (lineOf pa + i)
/-- A read at a target meets an uncorrectable error (15 Table 15.3, 16 R310). -/
def tgtBad (s : State) (tgt pa n : Nat) : Bool := (tgt == 0 && s.bad pa n) || (tgt == 2 && s.peerFails pa n)

/-- The pieces of [va, va + n) that lie in one 4 KiB page each. -/
def pagePieces (va : Nat) : Nat → Nat → List (Nat × Nat)
  | 0, _ => []
  | fuel + 1, n =>
    if n = 0 then []
    else
      let k := min n (4096 - va % 4096)
      (va, k) :: pagePieces (va + k) fuel (n - k)
def pieces (va n : Nat) : List (Nat × Nat) := pagePieces va (n / 4096 + 2) n

/-- A read by an engine or the Headbox: the bytes, or the address and fault of the first page that faults; the flag
says that some sector read was in error. Cause 0 is no fault: a line is held, and the access comes about later. -/
def engineRead (s : State) (core : Option Nat) (ctx va n : Nat) (acc : Acc := .read) :
    Except (Nat × Nat × Nat) (List Byte × Bool) × State :=
  (pieces va n).foldl
    (fun r p =>
      match r with
      | (.error e, s) => (.error e, s)
      | (.ok (bs, b), s) =>
        match s.translate core ctx p.1 acc with
        | (.fault c l, s) => (.error (p.1, c, l), s)
        | (.ok tgt pa, s) =>
          if s.blocked tgt pa p.2 then (.error (p.1, 0, 0), s)
          else (.ok (bs ++ s.tgtBytes tgt pa p.2, b || s.tgtBad tgt pa p.2), s))
    (.ok ([], false), s)

/-- A write by an engine or the Headbox; it writes nothing unless every page is permitted and no line is held. -/
def engineWrite (s : State) (core : Option Nat) (ctx va : Nat) (bs : List Byte) :
    Except (Nat × Nat × Nat) Unit × State :=
  let r := (pieces va bs.length).foldl
    (fun (r : Except (Nat × Nat × Nat) (List (Nat × Nat × Nat × Nat)) × State) p =>
      match r with
      | (.error e, s) => (.error e, s)
      | (.ok l, s) =>
        match s.translate core ctx p.1 .write with
        | (.fault c lv, s) => (.error (p.1, c, lv), s)
        | (.ok tgt pa, s) =>
          if s.blocked tgt pa p.2 then (.error (p.1, 0, 0), s) else (.ok (l ++ [(tgt, pa, p.1 - va, p.2)]), s))
    (.ok [], s)
  match r with
  | (.error e, s) => (.error e, s)
  | (.ok l, s) => (.ok (), l.foldl (fun s q => s.tgtWrite q.1 q.2.1 ((bs.drop q.2.2.1).take q.2.2.2)) s)

end State
end Sys2Proof.Machine
end

