-- ==== Sys2Proof/Machine/Units.lean ====
section
/-! DEFINITION. Accessors of the tables of units, the numbering of cores (01 R9, R10), the release of pins (06 R126), and
which releases the writes on the way to the paired card happen before (07 R133 to R137). -/

namespace Sys2Proof.Machine.State

/-! ### Tables of units -/

def blk (s : State) (b : Nat) : Block := Tbl.get {} s.blks b
def setBlk (s : State) (b : Nat) (v : Block) : State := { s with blks := Tbl.set {} s.blks b v }
def updBlk (s : State) (b : Nat) (f : Block → Block) : State := s.setBlk b (f (s.blk b))
def grp (s : State) (g : Nat) : Group := Tbl.get {} s.grps g
def setGrp (s : State) (g : Nat) (v : Group) : State := { s with grps := Tbl.set {} s.grps g v }
def updGrp (s : State) (g : Nat) (f : Group → Group) : State := s.setGrp g (f (s.grp g))
def ctx (s : State) (c : Nat) : Ctx := Tbl.get {} s.ctxs c
def setCtx (s : State) (c : Nat) (v : Ctx) : State := { s with ctxs := Tbl.set {} s.ctxs c v }
def updCtx (s : State) (c : Nat) (f : Ctx → Ctx) : State := s.setCtx c (f (s.ctx c))
def card (s : State) (c : Nat) : Card := Tbl.get {} s.cards c
def setCard (s : State) (c : Nat) (v : Card) : State := { s with cards := Tbl.set {} s.cards c v }
def updCard (s : State) (c : Nat) (f : Card → Card) : State := s.setCard c (f (s.card c))
def queue (s : State) (q : Nat) : Queue := Tbl.get {} s.queues q
def setQueue (s : State) (q : Nat) (v : Queue) : State := { s with queues := Tbl.set {} s.queues q v }
def updQueue (s : State) (q : Nat) (f : Queue → Queue) : State := s.setQueue q (f (s.queue q))
def copy (s : State) (c : Nat) : Option Copy := s.copies.lookup c
def seq (s : State) (b : Nat) : Seq := (s.blk b).mx.seq
def updSeq (s : State) (b : Nat) (f : Seq → Seq) : State :=
  s.updBlk b fun k => { k with mx := { k.mx with seq := f k.mx.seq } }
def slotAt (s : State) (gid k : Nat) : Slot := Tbl.get {} (s.grp gid).slots k
def setSlot (s : State) (gid k : Nat) (v : Slot) : State :=
  s.updGrp gid fun g => { g with slots := Tbl.set {} g.slots k v }
def updSlot (s : State) (gid k : Nat) (f : Slot → Slot) : State := s.setSlot gid k (f (s.slotAt gid k))

/-- The block of a group number. -/
def bidOf (gid : Nat) : Nat := gid / 32
/-- The group numbers of a block. -/
def groupsOf (s : State) (b : Nat) : List Nat := (List.range ((s.blk b).desc.ngrp + 1)).map (32 * b + ·)
/-- Low 32 bits of the card's address ÷ 128 (09 Table 9.4). -/
def cardField (s : State) (c : Nat) : Nat := (s.card c).va / 128 % 2 ^ 32
/-- A number above those given before and those of a table's keys. -/
def freshId {α : Type} (s : State) (t : Tbl α) : Nat := t.foldl (fun m p => max m p.1) s.ids + 1
/-- The number n is given. -/
def takeId (s : State) (n : Nat) : State := { s with ids := max s.ids n }

/-! ### Cores (01 R9, R10) -/

def clusterOn (s : State) (c : Nat) : Bool := s.dev.clmask.getLsbD c
/-- Clusters of the firmware column (R9); column c holds clusters 2c and 2c + 1. -/
def isFwCluster (s : State) (c : Nat) : Bool :=
  c / 2 == s.dev.fwcol || (s.dev.wide && c / 2 == s.dev.fwcol + 1)
/-- Compute clusters in increasing physical order; the position is the logical number (R10). -/
def computeClusters (s : State) : List Nat :=
  (List.range 38).filter fun c => s.clusterOn c && !s.isFwCluster c
/-- %core of a physical core. -/
def logicalCore (s : State) (core : Nat) : Nat := 4 * (s.computeClusters.findIdx (· == core / 4)) + core % 4
/-- A caching agent of a cluster in service: an L1 of a core that has not left, or a node cache (R10, R166). -/
def agentOn (s : State) (ag : Nat) : Bool :=
  if ag < 152 then s.clusterOn (ag / 4) && !Tbl.get false s.left ag else ag < 190 && s.clusterOn (ag - 152)

/-- Releases footprint pins of a core (R126); on a fused cluster the L1 that holds the line pins it (R116). -/
def unpin (s : State) (core : Nat) (pins : List Nat) : State :=
  pins.foldl (fun s line =>
    let c := s.l1Core core line
    let l := s.l1 c line
    s.setL1 c line { l with pins := l.pins - 1 }) s

/-! ### Writes on the way and the order of releases (07 R133 to R137, R156) -/

/-- Group g is among those that a release of group a, of a block of `gang`, at scope `sc` reaches (07 Table 7.1). -/
def inScope (a : Nat) (gang : List Nat) (g sc : Nat) : Bool :=
  match sc with
  | 0 => a == g
  | 1 => bidOf a == bidOf g
  | 2 => gang.contains (bidOf g)
  | _ => true
/-- Group g releases at a scope: so do the writes on the way that happen before it. -/
def publish (s : State) (g sc : Nat) : State :=
  if s.pending.isEmpty then s
  else { s with pending := s.pending.map fun p =>
    let r := (g, sc, (s.blk (bidOf g)).gangIds)
    if p.seen.contains g && !p.released.contains r then { p with released := p.released ++ [r] } else p }
/-- Group g acquires at a scope: the writes released to it happen before what it does next. DESIGN CHOICE (log 74): an
acquire synchronises with every earlier release in scope, whichever location it reads. -/
def observe (s : State) (g sc : Nat) : State :=
  if s.pending.isEmpty then s
  else { s with pending := s.pending.map fun p =>
    if !p.seen.contains g && p.released.any (fun r => inScope r.1 r.2.2 g (min sc r.2.1)) then { p with seen := p.seen ++ [g] } else p }
/-- Some write or reduction that happens before what group g does next has not been answered. -/
def unanswered (s : State) (g : Nat) : Bool := s.pending.any fun p => p.seen.contains g
/-- The same for what the Headbox does after a release at DEVICE or SYSTEM scope. -/
def unansweredReleased (s : State) : Bool := s.pending.any fun p => p.released.any fun r => 3 ≤ r.2.1

end Sys2Proof.Machine.State
end

