-- ==== Sys2Proof/Machine/CtrLine.lean ====
section
/-! DEFINITION. The counter line at its home (08 Table 8.6), the cores' allowance tables (R173, R178), the waiting lists
(R176), and Deckle, which is a counter (R180). A counter is named by its physical address. -/

namespace Sys2Proof.Machine.State

/-! ### The counter line (Table 8.6) -/

/-- Quad `i` of the home's image. -/
def cq (s : State) (pa i : Nat) : Nat := leNum (s.homeBytes (pa + 8 * i) 8)
/-- Writes quad `i`; its granule loses its tag, as with any write (R81). -/
def setCq (s : State) (pa i v : Nat) : State :=
  { s.clearTags (pa + 8 * i) 8 with mem := putBytes s.mem (pa + 8 * i) (toLe 8 v) }
def ctrReserve (s : State) (pa : Nat) : Nat := bitsOf (s.cq pa 0) 0 48
def setReserve (s : State) (pa v : Nat) : State := s.setCq pa 0 (s.cq pa 0 / 2 ^ 48 * 2 ^ 48 + v % 2 ^ 48)
def ctrInit (s : State) (pa : Nat) : Bool := bitsOf (s.cq pa 1) 63 1 == 1
def ctrOvf (s : State) (pa : Nat) : Bool := bitsOf (s.cq pa 1) 62 1 == 1
def ctrCentral (s : State) (pa : Nat) : Bool := bitsOf (s.cq pa 1) 61 1 == 1
def ctrCap (s : State) (pa : Nat) : Nat := bitsOf (s.cq pa 1) 0 48
/-- A number with bit `i` set or cleared. -/
def withBit (n i : Nat) (b : Bool) : Nat := n - bitsOf n i 1 * 2 ^ i + b.toNat * 2 ^ i
def setCentral (s : State) (pa : Nat) (b : Bool) : State := s.setCq pa 1 (withBit (s.cq pa 1) 61 b)
def setOvf (s : State) (pa : Nat) : State := s.setCq pa 1 (withBit (s.cq pa 1) 62 true)
def holds (s : State) (pa core : Nat) : Bool := bitsOf (s.cq pa (2 + core / 64)) (core % 64) 1 == 1
def setHolder (s : State) (pa core : Nat) (b : Bool) : State :=
  s.setCq pa (2 + core / 64) (withBit (s.cq pa (2 + core / 64)) (core % 64) b)
/-- The cores whose holder bit is set. -/
def ctrHolders (s : State) (pa : Nat) : List Nat := (List.range 152).filter fun c => s.holds pa c

/-! ### Allowance tables (R173, R178) -/

def allowKey (pa core : Nat) : Nat := 256 * (pa / 64) + core
def allowOf (s : State) (pa core : Nat) : Allow := Tbl.get {} s.allows (allowKey pa core)
def hasAllow (s : State) (pa core : Nat) : Bool := Tbl.has s.allows (allowKey pa core)
def dropAllow (s : State) (pa core : Nat) : State := { s with allows := Tbl.erase s.allows (allowKey pa core) }
/-- The entries of a core. -/
def allowsOf (s : State) (core : Nat) : Tbl Allow := s.allows.filter fun p => p.1 % 256 == core
/-- The next stamp of use in a core's table. -/
def useStamp (s : State) (core : Nat) : Nat := ((s.allowsOf core).foldl (fun m p => max m p.2.used) 0) + 1
/-- Sends units to the home on the core's ordered channel. -/
def sendUnits (s : State) (pa core units : Nat) : State :=
  { s with ctrMsgs := s.ctrMsgs ++ [{ pa, core, kind := .give, units }] }
/-- Returns one allowance as under DROP (R178). -/
def returnAllow (s : State) (pa core : Nat) : State :=
  (s.dropAllow pa core).sendUnits pa core (s.allowOf pa core).allow
/-- Every allowance that a context owns is returned (R178). -/
def returnAllows (s : State) (c : Nat) : State :=
  (s.allows.filter fun p => p.2.ctx == c).foldl (fun s p => s.returnAllow (p.1 / 256 * 64) (p.1 % 256)) s
/-- A request of the core to the counter is in flight (R173): a take, or units that it gives or returns, on the way, or a
take queued or in its recall. -/
def inFlight (s : State) (pa core : Nat) : Bool :=
  let mine := fun (k : TxnKind) => match k with
    | .counter p c _ _ _ _ _ _ => p == pa && c == core
    | _ => false
  (s.ctrMsgs.any fun m => m.pa == pa && m.core == core && m.kind != .recallResponse) || s.txns.any fun p => mine p.2.kind
/-- Places an entry; when all 64 are in use, the least recently used one with no request in flight is returned. -/
def putAllow (s : State) (pa core : Nat) (e : Allow) : State :=
  let s1 :=
    if s.hasAllow pa core || (s.allowsOf core).length < 64 then s
    else
      let free := (s.allowsOf core).filter fun p => !s.inFlight (p.1 / 256 * 64) core
      match free.foldl (fun (b : Option (Nat × Allow)) p => match b with
          | none => some p
          | some q => if p.2.used < q.2.used then some p else some q) none with
      | none => s
      | some p => s.returnAllow (p.1 / 256 * 64) core
  let e' := { e with used := s1.useStamp core }
  let rest := Tbl.erase s1.allows (allowKey pa core)
  { s1 with allows := Tbl.insert (allowKey pa core) e' rest }

/-! ### Units and waiting takes at the home (R174, R176) -/

/-- The takes that wait on a counter, oldest first. -/
def waitsOn (s : State) (pa : Nat) : List CtrWait := Tbl.get [] s.ctrWait (pa / 64)
def setWaits (s : State) (pa : Nat) (l : List CtrWait) : State := { s with ctrWait := Tbl.set [] s.ctrWait (pa / 64) l }
/-- Units that arrive join RESERVE, clamped (R174). -/
def arriveUnits (s : State) (pa units : Nat) : State :=
  let heldUnits := (s.allows.filter fun p => p.1 / 256 == pa / 64).foldl (fun n p => n + p.2.allow) 0
  let top := 2 ^ 48 - 1 - heldUnits
  if s.ctrInit pa then
    let v := s.ctrReserve pa + units
    if v ≤ top then s.setReserve pa v else (s.setReserve pa top).setOvf pa
  else s
/-- The home's answer to what a split has sent and waits for: its word goes on (R466). -/
def answerSplit (s : State) (w : WaitFor) (gid slot : Nat) (r : Quad) : State :=
  s.updSlot gid slot fun sl =>
    if sl.waitFor = w then { sl with answer := some r, wait := .ready, waitFor := .memory } else sl
/-- Gives a waiting or sent take its result. -/
def answerTake (s : State) (gid slot : Nat) (r : Quad) : State := s.answerSplit .take gid slot r
/-- A waiting take has its units: a split's word goes on; a card, or a swapped block, has its tokens (R180, R202, R260). -/
def grantWaiter (s : State) (w : CtrWait) : State :=
  match w.who with
  | .split gid slot => s.answerTake gid slot 1
  | .headbox c => s.updCard c fun k => { k with tokens := w.n, phase := if k.phase = .tokens then .ready else k.phase }
  | .block b => s.updBlk b fun k => { k with tokens := w.n }
  | .power => s
/-- Serves the waiting list from its head (R176). -/
def serveList : Nat → State → Nat → State
  | 0, s, _ => s
  | fuel + 1, s, pa =>
    match s.waitsOn pa with
    | [] => s.setCentral pa false
    | w :: rest =>
      if s.ctrReserve pa < w.n then s
      else serveList fuel (((s.setReserve pa (s.ctrReserve pa - w.n)).setWaits pa rest).grantWaiter w) pa
def serveWaiting (s : State) (pa : Nat) : State :=
  if s.ctrCentral pa then serveList ((s.waitsOn pa).length + 1) s pa else s
/-- Units reach the home from a give, a drop or a returned allowance; a line that is no counter is left as it is. -/
def homeUnits (s : State) (pa units : Nat) : State :=
  if s.ctrInit pa then (s.arriveUnits pa units).serveWaiting pa else s
/-- A take joins the waiting list. -/
def joinWaits (s : State) (pa : Nat) (w : CtrWait) : State := (s.setWaits pa (s.waitsOn pa ++ [w])).setCentral pa true

/-- An access of the home to a counter whose line is in error is logged (R291, log 76). -/
def noteBad (s : State) (pa : Nat) : State := if s.bad pa 64 then s.logError pa else s
/-- A full recall made at once (R175): what each holder sent before it took the recall joins RESERVE first, then its
allowance. -/
def recallAll (s : State) (pa : Nat) : State :=
  (if s.ctrInit pa then s.ctrHolders pa else []).foldl (fun s c =>
    let sent := (s.ctrMsgs.filter fun m => m.pa == pa && m.core == c).foldl (fun n m => n + m.units) 0
    let s1 : State := { s with ctrMsgs := s.ctrMsgs.map fun m => if m.pa == pa && m.core == c then { m with units := 0 } else m }
    let a := (s1.allowOf pa c).allow
    ((s1.dropAllow pa c).setHolder pa c false).homeUnits pa (sent + a)) s
/-- Cancels every waiting take on a counter, which fails with UNINIT (R174, R337). -/
def cancelWaiting (s : State) (pa : Nat) : State :=
  (s.waitsOn pa).foldl (fun s w => match w.who with
    | .split gid slot => s.answerTake gid slot (BitVec.ofNat 64 (2 ^ 63))
    | _ => s) (s.setWaits pa [])
/-- Takes that satisfy `gone` leave every waiting list: CENTRAL clears where a list empties, and a new head that RESERVE
covers is served (R176). -/
def dropTakes (s : State) (gone : CtrWaiter → Bool) : State :=
  s.ctrWait.foldl (fun s p =>
    if p.2.any (fun w => gone w.who) then
      (s.setWaits (64 * p.1) ((s.waitsOn (64 * p.1)).filter fun w => !gone w.who)).serveWaiting (64 * p.1)
    else s) s
/-- The takes of splits that leave are cancelled; one still on its way only returns the units that it carries. -/
def cancelTakes (s : State) (gone : Nat → Bool) : State :=
  let mine := fun (m : CtrMsg) => match m.kind with
    | .take _ g _ _ | .sent g _ _ => gone g
    | _ => false
  let kept := s.ctrMsgs.filter fun m => !(mine m && m.arrived)
  let s1 : State := { s with ctrMsgs := kept.map fun m => if mine m then { m with kind := .give } else m }
  s1.dropTakes fun w => match w with
    | .split g _ => gone g
    | _ => false

/-! ### Writes to a counter line by other than AC.* (R172) -/

/-- A counter whose INIT a write clears is no counter any more. -/
def refreshCtr (s : State) (line : Nat) : State :=
  let on := s.ctrInit (128 * line) || s.ctrInit (128 * line + 64)
  let cancel := fun (s : State) (pa : Nat) => if s.ctrInit pa then s else s.cancelWaiting pa
  let s1 := cancel (cancel s (128 * line)) (128 * line + 64)
  s1.setDir line { s1.dir line with ctr := on }
/-- Both counters of a line are recalled. -/
def recallLine (s : State) (line : Nat) : State := (s.recallAll (128 * line)).recallAll (128 * line + 64)
/-- Bytes written at the home; a counter line is recalled first. -/
def lineWrite (s : State) (pa : Nat) (bs : List Byte) : State :=
  let line := lineOf pa
  if (s.dir line).ctr then ((s.recallLine line).homeWrite pa bs).refreshCtr line else s.homeWrite pa bs
/-! ### Deckle (R180) -/

/-- Where Deckle's counter line stands in the firmware region. DESIGN CHOICE (log 75): the spec gives no address. -/
def deckleAt : Nat := 4096
/-- The tokens at the home. -/
def deckle (s : State) : Nat := s.ctrReserve deckleAt
/-- Tokens are given back. -/
def giveTokens (s : State) (n : Nat) : State := if n = 0 then s else s.homeUnits deckleAt n
/-- A waiting-form take of n tokens: granted at once, or put on the list; the flag says granted. -/
def takeTokens (s : State) (who : CtrWaiter) (n : Nat) : State × Bool :=
  if n = 0 then (s, true)
  else if (s.waitsOn deckleAt).isEmpty && n ≤ s.deckle then (s.setReserve deckleAt (s.deckle - n), true)
  else
    let s1 := s.joinWaits deckleAt { who, n }
    ({ s1 with hbx := { s1.hbx with waitedInPeriod := true } }, false)
/-- A take of this party is on the list. -/
def takeWaits (s : State) (who : CtrWaiter) : Bool := (s.waitsOn deckleAt).any fun w => w.who == who

end Sys2Proof.Machine.State
end

