-- ==== Sys2Proof/Machine/Home.lean ====
section
/-! DEFINITION. What the home of a line does: atomic operations (18 Table 18.2 by 17 Table 17.7), far reductions and the
reduction fault log (08 R167 to R170), the requests queued on a line (R160 to R163), node caches (06 R119, 11 R238), and
the accesses of engines and the Headbox. -/

namespace Sys2Proof.Machine
open State

/-- The new value of a location of 4 or 8 bytes under an atomic operation; `cmp` is CAS's compare value. -/
def atomApply (op : AtomOp) (z : Bool) (mode : RMode) (old x cmp : Quad) : Quad :=
  let w := if z then 64 else 32
  let cut := fun v : Quad => BitVec.ofNat 64 (v.toNat % 2 ^ w)
  let signed := fun v : Quad => signedOf w v.toNat
  let f : FFmt := if z then fp64 else fp32
  let dec := fun v : Quad => f.decode (v.toNat % 2 ^ w)
  let enc := fun n : Num => BitVec.ofNat 64 (f.encode mode n)
  let old := cut old
  let x := cut x
  match op with
  | .add => cut (old + x)
  | .and => old &&& x
  | .or => old ||| x
  | .xor => old ^^^ x
  | .min => if signed x < signed old then x else old
  | .max => if signed old < signed x then x else old
  | .umin => if x.ult old then x else old
  | .umax => if old.ult x then x else old
  | .xchg => x
  | .cas => if old = cut cmp then x else old
  | .fadd => enc ((dec old).add mode (dec x))
  | .fmin => enc ((dec old).minmax true (dec x))
  | .fmax => enc ((dec old).minmax false (dec x))

/-- Bytes of an atomic operand. -/
def atomBytes (z : Bool) : Nat := if z then 8 else 4

/-- PCIe AtomicOps: FetchAdd, Swap and CAS only (08 Table 8.4). UALink atomics: the integer operations. -/
def atomTargetOk (op : AtomOp) (tgt : Nat) : Bool :=
  match tgt with
  | 0 => true
  | 1 => op == .add || op == .xchg || op == .cas
  | _ => op != .fadd && op != .fmin && op != .fmax

namespace State

/-! ### Fault records -/

/-- Queues a fault record with the next fault number of its context; the party waits until a resolve (R191 to R193). -/
def postFault (s : State) (r : FaultRec) : State :=
  let fid := (s.ctx r.ctx).nextFid
  let r := { r with fid }
  let s := s.updCtx r.ctx fun c => { c with nextFid := (fid + 1) % 2 ^ 16 }
  { s with flt := { s.flt with
      held := s.flt.held ++ [r],
      open_ := if r.party = .none then s.flt.open_ else s.flt.open_ ++ [r] } }

/-! ### Far reductions (R167 to R170) -/

/-- Writes one reduction fault record; the first one posts REDFAULT to the fault ring (R169, R170). The log must have
room. -/
def logRedFault (s : State) (r : FarRed) (cause : Nat) : State :=
  let c := s.ctx r.ctx
  let q1 := cause * 2 ^ 56 + r.opc * 2 ^ 48 + atomBytes r.z * 2 ^ 44 + r.rm * 2 ^ 42 + r.scope * 2 ^ 39 + r.lane * 2 ^ 34
  let bytes := toLe 8 r.va ++ toLe 8 q1 ++ toLe 8 (r.operand.toNat % 2 ^ (8 * atomBytes r.z)) ++
    toLe 8 (r.block * 2 ^ 32 + r.card)
  let s := s.homeWrite (c.rflog + 32 * c.rfcount) bytes
  let s := if c.rfcount = 0 then s.postFault { cause := 5, ctx := r.ctx } else s
  s.updCtx r.ctx fun k => { k with rfcount := k.rfcount + 1 }
/-- The log of a reduction's context has room for a record. -/
def rfRoom (s : State) (r : FarRed) : Bool := (s.ctx r.ctx).rfcount < 256
/-- A faulting reduction is accepted when its record is written; at 256 records it waits (R169, R170). -/
def redFault (s : State) (r : FarRed) (cause : Nat) : State :=
  if s.rfRoom r then s.logRedFault r cause else { s with farSent := s.farSent ++ [{ r with cause }] }

/-- A read-modify-write at the home, unless a sector of the location is in error once the dirty words are written back
(R112, R168): the state and the old value, or the state with the error logged. -/
def homeRmw (s : State) (pa n : Nat) (f : Nat → Nat) : Except State (State × Nat) :=
  let line := lineOf pa
  let s1 := if (s.dir line).ctr then s.recallLine line else s.cleanLine line
  if s1.bad pa n then .error (s1.logError pa)
  else .ok (s1.lineWrite pa (toLe n (f (s1.peekNat pa n))), s1.peekNat pa n)
/-- Applies one reduction at the home: the owner is recalled, sharers are invalidated (R168), a counter line is recalled
(R172); an uncorrectable error is logged with cause UNCORRECTABLE (15 Table 15.3). -/
def applyRed (s : State) (r : FarRed) : State :=
  match s.homeRmw r.pa (atomBytes r.z) fun old =>
      (atomApply r.op r.z (RMode.ofBits r.rm) (BitVec.ofNat 64 old) r.operand 0).toNat with
  | .error s1 => s1.redFault r causeUncorrectable
  | .ok (s1, _) => s1

/-- The queue of accepted reductions of a line (FARP is its length). -/
def farOf (s : State) (line : Nat) : List FarRed := Tbl.get [] s.farQ line
/-- One reduction less stands before the requests queued on a line. -/
def lessAhead (s : State) (line : Nat) : State :=
  match s.txns.lookup line with
  | some x => { s with txns := Tbl.insert line { x with queue := x.queue.map fun q => (q.1 - 1, q.2) } (Tbl.erase s.txns line) }
  | none => s
/-- Applies the oldest accepted reduction of a line. -/
def applyFar (s : State) (line : Nat) : State :=
  match s.farOf line with
  | [] => s
  | r :: rest => ({ s with farQ := Tbl.set [] s.farQ line rest }.applyRed r).lessAhead line
/-- Applies every accepted reduction of a line, up to its 15. -/
def applyAllFar (s : State) (line : Nat) : State := (s.farOf line).foldl (fun s _ => s.applyFar line) s

/-- Accepts the i-th reduction sent, if its line's queue has room and the line is resident or becomes so. A faulting one needs
room in the log, and comes behind those of its context sent before it, so that the records of a RED keep the order of its
lanes (R169). -/
def acceptFar (s : State) (i : Nat) : State :=
  match s.farSent[i]? with
  | none => s
  | some r =>
    let rest := { s with farSent := s.farSent.eraseIdx i }
    let before := (s.farSent.take i).any fun x => x.cause != 0 && x.ctx == r.ctx
    if r.cause != 0 then (if s.rfRoom r && !before then rest.logRedFault r r.cause else s)
    else if (s.farOf (lineOf r.pa)).length < 15 && !s.noWay (lineOf r.pa) then
      let s1 := rest.allocate (lineOf r.pa)
      { s1 with farQ := Tbl.set [] s1.farQ (lineOf r.pa) (s1.farOf (lineOf r.pa) ++ [r]) }
    else s

/-- Accepts, in order, the reductions sent that satisfy `p`; a full line's queue is applied first, unless the line is
held. -/
def acceptWhere (s : State) (p : FarRed → Bool) : State :=
  (s.farSent.filter p).foldl
    (fun s r =>
      let line := lineOf r.pa
      let full := r.cause == 0 && 15 ≤ (s.farOf line).length && !s.lineHeld line
      let s := if full then s.applyAllFar line else s
      match s.farSent.findIdx? (· == r) with
      | some i => s.acceptFar i
      | none => s) s

/-- A read, own or fill request of a block waits until FARP = 0, so the reductions to the line come first (R168); those
that the same block sent before are ahead of it in program order. -/
def settleFar (s : State) (bid line : Nat) : State :=
  if s.farSent.isEmpty && (s.farOf line).isEmpty || s.lineBusy line then s
  else (s.acceptWhere fun r => lineOf r.pa == line && r.bid == bid).applyAllFar line

/-- Every reduction of the block that can be accepted now is (R35, R136, R376). -/
def flushFar (s : State) (bid : Nat) : State := s.acceptWhere fun r => r.bid == bid
/-- Reductions of a block that are not accepted, or not yet answered by the paired card. -/
def redsLeft (s : State) (bid : Nat) : Bool :=
  (s.farSent.any fun r => r.bid == bid) || s.pending.any fun p => p.red.isSome && bidOf p.gid == bid

/-- A write or reduction on its way to the paired card touches [pa, pa + n). -/
def Pending.meets (q : Pending) (pa n : Nat) : Bool :=
  q.write.any (fun w => w.1 < pa + n && pa < w.1 + w.2.length) || q.red.any fun r => r.pa < pa + n && pa < r.pa + atomBytes r.z
/-- One that a release at DEVICE or SYSTEM scope covers has not been answered: a query or a card behind the release reads
after it (R145, R147). -/
def releasedAhead (s : State) (tgt pa n : Nat) : Bool :=
  tgt == 2 && s.pending.any fun q => Pending.meets q pa n && q.released.any fun r => 3 ≤ r.2.1

/-! ### Node caches (06 R119, 11 R238, R242) -/

def ncKey (line cluster : Nat) : Nat := 64 * line + cluster
/-- The line is the most recently used of its set. The sets are those of the line number modulo 256 (log 73). -/
def ncUse (s : State) (line cluster : Nat) : State :=
  let used := (s.ncUsed.filter fun p => p.1 % 64 == cluster && p.1 / 64 % 256 == line % 256 && p.1 != ncKey line cluster)
  let top := used.foldl (fun m p => max m p.2) 0
  if top < Tbl.get 0 s.ncUsed (ncKey line cluster) then s
  else { s with ncUsed := Tbl.set 0 s.ncUsed (ncKey line cluster) (top + 1) }
/-- A node cache drops a line, and its notice reaches the home (R165). -/
def ncDrop (s : State) (line cluster : Nat) : State :=
  let ag := 152 + cluster
  let d := s.dir line
  let s1 : State := { s with ncache := Tbl.erase s.ncache (ncKey line cluster), ncUsed := Tbl.erase s.ncUsed (ncKey line cluster) }
  if !d.coarse && d.st == .s && d.ptrs.contains ag then
    let ptrs := d.ptrs.filter (· != ag)
    s1.setDir line { d with ptrs, st := if ptrs.isEmpty then .i else .s }
  else s1
/-- A full set of 16 gives up its least recently used line for one that it does not hold. -/
def ncRoom (s : State) (line cluster : Nat) : State :=
  let ways := s.ncache.filter fun p => p.1 % 64 == cluster && p.1 / 64 % 256 == line % 256
  if ways.length < 16 || ways.any (fun p => p.1 == ncKey line cluster) then s
  else
    let age := fun (p : Nat × Option Bool) => Tbl.get 0 s.ncUsed p.1
    match ways.find? fun p => ways.all fun q => age p ≤ age q with
    | some p => s.ncDrop (p.1 / 64) cluster
    | none => s
/-- A line comes to a node cache; one that is in error is marked as poisoned, and the error is logged (R242). -/
def ncFill (s : State) (line cluster : Nat) : State :=
  let s1 := (s.ncRoom line cluster).homeShare (152 + cluster) line
  let bad := s1.bad (128 * line) 128
  let s2 := if bad then (s1.logError (128 * line)).logPoison (128 * line) else s1
  { s2 with ncache := Tbl.set none s2.ncache (ncKey line cluster) (some bad) }.ncUse line cluster

/-! ### Requests queued on a line (R160 to R163) -/

def setTxn (s : State) (line : Nat) (x : Txn) : State := { s with txns := Tbl.insert line x (Tbl.erase s.txns line) }
def dropTxn (s : State) (line : Nat) : State := { s with txns := Tbl.erase s.txns line }

/-- A shared copy goes to an agent: an L1, which keeps none while its set has no way for the line (log 73), or a node cache
(R119, R162). -/
def grantRead (s : State) (ag line : Nat) : State :=
  if ag < 152 then
    if !s.hasRoom ag line then s
    else
    let s1 := (s.makeRoom ag line).homeShare ag line
    (s1.setL1 ag line { s1.l1 ag line with valid := -1 }).useL1 ag line
  else s.ncFill line (ag - 152)

/-- The agents that receive an invalidation (Table 8.2). -/
def recipients (s : State) (line core : Nat) : List Nat :=
  let d := s.dir line
  let all := if d.coarse then
      ((List.range 38).filter fun c => d.shr.getLsbD c).flatMap fun c =>
        (((List.range 4).map (4 * c + ·)).filter fun a => !Tbl.get false s.left a) ++ [152 + c]
    else d.ptrs
  all.filter (· != core)

/-- Starts a request at its turn: the transaction it leaves in progress, or none when it is already served. -/
def startRequest (s : State) (line : Nat) (k : TxnKind) : State × Option Txn :=
  let d := s.dir line
  match k with
  | .read ag =>
    if d.st == .x && !d.cpe && d.ptrs.headD 0 != ag then
      (s, some { kind := k, msgs := [.recall (d.ptrs.headD 0) true] })
    else (s.grantRead ag line, none)
  | .own core _ =>
    match d.st with
    | .i => (s.allocate line, some { kind := k, granted := true })
    | .s =>
      let rs := s.recipients line core
      (s, some { kind := k, granted := true, ackn := rs.length, msgs := rs.map fun a => .inv a core })
    | .x =>
      if d.ptrs.headD 0 = core then (s, none)
      else (s, some { kind := k, msgs := [.recall (d.ptrs.headD 0) false] })
  | .fill core => if (s.l1 core line).owned then (s.setL1 core line { s.l1 core line with valid := -1 }, none) else (s, none)
  | .idle | .counter .. => (s, none)

/-- A request with `n` reductions before it can start: none is left, no CPE copy owns the line, and its set has a way. -/
def mayServe (s : State) (line n : Nat) : Bool :=
  n == 0 && !((s.dir line).st == .x && (s.dir line).cpe) && !s.noWay line
/-- Serves the queue of a line until a request is in progress, or is not to be served yet (R160, R168). -/
def serveQueue (line : Nat) : List (Nat × TxnKind) → State → State
  | [], s => s.dropTxn line
  | (n, k) :: rest, s =>
    if s.mayServe line n then
      match (s.dropTxn line).startRequest line k with
      | (s1, none) => serveQueue line rest s1
      | (s1, some x) => s1.setTxn line { x with queue := rest }
    else s.setTxn line { kind := .idle, queue := (n, k) :: rest }

/-- A request reaches the home: it is served, or queued behind the one in progress, a CPE copy's write or the accepted
reductions. A counter line is in no L1 (R172). -/
def request (s : State) (line : Nat) (k : TxnKind) : State :=
  if (s.dir line).ctr then s
  else
    let q := ((s.farOf line).length, k)
    match s.txns.lookup line with
    | some x => s.setTxn line { x with queue := x.queue ++ [q] }
    | none => serveQueue line [q] s
/-- What the queue waited for is over: it is served. -/
def serveFreed (s : State) (line : Nat) : State :=
  match s.txns.lookup line with
  | some x => if x.kind = .idle then serveQueue line x.queue s else s
  | none => s

/-- The agent of a request. -/
def asker : TxnKind → Option Nat
  | .own c _ | .fill c | .read c => some c
  | .idle | .counter .. => none
/-- Agents that stop using their copies withdraw the requests that they have at the home (R116, R166). -/
def withdrawAsks (s : State) (mine : Nat → Bool) : State :=
  s.txns.foldl (fun s p =>
    let q := p.2.queue.filter fun k => !(asker k.2).any mine
    if (asker p.2.kind).any mine || p.2.kind = .idle then serveQueue p.1 q s
    else if q.length = p.2.queue.length then s else s.setTxn p.1 { p.2 with queue := q }) s

/-- Ends a CPE copy's ownership of a line (R164); the requests that waited for it are served. -/
def freeLine (s : State) (line : Nat) : State :=
  let d := s.dir line
  (if d.st == .x && d.cpe then s.setDir line { d with st := .i, cpe := false, ptrs := [] } else s).serveFreed line
/-- Removes a copy and gives up the lines it owns. -/
def dropCopyOf (s : State) (cid : Nat) : State :=
  match s.copy cid with
  | none => s
  | some k => k.owned.foldl freeLine { s with copies := Tbl.erase s.copies cid }

/-! ### Accesses of engines and the Headbox -/

/-- The lines that n bytes at `pa` touch. -/
def linesOf (pa n : Nat) : List Nat := (List.range (lineOf (pa + n - 1) + 1 - lineOf pa)).map (lineOf pa + ·)
/-- A request to a line waits until its accepted reductions are applied (R168). -/
def settleHome (s : State) (tgt pa n : Nat) : State :=
  if tgt != 0 || n = 0 then s else (linesOf pa n).foldl (fun s l => s.applyAllFar l) s
/-- Applies the accepted reductions of every line of a virtual range that translates. -/
def settleVa (s : State) (core : Option Nat) (ctx va n : Nat) : State :=
  (pieces va n).foldl (fun s p => match s.translate core ctx p.1 .read with
    | (.ok tgt pa, s1) => if s1.blocked tgt pa p.2 then s1 else s1.settleHome tgt pa p.2
    | (.fault _ _, _) => s) s
/-- Some page of the range is the paired card's, and a write that the reader is behind is on its way to it. -/
def aheadVa (s : State) (core : Option Nat) (ctx va n : Nat) : Bool :=
  !s.pending.isEmpty && (pieces va n).any fun p => match (s.translate core ctx p.1 .read).1 with
    | .ok tgt pa => s.releasedAhead tgt pa p.2
    | .fault _ _ => false
/-- `engineRead` after the reductions of its lines. -/
def engRead (s : State) (core : Option Nat) (ctx va n : Nat) : Except (Nat × Nat × Nat) (List Byte × Bool) × State :=
  if s.aheadVa core ctx va n then (.error (va, 0, 0), s) else (s.settleVa core ctx va n).engineRead core ctx va n
/-- A write at a target that keeps counter lines in order (R172) and applies reductions first. -/
def engPut (s : State) (tgt pa : Nat) (bs : List Byte) : State :=
  if bs.isEmpty then s
  else if tgt = 0 then
    let s1 := s.settleHome 0 pa bs.length
    if (linesOf pa bs.length).any fun l => (s1.dir l).ctr then
      -- line by line, each within its own 128 bytes
      (linesOf pa bs.length).foldl (fun s l =>
        let lo := max pa (128 * l)
        let hi := min (pa + bs.length) (128 * l + 128)
        s.lineWrite lo ((bs.drop (lo - pa)).take (hi - lo))) s1
    else s1.homeWrite pa bs
  else s.tgtWrite tgt pa bs
/-- A write of an engine: every page is translated first; nothing is written while a line is held. Cause 0 is no
fault. -/
def engWrite (s : State) (core : Option Nat) (ctx va : Nat) (bs : List Byte) : Except (Nat × Nat × Nat) Unit × State :=
  let r := (pieces va bs.length).foldl
    (fun (r : Except (Nat × Nat × Nat) (List (Nat × Nat × Nat × Nat)) × State) p =>
      match r with
      | (.error e, s) => (.error e, s)
      | (.ok l, s) =>
        match s.translate core ctx p.1 .write with
        | (.fault c lv, s1) => (.error (p.1, c, lv), s1)
        | (.ok tgt pa, s1) =>
          if s1.blocked tgt pa p.2 || s1.releasedAhead tgt pa p.2 then (.error (p.1, 0, 0), s1)
          else (.ok (l ++ [(tgt, pa, p.1 - va, p.2)]), s1))
    (.ok [], s)
  match r with
  | (.error e, s1) => (.error e, s1)
  | (.ok l, s1) => (.ok (), l.foldl (fun s q => s.engPut q.1 q.2.1 ((bs.drop q.2.2.1).take q.2.2.2)) s1)

end State
end Sys2Proof.Machine
end

