-- ==== Sys2Proof/Machine/EndCtx.lean ====
section
/-! DEFINITION. Trap reports, the status of a card, EndContext and the firmware error (13 R257, 15 R290, R292, R296,
16 R306). -/

namespace Sys2Proof.Machine

/-! ### Rings (13 R254) -/

/-- log2 of the ring's length (13 Table 13.1). -/
def Queue.bitsK (q : Queue) : Nat :=
  let k := q.size.toNat % 32
  if 4 ≤ k && k ≤ 16 then k else 4
def Queue.len (q : Queue) : Nat := 2 ^ Queue.bitsK q
/-- R254. -/
def Queue.full (q : Queue) : Bool := (q.tail.toNat + 1) % Queue.len q == q.head.toNat % Queue.len q
def Queue.empty (q : Queue) : Bool := q.tail.toNat % Queue.len q == q.head.toNat % Queue.len q
/-- Target and address of ring entry i. -/
def Queue.tgt (q : Queue) : Nat := if q.base.getLsbD 63 then 1 else 0
def Queue.entryAt (q : Queue) (i : Nat) : Nat := State.bitsOf q.base.toNat 5 52 * 32 + 32 * (i % Queue.len q)
/-- HEAD moves past one entry. -/
def Queue.pastHead (q : Queue) : Queue := { q with head := BitVec.ofNat 16 ((q.head.toNat + 1) % Queue.len q) }

namespace State

/-! ### Trap reports (R296) -/

/-- What a trap report names; all zero for HOST. -/
structure Report where
  cause : Quad := 0
  epc : Nat := 0
  bid : Option Nat := none
  group : Nat := 0
  slot : Nat := 0
  deriving DecidableEq, Repr

/-- KIND of a trap report (15 Table 15.5), which is also the reason of EndContext. -/
inductive Reason where
  | unhandled | double | stream | host | hang
  deriving DecidableEq, Repr
def Reason.code : Reason → Nat
  | .unhandled => 1 | .double => 2 | .stream => 3 | .host => 4 | .hang => 5

/-- Writes report i, if i is at most 62, then increments the count and posts the fault message. -/
def trapReport (s : State) (c : Nat) (why : Reason) (r : Report) : State :=
  let area := (s.ctx c).trarea
  let i := s.peekNat area 8
  let b := s.blk (r.bid.getD 0)
  let q3 := if r.bid.isSome then b.no * 2 ^ 32 + s.cardField b.card else 0
  let q4 := if r.bid.isSome then b.core * 2 ^ 56 + r.group * 2 ^ 51 + r.slot * 2 ^ 49 else 0
  let bytes := toLe 8 (why.code * 2 ^ 56) ++ toLe 8 r.cause.toNat ++ toLe 8 r.epc ++ toLe 8 q3 ++ toLe 8 q4 ++ toLe 24 0
  let s := if i ≤ 62 then s.homeWrite (area + 64 + 64 * i) bytes else s
  (s.homeWrite area (toLe 8 (i + 1))).postMsi 0

/-! ### Card status -/

/-- A fault of a Headbox access for a card: a record with SOURCE 5; the card waits for its resolve (R188). Cause 0 is no
fault. -/
def cardFault (s : State) (c : Nat) (e : Nat × Nat × Nat) (code : Nat) : State :=
  if e.2.1 = 0 then s
  else
    let s1 := s.postFault { va := e.1, cause := e.2.1, source := 5, access := code, level := e.2.2,
                            ctx := (s.card c).ctx, card := s.cardField c, party := .headbox c }
    s1.updCard c fun k => { k with fltWait := true }
/-- Quads 14 and 15 of a card: status, its detail and information, and the clock (R257 step 1). -/
def statusBytes (s : State) (e : Nat × Nat × Nat) : List Byte :=
  toLe 8 (e.1 * 2 ^ 56 + e.2.1 % 256 * 2 ^ 48 + e.2.2 % 2 ^ 32) ++ toLe 8 s.clock

/-- A card of an ended context completes with ABORTED, unless an earlier one of its queue has still to (R292 step 3). A
card that the Headbox has not read before is read for its IRQ bit. A fault of the access is recorded, and the card
waits. -/
def abortCard (s : State) (c : Nat) : State :=
  let k := s.card c
  let earlier := s.cards.any fun p => p.2.phase == .abort && p.2.queue == k.queue && p.1 < c
  if k.phase != .abort || k.fltWait || earlier then s
  else
    let quad0 : Except (Nat × Nat × Nat) Nat × State := match k.quads with
      | q :: _ => (.ok q.toNat, s)
      | [] => match s.engRead none k.ctx k.va 8 with
        | (.ok (bs, bad), s1) => (.ok (leNum bs), if bad then s1.logError k.va else s1)
        | (.error e, s1) => (.error e, s1)
    match quad0 with
    | (.error e, s1) => s1.cardFault c e 0
    | (.ok q, s1) =>
      match s1.engWrite none k.ctx (k.va + 112) (s1.statusBytes (9, 0, 0)) with
      | (.error e, s2) => s2.cardFault c e 1
      | (.ok (), s2) =>
        let s3 := if q / 2 ^ 47 % 2 = 1 then s2.postMsi (3 + k.queue) else s2
        { s3 with cards := Tbl.erase s3.cards c }
/-- A card at `va` joins those of its queue that still complete with ABORTED; `quads` holds what has been read of it. -/
def listAbort (s : State) (ctx q va : Nat) (quads : List Quad := []) : State :=
  let c := s.freshId s.cards
  (s.takeId c).setCard c { phase := .abort, ctx, va, queue := q, quads }
/-- The ring cards of an ended context's queue are read and HEAD moves past them, up to an entry whose line is held; an
entry in error names no card. -/
def abortRing (q : Nat) : Nat → State → State
  | 0, s => s
  | fuel + 1, s =>
    let x := s.queue q
    let a := Queue.entryAt x x.head.toNat
    if Queue.empty x || s.blocked (Queue.tgt x) a 32 then s
    else
      let s0 := s.settleHome (Queue.tgt x) a 32
      let past := fun s : State => s.updQueue q Queue.pastHead
      abortRing q fuel (
        if s0.tgtBad (Queue.tgt x) a 32 then past (s0.logError a)
        else past (s0.listAbort x.ctx q (leNum (s0.tgtBytes (Queue.tgt x) a 8) % 2 ^ 57)))
/-- Every card of an ended context that can complete with ABORTED now does, queue by queue in order. -/
def abortAll (s : State) (c : Nat) : State :=
  (s.cards.filter fun p => p.2.ctx == c && p.2.phase == .abort).foldl (fun s p => s.abortCard p.1) s
/-- The cards of a queue of an ended context: those that it has read and passed over, unless a predecessor has released them
since, those released to it, then those of its ring. -/
def abortQueue (s : State) (c q : Nat) : State :=
  let x := s.queue q
  let released := (List.range 32).flatMap fun r => (s.queue r).ready ++ (s.queue r).waiting
  let passedOver := if x.ctx = c then x.passed.filter fun e => !released.contains (c, e.1) else []
  let s0 := passedOver.foldl (fun s e => s.listAbort c q e.1 [e.2.2]) s
  let s1 := ((x.ready ++ x.waiting).filter fun e => e.1 == c).foldl (fun s e => s.listAbort c q e.2) s0
  let s2 := s1.updQueue q fun x =>
    { x with ready := x.ready.filter fun e => e.1 != c, waiting := x.waiting.filter fun e => e.1 != c }
  if x.ctx != c then s2
  else abortRing q 65536 (s2.updQueue q fun x => { x with card := none, rel := none, cur := 0, passed := [] })

/-! ### EndContext (R292) -/

/-- Releases the pins of the current task of a group. -/
def unpinTask (s : State) (gid : Nat) : State :=
  match (s.grp gid).task with
  | some t => s.unpin (s.blk (bidOf gid)).core t.pins
  | none => s
/-- Removes a block with its groups, takes and port chains, returning its pins, frame and tokens. -/
def dropBlock (s : State) (b : Nat) : State :=
  let k := s.blk b
  let s0 := if k.phase = .swapped then s else (s.groupsOf b).foldl unpinTask s
  let s1 := (s0.cancelTakes fun g => bidOf g == b).giveTokens k.tokens
  let s2 := match k.frame with
    | some f => s1.updCtx k.ctx fun c => { c with frames := c.frames.filter (· != f) }
    | none => s1
  { s2 with blks := Tbl.erase s2.blks b,
            grps := s2.grps.filter fun p => p.1 / 32 != b,
            ports := s2.ports.filter fun p =>
              !p.2.owner.any fun o => bidOf o.1 == b,
            pending := s2.pending.filter fun p => p.gid / 32 != b || p.write.isSome || p.red.isSome }

/-- The table of lists without the elements that fail `f`. -/
def cutLists {α : Type} (f : α → Bool) (t : Tbl (List α)) : Tbl (List α) :=
  (t.map fun p => (p.1, p.2.filter f)).filter fun p => !p.2.isEmpty
/-- The records of a context that the device holds are discarded, with the pins of its task records (R292 step 2). -/
def dropRecords (s : State) (c : Nat) : State :=
  let s1 := s.inbox.foldl (fun s p => (p.2.filter (·.ctx == c)).foldl (fun s r => s.unpin p.1 r.pins) s) s
  { s1 with
    ingress := cutLists (·.ctx != c) s1.ingress, cqs := cutLists (·.ctx != c) s1.cqs,
    ssus := cutLists (·.ctx != c) s1.ssus, inbox := cutLists (·.ctx != c) s1.inbox, trps := s1.trps.filter fun p => p.2.ctx != c || p.2.phase = .free,
    flt := { s1.flt with open_ := s1.flt.open_.filter (·.ctx != c) } }

/-- EndContext (R292): dispatch stops, the context's work is discarded, its cards complete ABORTED, a report is written.
Its allowances go back (R178). -/
def endContext (s : State) (c : Nat) (why : Reason) (r : Report) : State :=
  let s0 := s
  let s := s.updCtx c fun k => { k with ended := true, suspended := true }
  let mine := (s.blks.filter fun p => p.2.ctx == c).map (·.1)
  let s := (s.dropRecords c).dropTakes fun w => match w with
    | .headbox k => (s.card k).ctx == c
    | .block b => mine.contains b
    | _ => false
  let s := (s.copies.filter fun p => p.2.ctx == c).foldl (fun s p => s.dropCopyOf p.1) s
  let s := (mine.foldl dropBlock s).returnAllows c
  -- a card whose status is written only stops releasing successors; one not read yet is still in its list or ring
  let s := (s.cards.filter fun p => p.2.ctx == c).foldl (fun s p =>
    if p.2.phase = .done || p.2.phase = .fetch || p.2.phase = .entry || p.2.succ.isSome then { s with cards := Tbl.erase s.cards p.1 }
    else (s.giveTokens p.2.tokens).setCard p.1 { phase := .abort, ctx := c, va := p.2.va, queue := p.2.queue, quads := p.2.quads }) s
  let s := (List.range 32).foldl (fun s q => s.abortQueue c q) s
  let s := s.abortAll c
  -- the report names the block as it stood
  { s with blks := s0.blks, cards := s0.cards }.trapReport c why r |>
    fun t => { t with blks := s.blks, cards := s.cards }

/-! ### Suspension and the firmware error (15 R290, R295, 16 R306) -/

/-- Stops dispatch for a context; its blocks are then swapped out (R195). A place that was being made for one of its gangs is
anyone's again (R41). -/
def suspendCtx (s : State) (c : Nat) : State :=
  if Tbl.has s.ctxs c then
    let s1 := s.updCtx c fun k => { k with suspended := true }
    { s1 with hbx := { s1.hbx with yieldFor := s1.hbx.yieldFor.filter fun h => (s1.blk h).ctx != c } }
  else s
/-- A block that holds core resources. -/
def resident (b : Block) : Bool := b.phase == .resident || b.phase == .draining
/-- No block of the context holds a core. -/
def ctxOut (s : State) (c : Nat) : Bool := !(s.blks.any fun b => b.2.ctx == c && resident b.2)
/-- A suspended context whose blocks have all left returns its allowances (R178, R295). -/
def leftOut (s : State) (c : Nat) : State :=
  if (s.ctx c).suspended && s.ctxOut c then s.returnAllows c else s
/-- FWERR is set, the error vector is posted and every user context is suspended. -/
def firmwareError (s : State) : State :=
  let s1 : State := { s with dev := { s.dev with fwerr := true } }
  (s1.ctxs.filter fun p => !p.2.fw).foldl (fun s p => (s.suspendCtx p.1).leftOut p.1) (s1.postMsi 1)

end State
end Sys2Proof.Machine
end

