-- ==== Sys2Proof/Machine/Ops.lean ====
section
/-! DEFINITION. Named operations over groups: registers, splits and joins (03), traps (15 R285 to R290) and barriers
(18 R344 to R349). -/

namespace Sys2Proof.Machine.State

/-! ### The split that issues -/

def gid (s : State) : Nat := s.issue.gid
def g (s : State) : Group := s.grp s.issue.gid
def bid (s : State) : Nat := bidOf s.issue.gid
def b (s : State) : Block := s.blk s.bid
/-- Context of the issuing group. -/
def ctxId (s : State) : Nat := s.b.ctx
def core (s : State) : Nat := s.b.core
/-- The issuing split's slot. -/
def sl (s : State) : Slot := s.slotAt s.issue.gid s.issue.slot
def updSl (s : State) (f : Slot → Slot) : State := s.updSlot s.issue.gid s.issue.slot f
def active (s : State) : LaneMask := s.issue.active
def setOut (s : State) (o : Out) : State := { s with issue := { s.issue with out := o } }
/-- The address of the bundle after this one, bits [56:3]. -/
def nextPc (s : State) : BitVec 54 := BitVec.ofNat 54 (s.issue.addr / 8 + 1)

/-- Bits of %cause (15 Table 15.2). -/
def causeAct (q : Quad) : Bool := q.getLsbD 63
def causeSlot (q : Quad) : Nat := q.toNat / 2 ^ 61 % 4
/-- A split's repetition state applies unless it is in the handler (R424). -/
def repOn (s : State) (gid k : Nat) : Bool :=
  let c := (s.grp gid).cause
  (s.slotAt gid k).act && !(causeAct c && causeSlot c == k)

/-- A register name after staggering (R73). -/
def vname (s : State) (v : Nat) : Nat :=
  if s.repOn s.issue.gid s.issue.slot && s.sl.repFloor ≤ v && v < 120 then v + s.sl.pass * s.sl.repStride else v

/-! ### Vector registers (R59 to R61) -/

def cellKey (r lane : Nat) : Nat := 32 * r + lane
def vcell (s : State) (gid r lane : Nat) : VCell := Tbl.get {} (s.grp gid).vregs (cellKey r lane)
/-- A register lane of the issuing group as it stood at issue. -/
def vcur (s : State) (r lane : Nat) : VCell :=
  Tbl.get {} (s.issue.snap.getD s.g.vregs) (cellKey r lane)
def setCell (s : State) (gid r lane : Nat) (c : VCell) : State :=
  s.updGrp gid fun g => { g with vregs := Tbl.set {} g.vregs (cellKey r lane) c }
/-- A write that is no capability write clears the tag (R61). -/
def vwrite (s : State) (r lane : Nat) (v : Word) : State := s.setCell s.issue.gid r lane { val := v }

/-! ### Group-scalar registers (R83) -/

def sreg (s : State) (k : Nat) : Quad := Tbl.get 0 s.g.sregs k
/-- A write to an s-register clears its pair's tag (R426). -/
def swrite (s : State) (k : Nat) (v : Quad) : State :=
  s.updGrp s.issue.gid fun g =>
    { g with sregs := Tbl.set 0 g.sregs k v, stags := Tbl.set false g.stags (k / 2) false }

/-! ### Capabilities in registers (R75) -/

def quadCap (s : State) (q lane : Nat) : Cap :=
  let c := fun i => s.vcur (4 * q + i) lane
  { bits := (c 3).val ++ (c 2).val ++ (c 1).val ++ (c 0).val,
    tag := (c 0).tag && (c 1).tag && (c 2).tag && (c 3).tag }
def pairCap (s : State) (p : Nat) : Cap :=
  { bits := s.sreg (2 * p + 1) ++ s.sreg (2 * p), tag := Tbl.get false s.g.stags p }
def setQuadCap (s : State) (q lane : Nat) (c : Cap) : State :=
  (List.range 4).foldl (fun s i =>
    s.setCell s.issue.gid (4 * q + i) lane { val := c.bits.extractLsb' (32 * i) 32, tag := c.tag }) s
def setPairCap (s : State) (p : Nat) (c : Cap) : State :=
  s.updGrp s.issue.gid fun g =>
    { g with sregs := Tbl.set 0 (Tbl.set 0 g.sregs (2 * p) (c.bits.extractLsb' 0 64)) (2 * p + 1) (c.bits.extractLsb' 64 64),
             stags := Tbl.set false g.stags p c.tag }

/-! ### Splits (R42 to R47) -/

/-- Occupied slots of a group, in order. -/
def occupied (s : State) (gid : Nat) : List Nat := (List.range 4).filter fun k => (s.slotAt gid k).occ
def freeSlots (s : State) (gid : Nat) : List Nat := (List.range 4).filter fun k => !(s.slotAt gid k).occ
/-- R45. -/
def converged (s : State) (gid : Nat) : Bool := (s.occupied gid).length == 1 && (s.grp gid).defer.isEmpty

/-- The word of barrier `n` of a block (R344). -/
def barWord (s : State) (bid n : Nat) : Quad :=
  BitVec.ofNat 64 (leNum ((List.range 8).map fun i => Tbl.get 0 (s.blk bid).scratch (8 * n + i)))
def phaseOf (w : Quad) : Bool := w.getLsbD 63

/-- What a slot keeps beyond the split in it: its age stamp, and, while the handler runs in it, its repetition state
(R74). -/
def slotBase (s : State) (gid k : Nat) : Slot :=
  let sl := s.slotAt gid k
  let c := (s.grp gid).cause
  if causeAct c && causeSlot c == k then
    { age := sl.age, act := sl.act, idx := sl.idx, pass := sl.pass, repBody := sl.repBody, repCnt := sl.repCnt,
      repLen := sl.repLen, repStride := sl.repStride, repFloor := sl.repFloor }
  else { age := sl.age }

/-- The record that holds the lanes of a WT = 2 entry is still open (R54). -/
def recordOpen (s : State) (gid : Nat) (d : Deferral) : Bool :=
  (s.grp gid).par.any fun r => r.bar == d.bar && r.rem.isNone && d.mask &&& ~~~r.mask == 0

/-- R47: a slot without running lanes takes its newest deferral entry, or becomes free. -/
def resumeSlot (s : State) (gid k : Nat) : State :=
  let sl := s.slotAt gid k
  if sl.run != 0 then s
  else
    match (s.grp gid).defer.reverse.find? fun d => d.owner == k with
    | none => s.setSlot gid k (s.slotBase gid k)
    | some d =>
      let s1 := s.updGrp gid fun g => { g with defer := (g.defer.reverse.erase d).reverse }
      let arw := d.wt == 2 && s.recordOpen gid d
      let waits := d.wt != 0 && (arw || phaseOf (s.barWord (bidOf gid) d.bar) == d.p)
      s1.setSlot gid k
        { s.slotBase gid k with
          occ := true, pc := d.pc, run := d.mask, fmt := d.fmt,
          wait := if waits then .barrier else .ready,
          waitFor := if arw then .arw d.bar else if waits then .bar d.bar d.p else .none }

/-- Makes deferral entries of slot `k`, so that the first class of the list resumes first (R46). -/
def deferClasses (s : State) (gid k : Nat) (cs : List (BitVec 54 × LaneMask)) : State :=
  let fmt := (s.slotAt gid k).fmt
  s.updGrp gid fun g =>
    { g with defer := g.defer ++ (cs.map fun c => { owner := k, pc := c.1, mask := c.2, fmt : Deferral }).reverse }

/-- New splits take the lowest free slots, with the issuing split's %fmt and age stamp (R46). -/
def placeClasses (s : State) (gid k : Nat) (cs : List (BitVec 54 × LaneMask)) : State :=
  (cs.zip (s.freeSlots gid)).foldl (fun s p =>
    let sl := s.slotAt gid k
    s.setSlot gid p.2 { occ := true, pc := p.1.1, run := p.1.2, fmt := sl.fmt, age := sl.age }) s

/-- R46: `stay` is the class of the issuing slot; `rest` are the others in increasing order of their lowest lane. With
too few slots the first classes are placed and the remaining ones deferred. -/
def divide (s : State) (gid k : Nat) (stay : BitVec 54 × LaneMask) (rest : List (BitVec 54 × LaneMask)) : State :=
  let f := (s.freeSlots gid).length
  let s := s.updSlot gid k fun sl => { sl with pc := stay.1, run := stay.2 }
  let s := s.placeClasses gid k (rest.take f)
  s.deferClasses gid k (rest.drop f)

/-! ### Joins (R49 to R55) -/

def join (s : State) (gid j : Nat) : JoinReg := Tbl.get {} (s.grp gid).joins j
def setJoin (s : State) (gid j : Nat) (v : JoinReg) : State :=
  s.updGrp gid fun g => { g with joins := Tbl.set {} g.joins j v }

/-- Complete(j, k) of R50: disarms the register and places its lanes, with any lanes still in slot k, after the last
JOIN deposited at. `still` are those lanes. DESIGN CHOICE (logs 66, 70, 71): the split takes the age stamp that slot k
holds, a disarmed register keeps only DPC, and no monitor stays with a merged split. -/
def completeJoin (s : State) (gid j k : Nat) (still : LaneMask) : State :=
  let r := s.join gid j
  let lanes := r.arrived ||| still
  let pc := r.dpc + 1
  let s := s.updGrp gid fun g => { g with joins := (g.joins.map fun p =>
      if p.2.armed && r.rank < p.2.rank then (p.1, { p.2 with rank := p.2.rank - 1 }) else p) }
  let s := s.setJoin gid j { dpc := r.dpc }
  let sl := s.slotAt gid k
  let new : Slot := { age := sl.age, occ := true, pc, run := lanes, fmt := r.fmt }
  if !sl.occ || sl.run == still && still != 0 then
    s.setSlot gid k { s.slotBase gid k with occ := true, pc, run := lanes, fmt := r.fmt }
  else
    match s.freeSlots gid with
    | m :: _ => s.setSlot gid m new
    | [] => s.updGrp gid fun g => { g with defer := g.defer ++ [{ owner := k, pc, mask := lanes, fmt := r.fmt }] }

/-! ### Traps (15) -/

/-- A trap: code and subcode of Table 15.1, lowest lane concerned, INFO, and whether %epc holds the following bundle's
address (TRAP, BKPT). -/
structure Cause where
  code : Nat
  sub : Nat := 0
  lane : Nat := 0
  info : Nat := 0
  following : Bool := false
  deriving DecidableEq, Repr

/-- Order of R286. -/
def Cause.order (k : Cause) : Nat :=
  match k.code with
  | 1 => 1 | 2 => 2 | 3 => 3 | 6 => 4 | 5 => 5 | 4 => 6 | 7 => 7 | 8 => 8
  | 17 => if k.sub = 3 then 9 else 16
  | 9 => 10 | 10 => 11 | 11 => 12 | 12 => 13 | 13 => 14 | 14 => 15 | 15 => 17 | _ => 18

/-- The first cause that applies (R286). -/
def firstCause : List Cause → Option Cause
  | [] => none
  | k :: r =>
    match firstCause r with
    | none => some k
    | some m => if Cause.order m < Cause.order k then some m else some k

/-- %cause of a trap in slot `slot` (15 Table 15.2). -/
def causeWord (k : Cause) (slot : Nat) (act : Bool) : Quad :=
  BitVec.ofNat 64 ((if act then 2 ^ 63 else 0) + slot * 2 ^ 61 + k.code * 2 ^ 48 + k.sub * 2 ^ 40 + k.lane * 2 ^ 35
    + k.info % 2 ^ 32)

/-- Ends the chain of a split and discards its latches (R70). -/
def endChain (s : State) (gid k : Nat) : State :=
  { s with ports := s.ports.map fun p =>
      if p.2.owner = some (gid, k) then (p.1, {}) else p }

/-- The issuing split would trap, and is held because another split of its group is in the handler (R289). -/
def trapHeld (s : State) : Bool := causeAct s.g.cause && causeSlot s.g.cause != s.issue.slot

/-- R288 to R290: takes a trap of the issuing split. A split other than the handler's is held while ACT = 1; a trap in
the handler's own split is a double trap. In firmware a double or unhandled trap is a firmware error, and the split issues
nothing more. -/
def takeTrap (s : State) (k : Cause) : State :=
  let slot := s.issue.slot
  let cause := s.g.cause
  let tvec := (s.ctx s.ctxId).tvec
  let epc := if k.following then s.issue.addr + 8 else s.issue.addr
  let fatal := fun (why : Reason) (w : Quad) =>
    if (s.ctx s.ctxId).fw then
      (if s.dev.fwerr then s else s.firmwareError).updSl fun sl => { sl with held := true }
    else s.endContext s.ctxId why { cause := w, epc, bid := some s.bid, group := s.issue.gid % 32, slot }
  if s.trapHeld then (s.updSl fun sl => { sl with held := true }).setOut .stay
  else if causeAct cause then (fatal .double (causeWord k slot true)).setOut .trapped
  else if tvec = 0 then (fatal .unhandled (causeWord k slot false)).setOut .trapped
  else
    let s := s.updGrp s.issue.gid fun g =>
      { g with cause := causeWord k slot true, epc := BitVec.ofNat 64 (epc % 2 ^ 57) }
    let s := s.updSl fun sl => { sl with pc := BitVec.ofNat 54 (tvec / 8) }
    (s.endChain s.issue.gid slot).setOut .trapped

/-- A group leaves the handler: ACT becomes 0, and the splits held under R289 may issue again. A free slot keeps only its
age stamp. -/
def endHandler (s : State) (gid : Nat) : State :=
  s.updGrp gid fun g =>
    { g with cause := g.cause &&& 0x7FFFFFFFFFFFFFFF,
             slots := (g.slots.map fun p =>
               (p.1, if p.2.occ then { p.2 with held := false } else { age := p.2.age : Slot })).filter fun p => p.2 != {} }

/-- The return of R288 where ACT = 1: the split resumes at %epc. -/
def trapReturn (s : State) : State :=
  let epc := s.g.epc
  let s := s.endHandler s.issue.gid
  let s := s.updSl fun sl => { sl with pc := epc.extractLsb' 3 54 }
  (s.endChain s.issue.gid s.issue.slot).setOut .jumped

/-! ### Barriers (18 R344 to R349) -/

/-- Fields of a barrier word (18 Table 18.3). -/
structure Bar where
  phase : Bool := false
  exp : Nat := 0
  arr : Nat := 0
  pend : Nat := 0
  exc : Bool := false
  rema : Bool := false
  init : Bool := false
  deriving DecidableEq, Repr

def Bar.ofWord (w : Quad) : Bar :=
  let n := w.toNat
  { phase := w.getLsbD 63, exp := bitsOf n 51 12, arr := bitsOf n 39 12, pend := bitsOf n 7 32, exc := w.getLsbD 2,
    rema := w.getLsbD 1, init := w.getLsbD 0 }
def Bar.toWord (x : Bar) : Quad :=
  BitVec.ofNat 64 (x.phase.toNat * 2 ^ 63 + x.exp % 4096 * 2 ^ 51 + x.arr % 4096 * 2 ^ 39 + x.pend % 2 ^ 32 * 2 ^ 7 +
    x.exc.toNat * 4 + x.rema.toNat * 2 + x.init.toNat)
/-- Check of R345. -/
def Bar.check (x : Bar) : Bar :=
  if x.exp != 0 && x.arr == x.exp && x.pend == 0 then { x with phase := !x.phase, arr := 0, rema := false } else x

/-- Ends every wait on a barrier whose phase has passed (R345). -/
def wakeBar (s : State) (bid n : Nat) : State :=
  let ph := phaseOf (s.barWord bid n)
  { s with grps := s.grps.map fun p =>
      if p.1 / 32 == bid then
        (p.1, { p.2 with slots := p.2.slots.map fun q =>
          match q.2.waitFor with
          | .bar m ph' => if m == n && ph != ph' then (q.1, { q.2 with wait := .ready, waitFor := .none }) else q
          | _ => q })
      else p }

/-- One read-modify-write of a barrier word with Check (R344, R345). A phase that passes is an acquire of the block's
groups: at BLOCK scope, or at GANG scope where a remote arrival counted (07 R142). -/
def updBar (s : State) (bid n : Nat) (f : Bar → Bar) : State :=
  let old := Bar.ofWord (s.barWord bid n)
  let x := f old
  let y := Bar.check x
  let s1 := s.updBlk bid fun k => { k with scratch := putBytes k.scratch (8 * n) (toLe 8 y.toWord.toNat) }
  let s2 := if y.phase = old.phase || s.pending.isEmpty then s1
    else (s1.groupsOf bid).foldl (fun s g => s.observe g (if x.rema then 2 else 1)) s1
  s2.wakeBar bid n

/-- The 16 bytes of a log entry (R201). -/
def logBytes (e : LogEntry) : List Byte :=
  toLe 8 ((if e.charge then 2 else 1) * 2 ^ 62 + e.bar * 2 ^ 56 + e.src * 2 ^ 54 + e.count) ++
    toLe 8 (if e.charge then (e.bytes % 2 ^ 64).toNat else 0)
/-- Physical address of a block's swap frame (R197). -/
def frameAt (s : State) (bid : Nat) : Option Nat :=
  let b := s.blk bid
  b.frame.map fun f => (s.ctx b.ctx).pool + f * (s.ctx b.ctx).stride * 1024
/-- Where the copy records stand in a frame (Table 9.7). -/
def copySection (d : Desc) : Nat :=
  256 + 1024 * (d.ngrp + 1) * (1 + d.nreg) + 1024 * d.scr + (if d.mxs then 672512 else 0)
/-- Writes LOGN and the log section of a saved frame. -/
def saveLog (s : State) (bid : Nat) : State :=
  match s.frameAt bid with
  | none => s
  | some a =>
    let b := s.blk bid
    let s1 := s.homeWrite (a + 26) (toLe 2 b.absLog.length)
    s1.homeWrite (a + copySection b.desc + 8192) (b.absLog.flatMap logBytes)

/-- MEMERR with subcode ASYNC is pending in a block, or in the header of its frame (R294, R198). -/
def asyncError (s : State) (bid : Nat) : State :=
  let s1 := s.updBlk bid fun k => { k with aerr := true }
  match if (s.blk bid).phase = .swapped then s.frameAt bid else none with
  | some a => s1.writeQuad (a + 24) (s1.peekQuad (a + 24) ||| 2)
  | none => s1

/-- Appends to a block's absent-arrival log; a byte charge after another to its barrier is merged; beyond 1,024
entries the sender holds it (R201). -/
def appendLog (s : State) (bid : Nat) (e : LogEntry) : State :=
  let s1 := s.updBlk bid fun k =>
    match k.absLog.getLast? with
    | some l =>
      if k.heldLog.isEmpty && e.charge && l.charge && l.bar == e.bar then
        { k with absLog := k.absLog.dropLast ++ [{ l with bytes := l.bytes + e.bytes }] }
      else if k.absLog.length < 1024 then { k with absLog := k.absLog ++ [e] }
      else { k with heldLog := k.heldLog ++ [e] }
    | none => { k with absLog := [e] }
  if (s1.blk bid).phase = .swapped then s1.saveLog bid else s1

/-- Whether arrivals and charges to a block go to its log (R196, R201). -/
def absent (s : State) (bid : Nat) : Bool := (s.blk bid).stopped || (s.blk bid).phase = .swapped

/-- The gang rank of a block. -/
def rankOf (s : State) (bid : Nat) : Nat := (s.blk bid).gangIds.findIdx (· == bid)

/-- One arrival at barrier `n` of block `bid` (R348) from gang rank `src`; `rem` marks BAR.REM. -/
def arrive (s : State) (bid n : Nat) (rem : Bool) (src : Nat) : State :=
  if (s.blk bid).phase = .retired then s
  else if s.absent bid then s.appendLog bid { charge := false, bar := n, src, count := 1, bytes := if rem then 1 else 0 }
  else s.updBar bid n fun x => { x with arr := (x.arr + 1) % 4096, rema := x.rema || rem }

/-- A byte charge from gang rank `src`: `bytes` is added to PEND (R347). -/
def charge (s : State) (bid n : Nat) (src : Nat) (bytes : Int) : State :=
  if (s.blk bid).phase = .retired then s
  else if s.absent bid then s.appendLog bid { charge := true, bar := n, src, count := 0, bytes }
  else s.updBar bid n fun x => { x with pend := (((x.pend : Int) + bytes) % 2 ^ 32).toNat }

/-- R57: when the record and the ended lanes cover the group, the arrival counts, the record clears and the splits
behind it may issue; BAR.ARW waiters then wait for the phase (R348). A remote arrival is sent to its block. -/
def testPartial (s : State) (gid : Nat) : State :=
  match (s.grp gid).par with
  | none => s
  | some r =>
    if r.mask ||| (s.grp gid).ended != -1 then s
    else
      let bid := bidOf gid
      let ph := phaseOf (s.barWord bid r.bar)
      let s := s.updGrp gid fun g =>
        { g with par := none,
                 slots := g.slots.map (fun p =>
                   if p.2.waitFor = .record then (p.1, { p.2 with wait := .ready, waitFor := .none })
                   else if r.rem = none && p.2.waitFor = .arw r.bar then (p.1, { p.2 with waitFor := .bar r.bar ph })
                   else p),
                 defer := g.defer.map fun d =>
                   if r.rem = none && d.wt == 2 && d.bar == r.bar && d.mask &&& ~~~r.mask == 0 then { d with p := ph }
                   else d }
      let rank := s.rankOf bid
      let s := s.publish gid (if r.rem.isSome then 2 else 1)
      match r.rem with
      | none => s.arrive bid r.bar false rank
      | some k => { s with arrivals := s.arrivals ++ [{ bid := (s.blk bid).gangIds.getD k bid, bar := r.bar, src := rank }] }

/-- The i-th remote arrival under way arrives; one for a block that has gone is discarded (R348). -/
def arrivalTurn (s : State) (i : Nat) : State :=
  match s.arrivals[i]? with
  | none => s
  | some a =>
    let s1 : State := { s with arrivals := s.arrivals.eraseIdx i }
    if Tbl.has s.blks a.bid then s1.arrive a.bid a.bar true a.src else s1

/-- Marks lanes as ended and tests the arrival record again (R57, R371). -/
def endLanes (s : State) (gid : Nat) (m : LaneMask) : State :=
  (s.updGrp gid fun g => { g with ended := g.ended ||| m }).testPartial gid

end Sys2Proof.Machine.State
end

