-- ==== Sys2Proof/Machine/Flags.lean ====
section
/-! DEFINITION. The flag and status bits that instructions read or write: %fmt (05 Table 5.5), %satf (R96), %gstat
(04 Table 4.8) and the handler bit of %cause. -/

namespace Sys2Proof.Machine.State

/-- Rounding mode of the issuing split (05 Table 5.5). -/
def rm (s : State) : RMode := RMode.ofBits (s.sl.fmt.toNat % 4)
/-- SATT: the saturation trap is armed for the split. -/
def satt (s : State) : Bool := s.sl.fmt.getLsbD 7
/-- Bits of %fmt that a write keeps (R92). -/
def fmtMask : Word := 0x83
/-- Bits of %gstat that a write keeps (04 Table 4.8). -/
def gstatMask : Quad := 0x71
/-- Sets %satf when some enabled lane saturated (R96). -/
def noteSat (s : State) (any : Bool) : State :=
  if any then s.updGrp s.issue.gid fun g => { g with satf := true } else s
/-- LOSTJ set (R50). -/
def setLostJ (s : State) (gid : Nat) : State := s.updGrp gid fun g => { g with gstat := g.gstat ||| 1 }
/-- LOSTJ and LJREG of a released register (R53, R55). -/
def setLostReg (s : State) (gid j : Nat) : State :=
  s.updGrp gid fun g =>
    { g with gstat := (g.gstat &&& ~~~(0x70 : Quad)) ||| BitVec.ofNat 64 (j % 8 * 16) ||| 1 }

end Sys2Proof.Machine.State
end

