-- ==== Sys2Proof/Machine/Operands.lean ====
section
/-! DEFINITION. Operand delivery and result writing: A-word sources and results (04 R63 to R65, 17 R323, R324), the
operands of scalar, memory and capability C-words. -/

namespace Sys2Proof.Machine.State

/-- How codes 126 and 127 are widened (R324). -/
inductive SrcClass where
  | int | float
  deriving DecidableEq, Repr

/-- Latch `k` of the issuing port in a lane (R67). -/
def latch (s : State) (k lane : Nat) : Word := Tbl.get 0 (Tbl.get {} s.ports s.issue.port : Port).lat (cellKey k lane)

/-- The SARG register's low 32 bits (R63). -/
def sargWord (s : State) : Word :=
  match s.issue.sarg with
  | some k => (s.sreg k).extractLsb' 0 32
  | none => 0
/-- The IMM carrier widened to 32 bits (R324). -/
def immWord (s : State) (c : SrcClass) : Word :=
  match s.issue.imm with
  | none => 0
  | some v => match c with
    | .int => v.signExtend 32
    | .float => v ++ (0 : BitVec 9)

/-- FP32 widened exactly to FP64 (R323). -/
def widen32 (w : Word) : Quad := BitVec.ofNat 64 (fp64.encode .rne (f32 w))

/-- A 32-bit source in a lane (R63). -/
def srcW (s : State) (c : SrcClass) (code lane : Nat) : Word :=
  if code < 120 then (s.vcur (s.vname code) lane).val
  else if code < 124 then s.latch (code - 120) lane
  else if code = 124 then 0
  else if code = 125 then BitVec.ofNat 32 lane
  else if code = 126 then s.sargWord
  else s.immWord c

/-- A 64-bit source in a lane (R323). -/
def srcQ (s : State) (c : SrcClass) (code lane : Nat) : Quad :=
  let wide := fun w : Word => match c with
    | .int => w.signExtend 64
    | .float => widen32 w
  if code < 120 then (s.vcur (s.vname code + 1) lane).val ++ (s.vcur (s.vname code) lane).val
  else if code < 124 then s.latch (code - 119) lane ++ s.latch (code - 120) lane
  else if code = 124 then 0
  else if code = 125 then BitVec.ofNat 64 lane
  else if code = 126 then wide s.sargWord
  else wide (s.immWord c)

/-- Bit 0 of mask register m1 to m3 in a lane (R66). -/
def maskBit (s : State) (k lane : Nat) : Bool := (s.vcur (116 + k) lane).val.getLsbD 0

/-- What a running lane that is not enabled holds after an agnostic result: its old value or all ones, unspecified
(R65). -/
def agnostic (s : State) (r lane : Nat) : Word :=
  if s.freeBit (cellKey r lane) then 0xFFFFFFFF else (s.vcur r lane).val

/-- One lane's register after a result with destination register `r` (04 Table 4.2). -/
def resultCell (s : State) (r lane : Nat) (mm : Bool) (f : Nat → Word) (old : VCell) : VCell :=
  if s.active.getLsbD lane then { val := f lane }
  else if s.sl.run.getLsbD lane && mm then { val := s.agnostic r lane }
  else old

/-- One lane's latch after a result (04 Table 4.2); `r` is none for a latch destination. -/
def resultLatch (s : State) (r : Option Nat) (lane : Nat) (mm : Bool) (f : Nat → Word) : Word :=
  if s.active.getLsbD lane then f lane
  else if s.sl.run.getLsbD lane then
    match r with
    | some r => if mm then s.agnostic r lane else (s.vcur r lane).val
    | none => 0
  else 0

/-- Writes a result to register `r` in every lane (R65). -/
def putReg (s : State) (r : Nat) (mm : Bool) (f : Nat → Word) : State :=
  let cell := fun (t : Tbl VCell) (l : Nat) => s.resultCell r l mm f (Tbl.get {} t (cellKey r l))
  let put := fun (t : Tbl VCell) (l : Nat) => Tbl.set {} t (cellKey r l) (cell t l)
  s.updGrp s.issue.gid fun g => { g with vregs := lanes.foldl put g.vregs }

/-- Writes a result to latch `k` of the issuing port in every lane (R64, R65). -/
def putLatch (s : State) (k : Nat) (r : Option Nat) (mm : Bool) (f : Nat → Word) : State :=
  let put := fun (t : Tbl Word) (l : Nat) => Tbl.set 0 t (cellKey k l) (s.resultLatch r l mm f)
  let upd := fun p : Port => { p with lat := lanes.foldl put p.lat, written := p.written ||| BitVec.ofNat 4 (2 ^ k) }
  { s with ports := Tbl.upd {} s.ports s.issue.port upd }

/-- A 32-bit result at destination code `dst` (already staggered), in the register and the latch (R64). -/
def putW (s : State) (dst : Nat) (mm nwb latches : Bool) (f : Nat → Word) : State :=
  if dst < 120 then
    let s' := if nwb then s else s.putReg dst mm f
    if latches then { s' with ports := (s.putLatch (dst % 4) (some dst) mm f).ports } else s'
  else s.putLatch (dst - 120) none mm f

/-- The result of an A-word of one register. -/
def aPut (s : State) (o : AOp) (f : Nat → Word) : State :=
  (s.putW (s.vname o.dst) o.mm o.nwb true f).tick

/-- The result of an A-word of a pair: low word, then high word (R323). -/
def aPutQ (s : State) (o : AOp) (f : Nat → Quad) : State :=
  let d := s.vname o.dst
  let s1 := s.putW d o.mm o.nwb true fun l => (f l).extractLsb' 0 32
  (s1.putW (d + 1) o.mm o.nwb true fun l => (f l).extractLsb' 32 32).tick

/-- A load or VBC result in a lane: active lanes take it, other running lanes follow MM; no latch (R65, R448). -/
def cPut (s : State) (r : Nat) (f : Nat → Word) : State := (s.putReg r s.issue.mm f).tick

/-! ### Scalar operands (20 R426) -/

def sarg12 (s : State) : SArg12 → Quad
  | .reg k => s.sreg k
  | .imm v => v.signExtend 64
  | .ext x => x.signExtend 64
def sarg9 (s : State) : SArg9 → Quad
  | .reg k => s.sreg k
  | .imm v => v.signExtend 64
  | .ext x => x.signExtend 64

/-- SignExt of a displacement word, 0 when LONE = 0 (R79). -/
def dispOf (ext : Option Word) : Int :=
  match ext with
  | some x => x.toInt
  | none => 0

/-- A branch offset in bundles (R353). -/
def branchOff (off : BitVec 16) (ext : Option Word) : BitVec 54 :=
  match ext with
  | some x => x.signExtend 54
  | none => off.signExtend 54
/-- The branch target: address + 8 × off modulo 2^57 (R335). -/
def branchPc (s : State) (off : BitVec 16) (ext : Option Word) : BitVec 54 :=
  BitVec.ofNat 54 (s.issue.addr / 8) + branchOff off ext

/-- The capability that selector SEL names, in a lane (17 Table 17.2). -/
def selCap (s : State) (sel lane : Nat) : Cap := if sel < 12 then s.pairCap sel else s.quadCap (sel - 12) lane

/-- The offset register of a lane, sign-extended; `none` code gives 0 (R79). -/
def offOf (s : State) (none_ off lane : Nat) : Int :=
  if off = none_ then 0 else (s.vcur (s.vname off) lane).val.toInt

end Sys2Proof.Machine.State
end

