-- ==== Sys2Proof/Machine/CopyDesc.lean ====
section
/-! DEFINITION. The descriptors of CPY, CPY.G, CPY.S and SCL.CPY (18 R361 to R364, 20 R431) and what makes one ILLEGAL, which
is checked at issue. -/

namespace Sys2Proof.Machine
open State

/-- Element size in bytes (10 Table 10.1). -/
def opBytes (code : Nat) : Nat := if code ≤ 1 then 2 else 1

/-- Fields of the copy descriptor (Table 18.5). -/
structure CpyDesc where
  nrow : Nat
  rowb : Nat
  sstr : Nat
  dstr : Nat
  bar : Nat
  bind : Bool
  dkind : Nat
  skind : Nat
  peer : Bool
  rank : Nat
  slot : Nat
  mcast : Nat
  swz : Nat
  efmt : Nat
  /-- A reserved bit is set. -/
  resv : Bool
  deriving DecidableEq, Repr

def CpyDesc.ofQuads (q4 q5 q6 q7 : Nat) : CpyDesc :=
  { nrow := bitsOf q4 32 16, rowb := bitsOf q4 0 32, sstr := bitsOf q5 0 48, dstr := bitsOf q6 0 48,
    bar := bitsOf q7 58 6, bind := bitsOf q7 57 1 == 1, dkind := bitsOf q7 55 2, skind := bitsOf q7 54 1,
    peer := bitsOf q7 53 1 == 1, rank := bitsOf q7 51 2, slot := bitsOf q7 46 5, mcast := bitsOf q7 42 4,
    swz := bitsOf q7 38 4, efmt := bitsOf q7 34 4,
    resv := q4 / 2 ^ 48 != 0 || q5 / 2 ^ 48 != 0 || q6 / 2 ^ 48 != 0 || q7 % 2 ^ 34 != 0 }

/-- Forms of Table 18.6. -/
inductive CpyForm where
  | cpy | gather | scratch
  deriving DecidableEq, Repr

/-- Step 1 of R364: reserved fields, the values of Table 18.6, and fields that the form does not use. `perLane` is a form
with an offset register; every global side of it takes its rows from the register. -/
def CpyDesc.bad (d : CpyDesc) (form : CpyForm) (perLane mxs : Bool) (nbar : Nat) (dcap : BitVec 128) : Bool :=
  let es := opBytes d.efmt
  d.resv || d.rowb == 0 || d.dkind == 3 || (d.bind && nbar ≤ d.bar) || (perLane && d.nrow != 0) ||
    (match form with
      | .scratch => (d.skind == 1) == (d.dkind == 1) || d.dkind == 2
      | _ => d.skind != 0 || d.dkind == 1 || d.peer || d.rank != 0) ||
    (perLane && d.skind == 0 && d.sstr != 0) || (perLane && d.dkind == 0 && d.dstr != 0) ||
    (if d.dkind == 2 then
      !mxs || d.efmt > 4 || d.swz > 3 || d.dstr != 0 || dcap != 0 || d.rowb % es != 0 || d.rowb > 256
    else d.slot != 0 || d.mcast != 0 || d.swz != 0 || d.efmt != 0)

/-- Fields of SCL.CPY's descriptor (R431). -/
structure SclDesc where
  n : Nat
  first : Nat
  bar : Nat
  bind : Bool
  /-- A reserved bit is set. -/
  resv : Bool
  deriving DecidableEq, Repr

def SclDesc.ofQuads (q : Nat → Nat) : SclDesc :=
  { n := bitsOf (q 4) 0 13, first := bitsOf (q 7) 0 12, bar := bitsOf (q 7) 58 6, bind := bitsOf (q 7) 57 1 == 1,
    resv := q 2 != 0 || q 3 != 0 || q 4 / 2 ^ 13 != 0 || q 5 != 0 || q 6 != 0 || bitsOf (q 7) 12 45 != 0 }
def SclDesc.bad (d : SclDesc) (nbar : Nat) : Bool :=
  d.resv || d.n == 0 || 4096 < d.n || 4096 < d.first + d.n || (d.bind && nbar ≤ d.bar)

namespace State

/-- Quad i of the descriptor in s(8 × DB) on. -/
def descQuad (s : State) (db i : Nat) : Quad := s.sreg (8 * db + i)
/-- The descriptor of a copy word is ILLEGAL. -/
def descIllegal (s : State) (i : Instr) : Bool :=
  let q := fun db k => (s.descQuad db k).toNat
  let cpy := fun (form : CpyForm) (db : Nat) (perLane : Bool) =>
    (CpyDesc.ofQuads (q db 4) (q db 5) (q db 6) (q db 7)).bad form perLane s.b.desc.mxs s.b.desc.nbar (s.pairCap (4 * db + 1)).bits
  match i with
  | .cpy db => cpy .cpy db false
  | .cpyG db _ => cpy .gather db true
  | .cpyS db off => cpy .scratch db (off != 124)
  | .sclCpy db => (SclDesc.ofQuads (q db)).bad s.b.desc.nbar
  | _ => false

end State
end Sys2Proof.Machine
end

