-- ==== Sys2Proof/Machine/Checks.lean ====
section
/-! DEFINITION. The checks made when a bundle issues, in the order of 15 R286: ILLEGAL after staggering, PRIV, REGRANGE,
ROLE, DIVSCALAR, LATCH, SAT, JOINSTATE and MEMERR with subcode 3. -/

namespace Sys2Proof

/-- A use of vector registers: the field, how many registers, whether it is staggered, and the multiple that its name
must be after staggering (R62, R317, R335). -/
structure VUse where
  v : Nat
  n : Nat := 1
  stag : Bool := true
  align : Nat := 1
  deriving DecidableEq, Repr

/-- Registers of a load or store of `n` bytes (17 Table 17.4, DATA). -/
def dataUse (v bytes : Nat) : VUse :=
  if bytes ≤ 4 then { v } else if bytes = 8 then { v, n := 2, align := 2 } else { v, n := 4, align := 4 }

/-- A quad named by a selector is never staggered (R317). -/
def selUse (sel : Nat) : List VUse := if sel < 12 then [] else [{ v := 4 * (sel - 12), n := 4, stag := false }]
def offUse (none_ off : Nat) : List VUse := if off = none_ then [] else [{ v := off }]

def LdSize.bytes : LdSize → Nat
  | .b | .bs => 1
  | .h | .hs => 2
  | .w => 4
  | .q => 8
  | .o => 16
def StSize.bytes : StSize → Nat
  | .b => 1 | .h => 2 | .w => 4 | .q => 8 | .o => 16

/-- DATA of ATOM, RED and ATOMS: CAS takes the compare value and the new value (R321). -/
def atomUse (op : AtomOp) (z : Bool) (v : Nat) : VUse :=
  let n := (if z then 2 else 1) * (if op = .cas then 2 else 1)
  { v, n, align := n }

def capUses (o : CapOp) (write : Bool) : List VUse :=
  (if write && !o.dk then [{ v := 4 * o.d, n := 4, stag := false }] else []) ++
    (if !o.sk then [{ v := 4 * o.src, n := 4, stag := false }] else []) ++
    (if !o.dk && o.v < 120 then [{ v := o.v }] else [])

/-- Vector registers that a word names (R60). -/
def Instr.vUses (i : Instr) : List VUse :=
  match i.aShape with
  | some (sh, o) =>
    let use := fun (pair : Bool) (c : Nat) =>
      if c < 120 then [if pair then ({ v := c, n := 2, align := 2 } : VUse) else { v := c }] else []
    let b := match i with
      | .cvt .. | .unpk .. => []
      | _ => if sh.usesB then use sh.pairB o.srcB else []
    use sh.pairDst o.dst ++ use sh.pairA o.srcA ++ b
  | none =>
    match i with
    | .brx v | .vbc v _ | .sxv _ v _ | .vote _ _ v | .accLd v _ _ _ | .accSt v _ _ _ => [{ v }]
    | .call v _ _ | .ret v => [{ v, n := 2, align := 2 }]
    | .cpyG _ off | .cpyS _ off => offUse 124 off
    | .capBnd o | .capPrm o | .capOfs o => capUses o true
    | .capGet o _ | .capTst o => capUses o false
    | .qlaunch o | .selk o | .splat o | .jobpost _ o | .cacheCln o | .cacheInv o => selUse o.sel ++ offUse 124 o.off
    | .qtake v _ => [{ v, n := 8 }]
    | .ld sz o | .ldInv sz o => dataUse o.data sz.bytes :: (selUse o.sel ++ offUse 63 o.off)
    | .st sz o => dataUse o.data sz.bytes :: (selUse o.sel ++ offUse 63 o.off)
    | .ldc o | .stc o => { v := o.data, n := 4, stag := false } :: (selUse o.sel ++ offUse 63 o.off)
    | .mwatch o | .mwait o => { v := o.data } :: (selUse o.sel ++ offUse 63 o.off)
    | .atom op z o | .red op z o => atomUse op z o.data :: (selUse o.sel ++ offUse 63 o.off)
    | .lds sz o | .sts sz o => dataUse o.data sz.bytes :: (selUse o.sel ++ offUse 31 o.off)
    | .atoms op o => atomUse op false o.data :: (selUse o.sel ++ offUse 31 o.off)
    | .sLd _ o | .ldcSpair o => selUse o.sel
    | .acInit o | .acTake o | .acGive o | .acRead o | .acDrop o => selUse o.sel
    | _ => []

/-- Uses of group-scalar registers (R83, R337). -/
def Instr.usesS (i : Instr) : Bool :=
  match i.aShape with
  | some (sh, o) =>
    match i with
    | .cvt .. | .unpk .. => o.srcA == 126
    | _ => o.srcA == 126 || (sh.usesB && o.srcB == 126)
  | none =>
    match i with
    | .bra cond _ _ _ => cond != 0
    | .sMov .. | .sLi .. | .sAdd .. | .sSub .. | .sMul .. | .sAnd .. | .sOr .. | .sXor .. | .sShl .. | .sShr ..
    | .sSra .. | .sCmp .. | .sRsr .. | .sLd .. | .ldcSpair .. | .vbc .. | .sxv .. | .vote .. | .cpy .. | .cpyG ..
    | .cpyS .. | .sclCpy .. | .accLd .. | .accSt .. | .tlbInv .. | .inbox => true
    | .sWsr _ (.reg ..) => true
    | .barInit _ _ sv _ | .barTx _ sv _ => sv < 24
    | .acInit o | .acTake o | .acGive o | .acRead o | .acDrop o => o.sel < 12 || o.sn < 24 || o.sd != 31
    | .capBnd o | .capPrm o | .capOfs o | .capGet o _ | .capTst o => o.dk || o.sk
    | .qlaunch o | .selk o | .splat o | .jobpost _ o | .cacheCln o | .cacheInv o => o.sel < 12
    | .ld _ o | .ldInv _ o | .st _ o | .ldc o | .stc o | .mwatch o | .mwait o | .atom _ _ o | .red _ _ o => o.sel < 12
    | .lds _ o | .sts _ o | .atoms _ o => o.sel < 12
    | _ => false

/-- Roles of a group (02 Table 2.2). -/
inductive Role where
  | general | copy | vector
  deriving DecidableEq, Repr
def Role.code : Role → Nat
  | .general => 0 | .copy => 1 | .vector => 2

/-- 02 Table 2.5. DESIGN CHOICE (log 72): LDC into an s-pair is encoded as S.LD, and is permitted as the S.* instructions
are. -/
def Instr.roleOk (i : Instr) (mxs : Bool) (r : Role) : Bool :=
  match i with
  | .vbc .. | .sxv .. | .vote .. | .ld .. | .ldInv .. | .st .. | .lds .. | .sts .. | .ldc .. | .stc .. | .atom ..
  | .atoms .. | .red .. | .mwatch .. | .mwait .. | .qlaunch .. | .qtake .. | .selk .. | .splat .. => r != .copy
  | .capBnd o | .capPrm o | .capOfs o | .capGet o _ | .capTst o => (o.dk && o.sk) || r != .copy
  | .cpy .. | .cpyG .. | .cpyS .. => r != .vector
  | .sclCpy .. => mxs && r != .vector
  | .oclaim .. | .orel .. => r == .copy
  | .accLd .. | .accSt .. => mxs && r != .copy
  | i => i.aShape.isNone || r != .copy

/-- Control C-words that a REP body must not hold (R74). -/
def Instr.isControl (i : Instr) : Bool :=
  match i with
  | .bra .. | .brc .. | .brx .. | .call .. | .ret .. | .jset .. | .join .. | .exit | .rep .. | .trap .. | .bkpt
  | .eret => true
  | _ => false

/-- Chain-safe C-words (R68); every other C-word is a breaker. -/
def Instr.chainSafe (i : Instr) : Bool :=
  match i with
  | .nop | .imm .. | .sarg .. | .sMov .. | .sLi .. | .sAdd .. | .sSub .. | .sMul .. | .sAnd .. | .sOr .. | .sXor ..
  | .sShl .. | .sShr .. | .sSra .. | .sCmp .. | .sRsr .. | .sWsr .. | .vbc .. | .sxv .. | .vote .. | .capBnd ..
  | .capPrm .. | .capOfs .. | .capGet .. | .capTst .. => true
  | _ => false

/-- The memory C-words of R466. -/
def Instr.memWord (i : Instr) : Bool :=
  match i with
  | .ld .. | .ldInv .. | .st .. | .ldc .. | .ldcSpair .. | .stc .. | .atom .. | .sLd .. | .mwatch .. | .mwait .. | .lds ..
  | .sts .. | .atoms .. | .acInit .. | .acTake .. | .acGive .. | .acRead .. | .acDrop .. | .qlaunch .. => true
  | _ => false

/-- The barrier number of a BAR.* word. -/
def Instr.barNo (i : Instr) : Option Nat :=
  match i with
  | .barInit b _ _ _ | .barArv b | .barWait b _ | .barArw b | .barTx b _ _ | .barRem b _ => some b
  | _ => none
/-- The C-words of R97 and R294: BAR.* and JOIN. -/
def Instr.barOrJoin (i : Instr) : Bool :=
  match i with
  | .join _ => true
  | i => i.barNo.isSome

end Sys2Proof

namespace Sys2Proof.Machine.State

/-- Registers of the allocation (R59). -/
def regOk (s : State) (r : Nat) : Bool := r + 3 < 8 * s.b.desc.nreg || (117 ≤ r && r < 120)

/-- The role of the issuing group. -/
def role (s : State) : Role :=
  match s.b.desc.roles.toNat / 2 ^ (2 * (s.issue.gid % 32)) % 4 with
  | 1 => .copy
  | 2 => .vector
  | _ => .general

/-- The name of a use in this pass. -/
def useName (s : State) (u : VUse) : Nat := if u.stag then s.vname u.v else u.v

/-- Latch numbers that an A-word reads and its chain has not written (R69). -/
def missingLatches (s : State) (i : Instr) : List Nat :=
  match i.aShape with
  | none => []
  | some (sh, o) =>
    let port : Port := Tbl.get {} s.ports s.issue.port
    let held := fun k : Nat => port.owner == some (s.issue.gid, s.issue.slot) && port.written.getLsbD k
    let reads := fun (pair : Bool) (c : Nat) =>
      if 120 ≤ c && c < 124 then (if pair then [c - 120, c - 119] else [c - 120]) else []
    let b := match i with
      | .cvt .. | .unpk .. => []
      | _ => if sh.usesB then reads sh.pairB o.srcB else []
    (reads sh.pairA o.srcA ++ b).filter fun k => !held k

/-- The causes that one word meets at issue, each as R286 lists it. -/
def issueCauses (s : State) (i : Instr) : List Cause :=
  let when := fun (p : Bool) (k : Cause) => if p then [k] else []
  let uses := i.vUses
  let illegal :=
    uses.any (fun u => s.useName u % u.align != 0) ||
      (i.isControl && s.repOn s.issue.gid s.issue.slot && s.sl.pass == 0) ||
      (i.barNo.any fun n => s.b.desc.nbar ≤ n) ||
      (i == .eret && !causeAct s.g.cause) || s.descIllegal i
  let priv := match i with
    | .cacheCln .. | .cacheInv .. | .tlbInv .. => !(s.ctx s.ctxId).fw
    | _ => false
  let badReg := (uses.flatMap fun u => (List.range u.n).map (s.useName u + ·)).find? fun r => !s.regOk r
  let joinBad := match i with
    | .jset j => let r := s.join s.issue.gid j; r.armed && r.arrived != 0
    | _ => false
  let joinNo := match i with
    | .jset j => j
    | _ => 0
  when illegal { code := 1 } ++
    when priv { code := 2 } ++
    (match badReg with | some r => [{ code := 3, info := r }] | none => []) ++
    when (!i.roleOk s.b.desc.mxs s.role) { code := 6, info := s.role.code } ++
    when (i.usesS && !s.converged s.issue.gid) { code := 5 } ++
    (match s.missingLatches i with | k :: _ => [{ code := 4, info := k }] | [] => []) ++
    when (i.barOrJoin && s.g.satf && s.satt) { code := 7 } ++
    when joinBad { code := 8, info := joinNo } ++
    when (i.barOrJoin && s.b.aerr) { code := 17, sub := 3 }

/-- The trap that one word takes at issue, if it takes one (R286). -/
def issueCause (s : State) (i : Instr) : Option Cause := firstCause (s.issueCauses i)

/-- Takes an issue-time trap; raising MEMERR with subcode 3 clears the pending flag (R294), which a split that is only held
does not. -/
def takeIssueTrap (s : State) (k : Cause) : State :=
  (if k.code = 17 && !s.trapHeld then s.updBlk s.bid fun b => { b with aerr := false } else s).takeTrap k

/-- The meaning of a word behind its issue-time checks. -/
def issued (s : State) (i : Instr) (f : State → State) : Res :=
  if s.issue.checked then .next (f s)
  else
    match s.issueCause i with
    | some k => .next (s.takeIssueTrap k)
    | none => .next (f s)

/-- A C-word with no Active lane has no effect, and no check after issue is made (R335). -/
def onActive (s : State) (f : State → State) : State := if s.active = 0 then s else f s

/-- A C-word behind its issue-time checks and the empty-Active rule. -/
def issuedC (s : State) (i : Instr) (f : State → State) : Res := s.issued i fun s => s.onActive f

end Sys2Proof.Machine.State
end

