-- ==== Sys2Proof/Machine/Atomic.lean ====
section
/-! DEFINITION. What a release and an acquire of the issuing split wait for and order (07 R135 to R137, R156, 08 R170). -/

namespace Sys2Proof.Machine.State

/-- R170: while the context's count of reduction faults is not zero, the split is held at the bundle with WAIT = 1. -/
def holdRf (s : State) (f : State → State) : State :=
  if (s.ctx s.ctxId).rfcount != 0 then
    (s.updSl fun sl => { sl with wait := .parked, parked := some { rflog := true } }).setOut .stay
  else f s

/-- The word waits where it stands, and has not issued. -/
def stay (s : State) : State := s.setOut .stay
/-- A memory word has issued and waits (R466). -/
def waitIssued (s : State) : State := (s.updSl fun sl => { sl with waitFor := .memory }).setOut .stay

/-- Behind every reduction of the split's block: each has been accepted, one that has faulted has its record, and the split
is held while the context has reduction faults (R136, R170, R376). `wait` is what a word does that still waits. -/
def accepted (s : State) (wait : State → State) (f : State → State) : State :=
  (s.flushFar s.bid).holdRf fun s => if s.redsLeft s.bid then wait s else f s

/-- A release of the issuing group at a scope: behind its reductions and, at SYSTEM scope, behind every write on its way to
the paired card that happens before it (R135, R137, R156). -/
def release (s : State) (scope : Nat) (f : State → State) (wait : State → State := stay) : State :=
  s.accepted wait fun s =>
    if scope == 4 && s.unanswered s.gid then wait s else f (s.publish s.gid scope)

/-- A word with a .REL or .AR suffix; a replay has released before. -/
def released (s : State) (ord scope : Nat) (f : State → State) : State :=
  if ord < 2 || s.issue.replay then f s else s.release scope f waitIssued
/-- A word with an .ACQ or .AR suffix, once it has performed. -/
def acquired (s : State) (ord scope : Nat) : State := if ord % 2 = 1 then s.observe s.gid scope else s

/-- The card of the issuing block. -/
def cardId (s : State) : Nat := s.b.card

end Sys2Proof.Machine.State
end

