-- ==== Sys2Proof/Machine/Control.lean ====
section
/-! DEFINITION. Control C-words (03, 18 R350 to R358, R370, R371, 19 R376, R384, R388, 20 R411, R423, R425, R430, R444). -/

namespace Sys2Proof.Machine
open State

def execNop (s : State) : Res := s.issuedC .nop id
/-- IMM and SARG act through the A-word of their bundle (R384, R430). -/
def execImm (v : BitVec 23) (s : State) : Res := s.issuedC (.imm v) id
def execSarg (k : Nat) (s : State) : Res := s.issuedC (.sarg k) id

/-- The whole split moves to a bundle address. -/
def State.jump (s : State) (pc : BitVec 54) : State := (s.updSl fun sl => { sl with pc }).setOut .jumped

/-- R353. -/
def execBra (cond k : Nat) (off : BitVec 16) (ext : Option Word) (s : State) : Res :=
  s.issuedC (.bra cond k off ext) fun s =>
    let taken := match cond with
      | 0 => true
      | 1 => s.sreg k == 0
      | _ => s.sreg k != 0
    s.jump (if taken then s.branchPc off ext else s.nextPc)

/-- R354: the mask bits are those at issue. -/
def execBrc (inv : Bool) (m : Nat) (off : BitVec 16) (ext : Option Word) (s : State) : Res :=
  s.issuedC (.brc inv m off ext) fun s =>
    let takes := maskOf fun l => s.active.getLsbD l && (s.maskBit m l != inv)
    let falls := s.sl.run &&& ~~~takes
    let target := s.branchPc off ext
    if takes = 0 then s.jump s.nextPc
    else if falls = 0 || target = s.nextPc then s.jump target
    else
      let k := s.issue.slot
      let s' := if (s.freeSlots s.gid).isEmpty then s.divide s.gid k (target, takes) [(s.nextPc, falls)]
        else s.divide s.gid k (s.nextPc, falls) [(target, takes)]
      s'.setOut .jumped

/-- Adds a lane to the class of its destination; classes stay in the order of their lowest lane. -/
def addClass (pc : BitVec 54) (l : Nat) : List (BitVec 54 × LaneMask) → List (BitVec 54 × LaneMask)
  | [] => [(pc, laneBit l)]
  | (q, m) :: r => if q = pc then (q, m ||| laneBit l) :: r else (q, m) :: addClass pc l r

/-- R356. -/
def execBrx (v : Nat) (s : State) : Res :=
  s.issuedC (.brx v) fun s =>
    let low := fun l => (s.vcell s.gid (s.vname v) l).val
    match (lanesOf s.active).find? fun l => (low l).toNat % 8 != 0 with
    | some l => s.takeTrap { code := 10, lane := l, info := (low l).toNat }
    | none =>
      let region := s.issue.addr / 2 ^ 32 * 2 ^ 32
      let dest := fun l => if s.active.getLsbD l then BitVec.ofNat 54 ((region + (low l).toNat) / 8) else s.nextPc
      match (lanesOf s.sl.run).foldl (fun cs l => addClass (dest l) l cs) [] with
      | [] => s
      | c :: rest => (s.divide s.gid s.issue.slot c rest).setOut .jumped

/-- The link pair of every running lane (R358). -/
def State.writeLink (s : State) (v : Nat) (a : Quad) : State :=
  (lanesOf s.sl.run).foldl
    (fun s l => (s.vwrite v l (a.extractLsb' 0 32)).vwrite (v + 1) l (a.extractLsb' 32 32)) s
/-- R358. -/
def execCall (v : Nat) (off : BitVec 16) (ext : Option Word) (s : State) : Res :=
  s.issuedC (.call v off ext) fun s =>
    (s.writeLink (s.vname v) (BitVec.ofNat 64 (s.nextPc.toNat * 8))).jump (s.branchPc off ext)

/-- R425: the target of the lowest Active lane; bits [63:57] are ignored. Its misaligned address is a split-level cause (15
Table 15.2; DEDUCED, log 88). -/
def execRet (v : Nat) (s : State) : Res :=
  s.issuedC (.ret v) fun s =>
    match lowestLane s.active with
    | none => s
    | some l =>
      let r := s.vname v
      let lo := (s.vcell s.gid r l).val
      if lo.toNat % 8 != 0 then s.takeTrap { code := 10, info := lo.toNat }
      else s.jump (((s.vcell s.gid (r + 1) l).val ++ lo).extractLsb' 3 54)

/-- R49. The JOINSTATE trap is an issue-time check. -/
def execJset (j : Nat) (s : State) : Res :=
  s.issuedC (.jset j) fun s =>
    let old := s.join s.gid j
    let bump := fun p : Nat × JoinReg =>
      if p.1 != j && p.2.armed && (!old.armed || p.2.rank < old.rank) then (p.1, { p.2 with rank := p.2.rank + 1 })
      else p
    let s1 := s.updGrp s.gid fun g => { g with joins := g.joins.map bump }
    s1.setJoin s.gid j { armed := true, rank := 0, expected := s.sl.run, arrived := 0, fmt := s.sl.fmt }

/-- The completion test of R50 for the JOIN of slot `k`, whose lanes `p` pass through. -/
def State.testJoin (s : State) (gid j k : Nat) (p : LaneMask) : State :=
  let r := s.join gid j
  if r.armed && r.arrived == r.expected then s.completeJoin gid j k p else s

/-- R50, R51. Of two JOINs of one clock the higher slot's only deposits, and DPC takes the lower slot's address. -/
def execJoin (j : Nat) (s : State) : Res :=
  s.issuedC (.join j) fun s =>
    let gid := s.gid
    let k := s.issue.slot
    let r := s.join gid j
    if !r.armed then (s.setLostJ gid).jump s.nextPc
    else
      let run := s.sl.run
      let d := run &&& r.expected
      let p := run &&& ~~~r.expected
      let r' := { r with arrived := r.arrived ||| d,
                         dpc := if d != 0 || s.issue.joins == 2 then BitVec.ofNat 54 (s.issue.addr / 8) else r.dpc }
      let s1 := (s.setJoin gid j r').updSl fun sl => { sl with run := p, pc := s.nextPc }
      let s2 := s1.resumeSlot gid k
      (if s.issue.joins == 1 then s2 else s2.testJoin gid j k p).setOut .jumped

/-- The task of a group retires: its pins are released and it counts towards its card (R126, R266). -/
def State.retireTask (s : State) (gid : Nat) : State :=
  match (s.grp gid).task with
  | none => s
  | some t =>
    let s1 := s.unpin (s.blk (bidOf gid)).core t.pins
    let s2 := s1.updGrp gid fun g => { g with task := none }
    s2.updCard t.card fun c => { c with posted := c.posted - 1 }

/-- A group that has ended retires its task; a block whose groups have all ended drains (R34, R35, 02 Table 2.4). -/
def State.groupEnd (s : State) (gid : Nat) : State :=
  if (s.grp gid).ended != -1 then s
  else
    let s1 := s.retireTask gid
    let bid := bidOf gid
    if (s1.groupsOf bid).all fun g => (s1.grp g).ended == -1 then
      s1.updBlk bid fun b => { b with phase := if b.phase = .resident then .draining else b.phase }
    else s1

/-- R371. -/
def execExit (s : State) : Res :=
  s.issuedC .exit fun s =>
    let gid := s.gid
    let k := s.issue.slot
    let rest := s.sl.run &&& ~~~s.active
    let s1 := s.updSl fun sl => { sl with run := rest, pc := s.nextPc }
    let s2 := if rest = 0 then s1.resumeSlot gid k else s1
    let c := (s2.grp gid).cause
    let s3 := if !(s2.slotAt gid k).occ && causeAct c && causeSlot c == k then s2.endHandler gid else s2
    ((s3.endLanes gid s.active).groupEnd gid).setOut .jumped

/-- R423. -/
def execRep (cnt len stride floor : Nat) (s : State) : Res :=
  s.issuedC (.rep cnt len stride floor) fun s =>
    (s.updSl fun sl =>
      { sl with act := true, pass := 0, idx := 0, repBody := s.nextPc, repCnt := cnt + 1, repLen := len + 1,
                repStride := stride, repFloor := floor }).jump s.nextPc

/-- R444. -/
def execTrap (code : BitVec 16) (s : State) : Res :=
  s.issuedC (.trap code) fun s => s.takeTrap { code := 15, info := code.toNat, following := true }
/-- R350. -/
def execBkpt (s : State) : Res := s.issuedC .bkpt fun s => s.takeTrap { code := 16, following := true }
/-- R288, R370. With ACT = 0 the issue-time check has raised ILLEGAL. -/
def execEret (s : State) : Res := s.issuedC .eret State.trapReturn

/-- R136, R376: a release and an acquire. From DEVICE scope on, the instruction caches are filled anew (R115). -/
def execFence (scope : Nat) (s : State) : Res :=
  s.issuedC (.fence scope) fun s => s.release scope fun s =>
    let s1 := s.observe s.gid scope
    if 3 ≤ scope then { s1 with icache := [] } else s1

end Sys2Proof.Machine
end

