-- ==== Sys2Proof/Machine/Barrier.lean ====
section
/-! DEFINITION. BAR.INIT, BAR.ARV, BAR.WAIT, BAR.ARW, BAR.TX and BAR.REM (18 R344 to R349, 03 R57). -/

namespace Sys2Proof.Machine
open State

namespace State

/-- The byte operand of BAR.INIT and BAR.TX (R346). -/
def barBytes (s : State) (sv : Nat) (ext : Option Word) : Nat :=
  if sv < 24 then (s.sreg sv).toNat % 2 ^ 32
  else match ext with
    | some x => x.toNat
    | none => 0

/-- The PEER trap of R121 and R348, if rank `k` raises it: 1 RANK, 2 RETIRED. -/
def peerCause (s : State) (k : Nat) : Option Cause :=
  if s.b.desc.gang < k then some { code := 12, sub := 1, info := k }
  else if (s.blk (s.b.gangIds.getD k 0)).phase = .retired then some { code := 12, sub := 2, info := k }
  else none

/-- Deposits the Active lanes in the partial-arrival record, or waits behind a record of another identity (R57, R348).
`after` is what the split does once its lanes are in the record. -/
def deposit (s : State) (bar : Nat) (rem : Option Nat) (after : State → State) : State :=
  let other := match s.g.par with
    | some r => r.bar != bar || r.rem != rem
    | none => false
  if other then (s.updSl fun sl => { sl with wait := .barrier, waitFor := .record }).setOut .stay
  else
    let old := match s.g.par with
      | some r => r.mask
      | none => 0
    let s1 := s.updGrp s.gid fun g => { g with par := some { bar, rem, mask := old ||| s.active } }
    (after s1).testPartial s.gid

/-- An arrival word, a release (R142): its lanes join the record once the split's reductions are accepted (R170, R422). -/
def arrival (s : State) (bar : Nat) (rem : Option Nat) (after : State → State) : State :=
  s.release (if rem.isSome then 2 else 1) fun s => s.deposit bar rem after

end State

/-- BAR.INIT's update of the word, without Check (R346). -/
def Bar.initWith (w : Bar) (cnt bytes : Nat) : Bar :=
  let w' := if w.exp = 0 then
      { w with arr := min w.arr cnt, exc := w.exc || cnt < w.arr, pend := (w.pend + bytes) % 2 ^ 32 }
    else { w with arr := 0, pend := bytes % 2 ^ 32, rema := false }
  { w' with exp := cnt, init := true }

def execBarInit (bar cnt sv : Nat) (ext : Option Word) (s : State) : Res :=
  s.issuedC (.barInit bar cnt sv ext) fun s => s.updBar s.bid bar fun w => Bar.initWith w cnt (s.barBytes sv ext)
def execBarArv (bar : Nat) (s : State) : Res :=
  s.issuedC (.barArv bar) fun s => s.arrival bar none id
/-- R349. -/
def execBarWait (bar : Nat) (p : Bool) (s : State) : Res :=
  s.issuedC (.barWait bar p) fun s =>
    if phaseOf (s.barWord s.bid bar) != p then s
    else s.updSl fun sl => { sl with wait := .barrier, waitFor := .bar bar p }
def execBarArw (bar : Nat) (s : State) : Res :=
  s.issuedC (.barArw bar) fun s =>
    s.arrival bar none fun s => s.updSl fun sl => { sl with wait := .barrier, waitFor := .arw bar }
/-- R347. -/
def execBarTx (bar sv : Nat) (ext : Option Word) (s : State) : Res :=
  s.issuedC (.barTx bar sv ext) fun s =>
    s.updBar s.bid bar fun w => { w with pend := (w.pend + s.barBytes sv ext) % 2 ^ 32 }
def execBarRem (bar k : Nat) (s : State) : Res :=
  s.issuedC (.barRem bar k) fun s =>
    match s.peerCause k with
    | some c => s.takeTrap c
    | none => s.arrival bar (some k) id

end Sys2Proof.Machine
end

