-- ==== Sys2Proof/Machine/Caps.lean ====
section
/-! DEFINITION. Capabilities: the fields of 04 Table 4.4, CheckCap of R79, and the words CAP.BND, CAP.PRM, CAP.OFS,
CAP.GET and CAP.TST (18 R359, R360). -/

namespace Sys2Proof.Machine
open State

/-! ### Fields (04 Table 4.4) -/

def Cap.base (c : Cap) : Nat := bitsOf c.bits.toNat 0 57
def Cap.offset (c : Cap) : Nat := bitsOf c.bits.toNat 57 41
def Cap.exp (c : Cap) : Nat := bitsOf c.bits.toNat 98 6
def Cap.mant (c : Cap) : Nat := bitsOf c.bits.toNat 104 10
def Cap.perms (c : Cap) : Nat := bitsOf c.bits.toNat 114 10
def Cap.resv (c : Cap) : Nat := bitsOf c.bits.toNat 124 4
/-- L = M × 2^E bytes. -/
def Cap.len (c : Cap) : Nat := c.mant * 2 ^ c.exp
def Cap.scratchref (c : Cap) : Bool := c.bits.getLsbD 123

/-- The capability with the fields given; each field keeps its width. -/
def Cap.make (base offset e m perms resv : Nat) (tag : Bool) : Cap :=
  { bits := BitVec.ofNat 4 resv ++ BitVec.ofNat 10 perms ++ BitVec.ofNat 10 m ++ BitVec.ofNat 6 e ++
      BitVec.ofNat 41 offset ++ BitVec.ofNat 57 base, tag }

/-- Permissions of Table 4.5, as bits of PERMS. -/
def pLOAD : Nat := 1
def pSTORE : Nat := 2
def pATOMIC : Nat := 4
def pLOADCAP : Nat := 8
def pSTORECAP : Nat := 16
def pCOPYSRC : Nat := 32
def pCOPYDST : Nat := 64
def pNODE : Nat := 128
def pCOUNTER : Nat := 256
def pSCRATCHREF : Nat := 512

/-- Subcodes of the capability trap (15 Table 15.1). -/
def subTAG : Nat := 1
def subFORM : Nat := 2
def subSPACE : Nat := 3
def subPERM : Nat := 4
def subBOUNDS : Nat := 5
def subALIGN : Nat := 6
def subTAGSTORE : Nat := 7

/-- CheckCap of R79: the address, or the subcode of the first failing test. `scratch` is the instruction's space. -/
def checkCap (scratch : Bool) (c : Cap) (eo : Int) (size perm : Nat) : Except Nat Nat :=
  if !c.tag then .error subTAG
  else if c.resv != 0 || c.exp > 47 then .error subFORM
  else if c.scratchref != scratch then .error subSPACE
  else if c.perms &&& perm != perm then .error subPERM
  else if eo < 0 || eo + size > c.len then .error subBOUNDS
  else if (c.base : Int) + eo + size > 2 ^ 57 then .error subBOUNDS
  else .ok (c.base + eo.toNat)

/-- CheckAddr of R79: the offset is the signed difference of the address and BASE. -/
def checkAddr (c : Cap) (a size perm : Nat) : Except Nat Nat := checkCap false c ((a : Int) - c.base) size perm

/-- The low 32 bits of a signed number, as INFO holds them. -/
def info32 (eo : Int) : Nat := (eo % 2 ^ 32).toNat

/-- CheckCap for every lane of a list in increasing order (R80): the addresses, or the trap of the lowest failing
lane. -/
def checkLanes (scratch : Bool) (size perm : Nat) (capOf : Nat → Cap) (eoOf : Nat → Int) :
    List Nat → Except Cause (List (Nat × Nat))
  | [] => .ok []
  | l :: r =>
    match checkCap scratch (capOf l) (eoOf l) size perm with
    | .error sub => .error { code := 9, sub, lane := l, info := info32 (eoOf l) }
    | .ok a =>
      match checkLanes scratch size perm capOf eoOf r with
      | .error k => .error k
      | .ok as => .ok ((l, a) :: as)

/-- The effective offset of a memory C-word in a lane (R79). -/
def State.effOff (s : State) (sel none_ off : Nat) (ext : Option Word) (l : Nat) : Int :=
  (s.selCap sel l).offset + s.offOf none_ off l + dispOf ext

/-- Addresses of the lanes of `m` through selector `sel` (R79, R80). -/
def State.laneAddrs (s : State) (scratch : Bool) (size perm sel none_ off : Nat) (ext : Option Word) (m : LaneMask) :
    Except Cause (List (Nat × Nat)) :=
  checkLanes scratch size perm (s.selCap sel) (s.effOff sel none_ off ext) (lanesOf m)

/-- The lowest lane whose address is not a multiple of the size (R114). -/
def misaligned (size : Nat) (as : List (Nat × Nat)) : Option (Nat × Nat) := as.find? fun p => p.2 % size != 0

/-! ### CAP.* (R359, R360) -/

/-- Valid(c) of R359. -/
def Cap.valid (c : Cap) : Bool := c.tag && c.resv == 0 && c.exp ≤ 47

/-- ⌈n ÷ 2^e⌉. -/
def ceilShift (n e : Nat) : Nat := (n + 2 ^ e - 1) / 2 ^ e
/-- The least exponent 0 to 47 that brings a length to at most 1,023 units. -/
def leastExp (n : Nat) : Option Nat := (List.range 48).find? fun e => ceilShift n e ≤ 1023

/-- CAP.BND. Where no exponent exists, E and M of the untagged result are `open_`, which the spec does not state. -/
def capBnd (src : Cap) (x : Nat) (open_ : Nat) : Cap :=
  let base := src.base + src.offset
  match leastExp x with
  | some e =>
    let m := ceilShift x e
    Cap.make base 0 e m src.perms src.resv (src.valid && src.offset + m * 2 ^ e ≤ src.len)
  | none => Cap.make base 0 (open_ % 64) (open_ / 64) src.perms src.resv false
/-- CAP.PRM: bit 123 is kept from the source. -/
def capPrm (src : Cap) (x : Nat) : Cap :=
  Cap.make src.base src.offset src.exp src.mant (src.perms &&& (x % 1024 ||| pSCRATCHREF)) src.resv src.valid
/-- CAP.OFS. -/
def capOfs (src : Cap) (x : Int) : Cap :=
  let o := (src.offset : Int) + x
  Cap.make src.base (o % 2 ^ 41).toNat src.exp src.mant src.perms src.resv (src.valid && 0 ≤ o && o < 2 ^ 41)
/-- CAP.TST. -/
def capTst (src : Cap) : Bool := src.valid && src.offset ≤ src.len
/-- CAP.GET: field FLD in full. -/
def capField (src : Cap) (fld : Nat) : Nat :=
  match fld with
  | 0 => src.base
  | 1 => src.offset
  | 2 => src.len
  | 3 => src.perms
  | 4 => src.base + src.offset
  | _ => if src.tag then 1 else 0
/-- CAP.GET into a vector register: the length is clamped, the addresses are cut to 32 bits. -/
def capFieldW (src : Cap) (fld : Nat) : Word :=
  if fld = 2 then BitVec.ofNat 32 (min src.len 0xFFFFFFFF) else BitVec.ofNat 32 (capField src fld)

namespace State

/-- SRC of a CAP.* word in a lane. -/
def capSrc (s : State) (o : CapOp) (l : Nat) : Cap := if o.sk then s.pairCap o.src else s.quadCap o.src l
/-- V as a value: the 64 bits of s(V[10:6]), or the 32 bits of a vector register (124: zero). -/
def capV (s : State) (o : CapOp) (l : Nat) : Quad :=
  if o.dk then s.sreg (o.v / 4) else if o.v = 124 then 0 else (s.vcur (s.vname o.v) l).val.zeroExtend 64
/-- V as a signed value, for CAP.OFS. -/
def capVs (s : State) (o : CapOp) (l : Nat) : Int :=
  if o.dk then (s.sreg (o.v / 4)).toInt else if o.v = 124 then 0 else (s.vcur (s.vname o.v) l).val.toInt

/-- One lane's cell of a capability result (R65, R78). -/
def capCell (s : State) (q i l : Nat) (c : Cap) (old : VCell) : VCell :=
  if s.active.getLsbD l then { val := c.bits.extractLsb' (32 * i) 32, tag := c.tag }
  else if s.sl.run.getLsbD l && s.issue.mm then { val := s.agnostic (4 * q + i) l }
  else old
/-- Writes a capability per lane to quad `q`. -/
def putQuad (s : State) (q : Nat) (f : Nat → Cap) : State :=
  let put := fun (t : Tbl VCell) (p : Nat × Nat) =>
    Tbl.set {} t (cellKey (4 * q + p.1) p.2)
      (s.capCell q p.1 p.2 (f p.2) (Tbl.get {} t (cellKey (4 * q + p.1) p.2)))
  let keys := (List.range 4).flatMap fun i => lanes.map fun l => (i, l)
  (s.updGrp s.issue.gid fun g => { g with vregs := keys.foldl put g.vregs }).tick

/-- The result of CAP.BND, CAP.PRM or CAP.OFS: a quad in each lane, or the pair from the lowest lane of Active. -/
def capWrite (s : State) (o : CapOp) (f : Nat → Cap) : State :=
  if o.dk then (s.setPairCap o.d (f ((lowestLane s.active).getD 0))).tick else s.putQuad o.d f
/-- The result of CAP.GET or CAP.TST. -/
def capRead (s : State) (o : CapOp) (w : Cap → Word) (q : Cap → Quad) : State :=
  if o.dk then s.swrite (o.v / 4) (q (s.capSrc o ((lowestLane s.active).getD 0)))
  else s.cPut (s.vname o.v) fun l => w (s.capSrc o l)

end State

def execCapBnd (o : CapOp) (s : State) : Res :=
  s.issuedC (.capBnd o) fun s => s.capWrite o fun l => capBnd (s.capSrc o l) (s.capV o l).toNat (s.freeNat l)
def execCapPrm (o : CapOp) (s : State) : Res :=
  s.issuedC (.capPrm o) fun s => s.capWrite o fun l => capPrm (s.capSrc o l) (s.capV o l).toNat
def execCapOfs (o : CapOp) (s : State) : Res :=
  s.issuedC (.capOfs o) fun s => s.capWrite o fun l => capOfs (s.capSrc o l) (s.capVs o l)
def execCapGet (o : CapOp) (fld : Nat) (s : State) : Res :=
  s.issuedC (.capGet o fld) fun s => s.capRead o (capFieldW · fld) fun c => BitVec.ofNat 64 (capField c fld)
def execCapTst (o : CapOp) (s : State) : Res :=
  s.issuedC (.capTst o) fun s =>
    s.capRead o (fun c => if capTst c then 1 else 0) fun c => if capTst c then 1 else 0

end Sys2Proof.Machine
end

