-- ==== Sys2Proof/Machine/Counters.lean ====
section
/-! DEFINITION. The words AC.INIT, AC.TAKE, AC.GIVE, AC.READ and AC.DROP (18 R336, R337), and the counter messages at the
home (08 R174, R175): HOME_TAKE, HOME_GIVE and RECALL_RESPONSE. -/

namespace Sys2Proof.Machine
open State

namespace State

/-! ### Takes at the home (R174, R175) -/

/-- The decision of a take in queue order once the recall, if one was needed, is complete (R174). A take that its split no
longer waits for has been cancelled. -/
def decideTake (s : State) (pa core n gid slot : Nat) (wait recalled : Bool) (va ctx : Nat) : State :=
  let join := fun s : State =>
    (s.joinWaits pa { who := .split gid slot, n }).updSlot gid slot fun sl => { sl with wait := .long }
  let fail := fun s : State => if wait then join s else s.answerTake gid slot 0
  if (s.slotAt gid slot).waitFor != .take then s
  else if !s.ctrInit pa then s.answerTake gid slot (BitVec.ofNat 64 (2 ^ 63))
  else if !(s.waitsOn pa).isEmpty then fail s
  else if s.ctrReserve pa < n then
    -- a core that has left answers no recall, and holds nothing (R166)
    let gone := (s.ctrHolders pa).filter fun c => Tbl.get false s.left c
    let s1 := gone.foldl (fun s c => s.setHolder pa c false) s
    let hs := s1.ctrHolders pa
    if recalled || hs.isEmpty then fail s1
    else
      -- each holder takes the recall, responds and drops its entry; the take waits for the responses
      let msgs := hs.map fun c => { pa, core := c, kind := .recallResponse, units := (s1.allowOf pa c).allow : CtrMsg }
      let s2 := hs.foldl (fun s c => s.dropAllow pa c) s1
      let x : Txn := { kind := .counter pa core n gid slot wait va ctx, ackn := hs.length }
      ({ s2 with ctrMsgs := s2.ctrMsgs ++ msgs }).setTxn (lineOf pa) x
  else
    let reserve := s.ctrReserve pa
    let cap := s.ctrCap pa
    let h := ((s.ctrHolders pa).filter (· != core)).length
    let grant := if s.ctrCentral pa || cap == 0 then n
      else min reserve (min (n + cap) (max n (reserve / (2 * (h + 1)))))
    let s1 := s.setReserve pa (reserve - grant)
    let s2 := if n < grant then
        (s1.putAllow pa core { ctx := (s.blk (bidOf gid)).ctx, allow := grant - n, cap }).setHolder pa core true
      else s1
    s2.answerTake gid slot 1

/-- Removes the i-th counter message. -/
def dropMsg (s : State) (i : Nat) : State := { s with ctrMsgs := s.ctrMsgs.eraseIdx i }
/-- The messages of one core to one slice arrive in order (R165, R175): no earlier one stands before the i-th. -/
def firstOfChannel (s : State) (i : Nat) (m : CtrMsg) : Bool :=
  !(s.ctrMsgs.take i).any fun k => k.core == m.core && k.pa == m.pa && !k.arrived
/-- A request to the line has arrived before and waits in its queue. -/
def queued (l : List CtrMsg) (line : Nat) : Bool := l.any fun k => k.arrived && lineOf k.pa == line
/-- A take cannot be decided yet: a request or a copy is in progress on the line, or accepted reductions come first
(R160, R168). -/
def takeHeld (s : State) (line : Nat) : Bool := s.lineHeld line || !(s.farOf line).isEmpty

end State

/-! ### Messages at the home -/

/-- A TAKE arrives (R174): its units join RESERVE; then, in the line's queue order, it is decided. -/
def execHomeTake (i : Nat) (s : State) : Res :=
  .next (match s.ctrMsgs[i]? with
    | some m =>
      (match m.kind with
      | .take n gid slot wait =>
        let line := lineOf m.pa
        if m.arrived then
          if s.takeHeld line || queued (s.ctrMsgs.take i) line then s
          else ((s.dropMsg i).noteBad m.pa).decideTake m.pa m.core n gid slot wait false m.va m.ctx
        else if s.firstOfChannel i m then
          let s0 := s.dropMsg i
          let s1 := if s.ctrInit m.pa then (s0.setHolder m.pa m.core false).homeUnits m.pa m.units else s0
          if s.takeHeld line || queued s.ctrMsgs line then
            { s1 with ctrMsgs := s1.ctrMsgs ++ [{ m with units := 0, arrived := true }] }
          else (s1.noteBad m.pa).decideTake m.pa m.core n gid slot wait false m.va m.ctx
        else s
      | _ => s)
    | none => s)
/-- Units arrive (R174), and the split whose AC.GIVE or AC.DROP has sent them goes on: UNINIT is as the give finds it. The
holder bit stays: an earlier entry's units may still be on their way (R175). -/
def execHomeGive (i : Nat) (s : State) : Res :=
  .next (match s.ctrMsgs[i]? with
    | some m =>
      if s.firstOfChannel i m then
        let s1 := (((s.dropMsg i).noteBad m.pa).homeUnits m.pa m.units)
        (match m.kind with
        | .give => s1
        | .sent gid slot r =>
          s1.answerSplit .give gid slot (r.getD (if s.ctrInit m.pa then 0 else BitVec.ofNat 64 (2 ^ 63)))
        | _ => s)
      else s
    | none => s)
/-- A holder's response arrives; after the last one the take goes on (R175). -/
def execRecallResponse (i : Nat) (s : State) : Res :=
  .next (match s.ctrMsgs[i]? with
    | some m =>
      if m.kind = .recallResponse && s.firstOfChannel i m then
        let s1 := if s.ctrInit m.pa then ((s.dropMsg i).setHolder m.pa m.core false).homeUnits m.pa m.units else s.dropMsg i
        (match s1.txns.lookup (lineOf m.pa) with
        | some x =>
          (match x.kind with
          | .counter pa core n gid slot wait va ctx =>
            if x.acks + 1 < x.ackn then s1.setTxn (lineOf pa) { x with acks := x.acks + 1 }
            else ((s1.dropTxn (lineOf pa)).decideTake pa core n gid slot wait true va ctx)
          | _ => s1)
        | none => s1)
      else s
    | none => s)

/-! ### AC.* (R337) -/

namespace State

/-- The capability and address of an AC.* word, or its trap. -/
def acAddr (s : State) (o : AcOp) : Except Cause Nat :=
  let l := (lowestLane s.active).getD 0
  let c := s.selCap o.sel l
  let eo := (c.offset : Int) + dispOf o.ext
  match checkCap false c eo 64 pCOUNTER with
  | .error sub => .error { code := 9, sub, lane := 0, info := info32 eo }
  | .ok a => if a % 64 != 0 then .error { code := 10, info := a % 2 ^ 32 } else .ok a

/-- n of AC.TAKE and AC.GIVE. -/
def acCount (s : State) (o : AcOp) : Nat := if o.sn < 24 then (s.sreg o.sn).toNat % 2 ^ 32 else o.sn - 23
/-- Writes s(SD) unless SD is 31. -/
def acPut (s : State) (sd : Nat) (r : Nat) : State := if sd = 31 then s else s.swrite sd (BitVec.ofNat 64 r)

/-- The sources of an AC.* word of another split of the core for the same counter that wait in the core (R173). -/
def acQueue (s : State) (core key : Nat) : List Nat :=
  (s.grps.filter fun p => (s.blk (bidOf p.1)).core == core).flatMap fun p => p.2.slots.filterMap fun q =>
    match q.2.acTicket with
    | some (k, n) => if k = key then some n else none
    | none => none
/-- Operations of a core on a counter go one behind the other, in issue order, while a request of the core to it is in
flight (R173). -/
def acTurn (s : State) (pa : Nat) (f : State → State) : State :=
  let key := allowKey pa s.core
  let q := s.acQueue s.core key
  match s.sl.acTicket with
  | some (_, n) =>
    if s.inFlight pa s.core || q.any (· < n) then s.waitIssued else f (s.updSl fun sl => { sl with acTicket := none })
  | none =>
    if s.inFlight pa s.core || !q.isEmpty then
      (s.updSl fun sl => { sl with acTicket := some (key, q.foldl max 0 + 1) }).waitIssued
    else f s

/-- The fault record of an access of the issuing split (09 Table 9.4). -/
def splitFault (s : State) (va cause level : Nat) (acc : Acc) (unf : LaneMask) (source : Nat) : FaultRec :=
  { va, cause, source, access := acc.code, level, ctx := s.b.ctx, block := s.b.no, card := s.cardField s.b.card,
    pcore := s.b.core, group := s.gid % 32, slot := s.issue.slot, unf, party := .split s.gid s.issue.slot }
/-- Parks the issuing split with one fault record (R189); `p` holds what its replay needs. -/
def parkSplit (s : State) (r : FaultRec) (p : Parked) : State :=
  let fid := BitVec.ofNat 16 (s.ctx r.ctx).nextFid
  let s1 := s.postFault r
  let p' := { p with pages := [r.va], since := s.clock, resolved := false }
  (s1.updSl fun sl => { sl with wait := .parked, unf := r.unf, fid, parked := some p' }).setOut .stay
/-- Parks a word that acts once: UNF is Active (R337, R428). -/
def parkOnce (s : State) (a cause level : Nat) (acc : Acc) : State :=
  let lane : ParkedLane := { lane := (lowestLane s.active).getD 0, va := a }
  s.parkSplit (s.splitFault a cause level acc s.active 0) { lanes := [lane] }

/-- What an AC.* word of the issuing split sends to the home of the counter at `pa`, named at address `a`: the split waits for
the answer. -/
def sendCtr (s : State) (w : WaitFor) (a pa units : Nat) (kind : CtrMsgKind) : State :=
  let m : CtrMsg := { pa, core := s.core, kind, units, va := a, ctx := s.ctxId }
  ({ s with ctrMsgs := s.ctrMsgs ++ [m] }.updSl fun sl => { sl with waitFor := w }).setOut .stay
/-- The answer that the issuing split has waited for, taken. -/
def answered (s : State) (f : Quad → State → State) (none_ : State → State) : State :=
  match s.sl.answer with
  | some r => f r (s.updSl fun sl => { sl with answer := none })
  | none => none_ s

/-- An AC.* word up to its operation on the counter at `pa`, named at address `a` (R337). At a replay the saved address is used (R190). -/
def acRun (s : State) (o : AcOp) (opc : Nat) (f : Nat → Nat → State → State) : State :=
  let addr := if s.issue.replay then
      .ok (((s.sl.parked.getD {}).lanes.map (·.va)).headD 0)
    else s.acAddr o
  match addr with
  | .error k => s.takeTrap k
  | .ok a =>
    match s.translate (some s.core) s.ctxId a .rmw with
    | (.fault 0 _, s1) => s1.waitIssued
    | (.fault c lv, s1) => s1.parkOnce a c lv .rmw
    | (.ok tgt pa, s1) =>
      let s2 := s1.updSl fun sl => { sl with parked := none, unf := 0, wait := .ready }
      if tgt != 0 then s2.takeTrap { code := 11, info := opc } else s2.acTurn pa (f a pa)
/-- AC.INIT, AC.GIVE and QLAUNCH release at DEVICE scope (R145, R148). -/
def acRelease (s : State) (f : State → State) : State := s.release 3 f waitIssued
/-- A request that the home serves at once: it waits while the line is held, and behind takes and reductions that have
arrived before (R160, R168). An uncorrectable error of the line is logged; the spec gives the word no trap for it
(log 76). -/
def acHome (s : State) (pa : Nat) (f : State → State) : State :=
  if s.blocked 0 pa 64 || queued s.ctrMsgs (lineOf pa) then s.waitIssued
  else f ((s.settleFar s.bid (lineOf pa)).noteBad pa)

end State

/-- AC.INIT: a full recall, then the line becomes a counter (R172, R174). -/
def execAcInit (o : AcOp) (s : State) : Res :=
  s.issuedC (.acInit o) fun s => s.acRelease fun s => s.acRun o 0x27 fun _ pa s => s.acHome pa fun s =>
    let was := s.ctrInit pa
    let s1 := if was then (s.recallAll pa).cancelWaiting pa else s
    let old := if was then s1.ctrReserve pa else 2 ^ 63
    let v := (s.sreg o.sn).toNat % 2 ^ 48
    let cap := (s.sreg (o.sn + 1)).toNat % 2 ^ 48
    let bytes := toLe 8 v ++ toLe 8 (2 ^ 63 + cap) ++ toLe 48 0
    let s2 := (s1.allocate (lineOf pa)).homeWrite pa bytes
    (s2.setDir (lineOf pa) { s2.dir (lineOf pa) with ctr := true }).acPut o.sd old

/-- AC.TAKE, AC.TAKE.W. An answer of the home that has come completes the word. -/
def execAcTake (o : AcOp) (s : State) : Res :=
  s.issuedC (.acTake o) fun s => s.answered
    (fun r s => (if r = 1 then s.observe s.gid 3 else s).acPut o.sd r.toNat)
    fun s => s.acRun o 0x28 fun a pa s =>
      let n := s.acCount o
      let e := s.allowOf pa s.core
      if n = 0 then s.acPut o.sd 1
      else if s.hasAllow pa s.core && n ≤ e.allow then
        ((s.putAllow pa s.core { e with allow := e.allow - n }).observe s.gid 3).acPut o.sd 1
      else (s.dropAllow pa s.core).sendCtr .take a pa e.allow (.take n s.gid s.issue.slot o.wt)

/-- AC.GIVE. What it sends to the home completes it on arrival; a give that the L1's entry takes has found INIT = 1. -/
def execAcGive (o : AcOp) (s : State) : Res :=
  s.issuedC (.acGive o) fun s => s.answered (fun r s => s.acPut o.sd r.toNat)
    fun s => s.acRelease fun s => s.acRun o 0x29 fun a pa s =>
      let n := s.acCount o
      let e := s.allowOf pa s.core
      let v := e.allow + n
      if n = 0 then s.acPut o.sd 0
      else if s.hasAllow pa s.core && !s.ctrCentral pa then
        if e.cap < v then
          (s.putAllow pa s.core { e with allow := e.cap / 2 }).sendCtr .give a pa (v - e.cap / 2)
            (.sent s.gid s.issue.slot (some 0))
        else (s.putAllow pa s.core { e with allow := v }).acPut o.sd 0
      else s.sendCtr .give a pa n (.sent s.gid s.issue.slot none)

/-- AC.READ: the exact value after a full recall. -/
def execAcRead (o : AcOp) (s : State) : Res :=
  s.issuedC (.acRead o) fun s => s.acRun o 0x2A fun _ pa s => s.acHome pa fun s =>
    if s.ctrInit pa then
      let s1 := (s.recallAll pa).observe s.gid 3
      s1.acPut o.sd (s1.ctrReserve pa + (if s1.ctrOvf pa then 2 ^ 62 else 0))
    else s.acPut o.sd (2 ^ 63)

/-- AC.DROP: the core returns its allowance, and the word completes with its arrival at the home (R177). -/
def execAcDrop (o : AcOp) (s : State) : Res :=
  s.issuedC (.acDrop o) fun s => s.answered (fun r s => s.acPut o.sd r.toNat)
    fun s => s.acRun o 0x2B fun a pa s =>
      let e := s.allowOf pa s.core
      if s.hasAllow pa s.core then
        (s.dropAllow pa s.core).sendCtr .give a pa e.allow (.sent s.gid s.issue.slot (some (BitVec.ofNat 64 e.allow)))
      else s.acPut o.sd 0

end Sys2Proof.Machine
end

