-- ==== Sys2Proof/Machine/Memory.lean ====
section
/-! DEFINITION. The pipeline of a memory C-word (09 R189, R190; 15 R293), loads, stores, capability loads and stores,
atomics and reductions on global memory (18 R340 to R342, 19 R390 to R392, 20 R421, R428, R436, R437), and the
completions of host and peer accesses. -/

namespace Sys2Proof.Machine
open State

/-- What a memory C-word does once its addresses are checked. -/
structure MemOp where
  acc : Acc
  /-- A host or peer access awaits its completion (R155, R310). -/
  awaits : Bool
  /-- Checks that need the physical address, made before any lane performs (R167, R437). -/
  check : Nat → Nat → ParkedLane → Option Cause
  /-- Bytes accessed, for errors and held lines. -/
  size : Nat
  /-- The uncorrectable error is met by a read (15 Table 15.3). -/
  reads : Bool
  /-- A lane of 16 bytes is two accesses of 8, in either order (06 R114). -/
  halves : Bool := false
  perform : State → ParkedLane → Nat → Nat → State
  /-- The word acts once: UNF and INFO name every Active lane. -/
  once : Bool := false
  /-- The lanes act in increasing order, and none after one that faults (R418). -/
  ordered : Bool := false
  /-- The block whose scratchpad an SP word accesses: its lanes have target 3. -/
  bid : Nat := 0

/-- Offset and size of one of the accesses of a lane of n bytes: all of it, or a half of 16 bytes (R114). -/
def halfOf (half n : Nat) : Nat × Nat := if half = 0 then (0, n) else (8 * (half - 1), 8)

/-- An unspecified order of a list, given by choices `f` (R131). -/
def shuffleBy {α : Type} (f : Nat → Nat) : Nat → List α → List α
  | 0, l => l
  | n + 1, l =>
    if l.length ≤ 1 then l
    else match l[f n % l.length]? with
      | none => l
      | some x => x :: shuffleBy f n (l.eraseIdx (f n % l.length))

namespace State

/-! ### The lanes of a memory word -/

def laneMask (ls : List ParkedLane) : LaneMask := ls.foldl (fun m p => m ||| laneBit p.lane) 0
/-- The lane's access to host or peer memory has its answer, or needs none. -/
def ParkedLane.answered (p : ParkedLane) : Bool := p.out.isNone || p.ok || p.err
/-- Some lane can go on: one that has translated and awaits no answer, or, once no fault is open and every answer has
come, one that has not. -/
def Parked.canGo (p : Parked) : Bool :=
  p.lanes.any (fun x => x.dest.isSome && ParkedLane.answered x) ||
    (p.pages.isEmpty && p.lanes.any (fun x => x.dest.isNone) && p.lanes.all fun x => x.dest.isNone || ParkedLane.answered x)
/-- Lanes in increasing order. -/
def inLaneOrder (ls : List ParkedLane) : List ParkedLane := lanes.flatMap fun l => ls.filter fun p => p.lane == l

/-- The lanes translated, each with its target and address; the unfinished ones with the first one's fault; and whether
some translation only waits. -/
structure Located where
  ok : List ParkedLane := []
  bad : List ParkedLane := []
  why : Option (Nat × Nat) := none
  later : Bool := false
  deriving DecidableEq, Repr

/-- Translates every lane (R189). -/
def locate (s : State) (acc : Acc) (ls : List ParkedLane) : State × Located :=
  ls.foldl (fun r p =>
    match r.1.translate (some r.1.core) r.1.ctxId p.va acc with
    | (.ok tgt pa, s1) => (s1, { r.2 with ok := r.2.ok ++ [{ p with dest := some (tgt, pa) }] })
    | (.fault 0 _, s1) => (s1, { r.2 with later := true })
    | (.fault c l, s1) => (s1, { r.2 with bad := r.2.bad ++ [p], why := r.2.why.or (some (c, l)) }))
    (s, {})

/-- A scratchpad word of the access holds an uncorrectable error. -/
def scrBadAt (s : State) (bid a n : Nat) : Bool :=
  (List.range ((a + n - 1) / 4 + 1 - a / 4)).any fun i => Tbl.get false (s.blk bid).scrBad (a / 4 + i)
/-- A lane meets an uncorrectable error: in either half, where it has two (R293). -/
def meetsError (s : State) (m : MemOp) (p : ParkedLane) (tgt pa : Nat) : Bool :=
  m.reads && (p.err || (tgt == 0 && s.l1Bad pa m.size) || (tgt == 2 && p.out.isNone && s.peerFails pa m.size) ||
    (tgt == 3 && s.scrBadAt m.bid pa m.size))

/-- What came of the lanes that performed. -/
structure Done where
  errs : LaneMask := 0
  waiting : List ParkedLane := []
  deriving DecidableEq, Repr

/-- Performs one access of a translated lane: it is sent to its link, meets an error or performs. -/
def performLane (m : MemOp) (r : State × Done) (p : ParkedLane) : State × Done :=
  let (s, d) := r
  let (tgt, pa) := p.dest.getD (0, 0)
  if m.awaits && tgt != 0 && p.out.isNone && (tgt == 1 || s.linkUp) then
    let id := (s.pending.foldl (fun n p => max n p.id) 0) + 1
    let q : Pending := { id, tgt, gid := s.gid, slot := s.issue.slot, ctx := s.ctxId, va := p.va }
    ({ s with pending := s.pending ++ [q] }, { d with waiting := d.waiting ++ [{ p with out := some id }] })
  else if s.meetsError m p tgt pa then (s.logError (if tgt = 3 then 0 else pa), { d with errs := d.errs ||| laneBit p.lane })
  else (m.perform s p tgt pa, d)

/-- The accesses of a translated lane: 16 bytes are two halves (R114). -/
def accesses (m : MemOp) (p : ParkedLane) : List ParkedLane :=
  if m.halves && m.size == 16 && p.half == 0 then [{ p with half := 1 }, { p with half := 2 }] else [p]
/-- The L1 owns the line by the core's own request, whose completion is not home yet, and has the words that the access
needs: the access performs there (R161 step 3, R163). -/
def ownsWords (s : State) (m : MemOp) (tgt pa : Nat) : Bool :=
  let c := s.l1Core s.core (lineOf pa)
  tgt == 0 && m.size != 0 && lineOf (pa + m.size - 1) == lineOf pa && s.completing c (lineOf pa) &&
    (m.acc == .write || wordMask (pa % 128) m.size &&& ~~~(s.l1 c (lineOf pa)).valid == 0)
/-- A line of the access is held (R144, R160). -/
def heldFor (s : State) (m : MemOp) (p : ParkedLane) : Bool :=
  let d := p.dest.getD (0, 0)
  s.blocked d.1 d.2 m.size && !s.ownsWords m d.1 d.2
/-- The access can perform: no line of it is held, and the answers of its lane have come. -/
def canPerform (s : State) (m : MemOp) (ls : List ParkedLane) (p : ParkedLane) : Bool :=
  !s.heldFor m p &&
    (p.out.isNone || ls.all fun q => q.lane != p.lane || (q.out.isSome && ParkedLane.answered q))
/-- Performs, in an unspecified order, the accesses that can go on, or as many as the issue lets perform now (R131). -/
def performSome (s : State) (m : MemOp) (ls : List ParkedLane) : State × Done :=
  let go := ls.filter (s.canPerform m ls)
  let order := shuffleBy s.freeNat go.length go
  let n := s.issue.upTo.getD go.length
  let r := (order.take n).foldl (performLane m) (s.tick, {})
  (r.1, { r.2 with waiting := r.2.waiting ++ order.drop n ++ ls.filter fun p => !s.canPerform m ls p })

/-- Performs lanes one after the other (R190, R418), up to one that still waits: its accesses and the lanes behind it are
left. -/
def performInOrder (m : MemOp) : List (List ParkedLane) → State × LaneMask → (State × LaneMask) × List ParkedLane
  | [], r => (r, [])
  | g :: rest, (s, errs) =>
    let r := s.performSome m g
    let e := errs ||| r.2.errs
    if r.2.waiting.isEmpty then performInOrder m rest (r.1, e) else ((r.1, e), r.2.waiting ++ rest.flatten)
/-- The accesses of each lane, lane by lane. -/
def byLane (ls : List ParkedLane) : List (List ParkedLane) :=
  (lanes.map fun l => ls.filter fun p => p.lane == l).filter fun g => !g.isEmpty

/-- Unfinished lanes translated in increasing order: those before the first that fails, that one and those behind it, and
its fault (none: its walk only waits). -/
def locateUntil (acc : Acc) : List ParkedLane → State → State × List ParkedLane × List ParkedLane × Option (Nat × Nat)
  | [], s => (s, [], [], none)
  | p :: rest, s =>
    match s.translate (some s.core) s.ctxId p.va acc with
    | (.ok tgt pa, s1) =>
      let r := locateUntil acc rest s1
      (r.1, { p with dest := some (tgt, pa), ord := true } :: r.2.1, r.2.2)
    | (.fault 0 _, s1) => (s1, [], p :: rest, none)
    | (.fault c l, s1) => (s1, [], p :: rest, some (c, l))

/-! ### The pipeline -/

/-- The split stays at the word, with lanes that have still to perform: `lanes` have translated, `unf` have not. -/
def stayWith (s : State) (m : MemOp) (p : Parked) (lanes unf : List ParkedLane) (errs : LaneMask) : State :=
  let q : Parked := { p with lanes := inLaneOrder (lanes ++ unf), errs }
  let q1 : Parked := { q with resolved := Parked.canGo q }
  (s.updSl fun sl => { sl with parked := some q1, unf := if m.once && !unf.isEmpty then s.active else laneMask unf,
                               wait := if q1.pages.isEmpty then .ready else .parked,
                               waitFor := if q1.pages.isEmpty then .memory else sl.waitFor }).setOut .stay
/-- Every lane has performed, or some have still to. -/
def endPass (s : State) (m : MemOp) (p : Parked) (lanes unf : List ParkedLane) (errs : LaneMask) (fin : State → State) : State :=
  if lanes.isEmpty && unf.isEmpty then
    let s1 := s.updSl fun sl => { sl with parked := none, unf := 0, wait := .ready }
    if errs = 0 then fin s1
    else s1.takeTrap { code := 17, sub := 1, lane := (lowestLane errs).getD 0,
                       info := (if m.once then s.active else errs).toNat }
  else s.stayWith m p lanes unf errs
/-- The lanes `unf` have met a fault, of which one record is posted; `lanes` have translated and have still to perform. -/
def parkLanes (s : State) (m : MemOp) (cause level : Nat) (lanes unf : List ParkedLane) (errs : LaneMask) : State :=
  let va := (unf.map (·.va)).headD 0
  let s1 := s.parkSplit (s.splitFault va cause level m.acc (if m.once then s.active else laneMask unf) 0) {}
  s1.stayWith m (s1.sl.parked.getD {}) lanes unf errs
/-- The unfinished lanes `ls` in increasing order, once those before have performed: all that translate are checked before
any performs (R167, R437), and the first that fails again parks the split with those behind it (R190). -/
def runInOrder (s : State) (m : MemOp) (p : Parked) (ls : List ParkedLane) (errs : LaneMask) (fin : State → State) : State :=
  match locateUntil m.acc ls s with
  | (s1, ok, rest, why) =>
    match ok.findSome? fun p => m.check (p.dest.getD (0, 0)).1 (p.dest.getD (0, 0)).2 p with
    | some k => (s1.updSl fun sl => { sl with parked := none, unf := 0 }).takeTrap k
    | none =>
      if !rest.isEmpty && why.isNone then s1.endPass m p [] ls errs fin
      else
        let r := performInOrder m (byLane (ok.flatMap (accesses m))) (s1.tick, errs)
        match why with
        | some (c, l) => r.1.1.parkLanes m c l r.2 rest r.1.2
        | none => r.1.1.endPass m p r.2 [] r.1.2 fin

/-- A memory C-word over its lanes. At first every lane translates; those that do perform, the others park the split
(R189). At a replay the lanes that have translated go on, then the unfinished ones act in order (R190). `fin` is done when
every lane has performed. -/
def memRun (s : State) (m : MemOp) (ls : List ParkedLane) (fin : State → State) : State :=
  let old := s.sl.parked.getD {}
  if s.issue.replay then
    let unf := ls.filter fun p => p.dest.isNone
    let later := ls.filter fun p => p.dest.isSome && p.ord
    let r := s.performSome m (ls.filter fun p => p.dest.isSome && !p.ord)
    let errs := old.errs ||| r.2.errs
    if !r.2.waiting.isEmpty then r.1.endPass m old (r.2.waiting ++ later) unf errs fin
    else
      let q := performInOrder m (byLane later) (r.1, errs)
      if q.2.isEmpty && !unf.isEmpty && old.pages.isEmpty && s.issue.upTo.isNone then
        q.1.1.runInOrder m old unf q.1.2 fin
      else q.1.1.endPass m old q.2 unf q.1.2 fin
  else if m.ordered then s.runInOrder m {} ls 0 fin
  else
    let (s1, x) := s.locate m.acc ls
    match x.ok.findSome? fun p => m.check (p.dest.getD (0, 0)).1 (p.dest.getD (0, 0)).2 p with
    | some k => (s1.updSl fun sl => { sl with parked := none, unf := 0 }).takeTrap k
    | none =>
      if x.later || x.ok.any (s1.heldFor m) then s1.waitIssued
      else
        let r := s1.performSome m (x.ok.flatMap (accesses m))
        match x.why with
        | some (c, lv) => r.1.parkLanes m c lv r.2.waiting x.bad r.2.errs
        | none => r.1.endPass m {} r.2.waiting [] r.2.errs fin

/-- A per-lane memory C-word: at a replay the saved lanes, otherwise the addresses of every Active lane with its operand
words. `scratch` is false here (R77). `sub` is the capability subcode of a misaligned lane, none for MISALIGN. -/
def vmRun (s : State) (o : VmOp) (m : MemOp) (perm : Nat → Nat) (sub : Option Nat) (data : Nat → List Word)
    (fin : State → State) : State :=
  if s.issue.replay then s.memRun m (s.sl.parked.getD {}).lanes fin
  else
    match checkEach (lanesOf s.active) with
    | .error k => s.takeTrap k
    | .ok as =>
      match misaligned m.size as with
      | some (l, a) => s.takeTrap { code := 10, lane := l, info := a % 2 ^ 32 }
      | none => s.memRun m (as.map fun p => { lane := p.1, va := p.2, data := data p.1 }) fin
where
  /-- R80, with the permissions each lane needs; a subcode for a misaligned lane makes its alignment one of its checks
  (R81). -/
  checkEach : List Nat → Except Cause (List (Nat × Nat))
    | [] => .ok []
    | l :: r =>
      let eo := s.effOff o.sel 63 o.off o.ext l
      match checkCap false (s.selCap o.sel l) eo m.size (perm l) with
      | .error k => .error { code := 9, sub := k, lane := l, info := info32 eo }
      | .ok a =>
        match if a % m.size = 0 then none else sub with
        | some k => .error { code := 9, sub := k, lane := l, info := info32 eo }
        | none =>
          match checkEach r with
          | .error k => .error k
          | .ok as => .ok ((l, a) :: as)

/-! ### Values -/

/-- The words of a number of n bytes (at least one word). -/
def wordsOf (bs : List Byte) : List Word :=
  (List.range ((bs.length + 3) / 4)).map fun i => BitVec.ofNat 32 (leNum ((bs.drop (4 * i)).take 4))
/-- Writes words to registers `r`, `r + 1`, … of a lane of the issuing group, tags cleared. -/
def putWords (s : State) (r l : Nat) (ws : List Word) : State :=
  (ws.zipIdx).foldl (fun s p => s.vwrite (r + p.2) l p.1) s
/-- The words of registers `r` to `r + n − 1` in a lane, as at issue. -/
def getWords (s : State) (r n l : Nat) : List Word := (List.range n).map fun i => (s.vcur (r + i) l).val
/-- The little-endian bytes of words. -/
def bytesOf (ws : List Word) : List Byte := ws.flatMap fun w => toLe 4 w.toNat

/-- Running lanes that are not enabled, once a register result is complete (R65): `n` registers from `r`. -/
def agnosticLanes (s : State) (r n : Nat) : State :=
  if !s.issue.mm then s
  else
    let off := lanesOf (s.sl.run &&& ~~~s.active)
    ((List.range n).foldl (fun s i => off.foldl (fun s l => s.vwrite (r + i) l (s.agnostic (r + i) l)) s) s).tick

/-- The byte at `a` was read with LD.INV by the issuing block's card, and has been written since (R127, R128). -/
def staleByte (s : State) (a : Nat) : Bool :=
  (s.card s.cardId).invs.any fun e => e.1 ≤ a && a < e.1 + e.2.1 &&
    (s.hist.drop e.2.2).any fun o => o.pa ≤ a && a < o.pa + o.bytes.length
/-- The moment since the card's dispatch whose values a load may give for the stale bytes of its range, if there are any;
with `whole`, only if every byte is stale. -/
def moment (s : State) (pa n : Nat) (whole : Bool) : Option Nat :=
  let idx := (List.range n).map (pa + ·)
  if if whole then idx.all s.staleByte else idx.any s.staleByte then
    let lo := s.heldFrom (s.card s.cardId).since s.ctxId
    some (lo + s.freeNat 20 % (s.hist.length - lo + 1))
  else none
/-- LD.INV has read a location (R127). -/
def markInv (s : State) (pa n : Nat) : State := s.updCard s.cardId fun k => { k with invs := k.invs ++ [(pa, n, s.hist.length)] }

/-- The bytes a load of a device-memory line takes (R115, R128, R163, R172); `inv` marks LD.INV. -/
def loadDevice (s : State) (pa n : Nat) (inv : Bool) : State × List Byte :=
  let line := lineOf pa
  let s := s.settleFar s.bid line
  if (s.dir line).ctr then (s, s.homeBytes pa n)
  else
    let s := s.shareLine s.core line
    let r := match s.moment pa n false with
      | some m => (s.tick, (List.range n).map fun i => if s.staleByte (pa + i) then s.byteAt m (pa + i) else s.peek (pa + i))
      | none => (s, s.peekBytes pa n)
    (if inv then r.1.markInv pa n else r.1, r.2)

/-- The bytes a load takes at its target. -/
def loadAt (s : State) (tgt pa n : Nat) (inv : Bool := false) : State × List Byte :=
  if tgt = 0 then s.loadDevice pa n inv else (s, s.tgtBytes tgt pa n)

/-- A write or reduction goes to the paired card's link (R155, R310). -/
def sendPeer (s : State) (va : Nat) (write : Option (Nat × List Byte)) (red : Option FarRed) : State :=
  let id := (s.pending.foldl (fun n p => max n p.id) 0) + 1
  let p : Pending := { id, tgt := 2, gid := s.gid, slot := s.issue.slot, ctx := s.ctxId, va, write, red, seen := [s.gid] }
  { s with pending := s.pending ++ [p] }
/-- Bytes a core stores (R115, R155, R172, R436). -/
def storeAt (s : State) (va tgt pa : Nat) (bs : List Byte) : State :=
  match tgt with
  | 0 =>
    let line := lineOf pa
    let s := s.settleFar s.bid line
    if (s.dir line).ctr then s.lineWrite pa bs else s.l1Write s.core pa bs
  | 1 => { s with hostMem := putBytes s.hostMem pa bs }
  | _ =>
    if s.linkUp then s.sendPeer va (some (pa, bs)) none else s.logError pa

/-- A read-modify-write of the paired card's or the host's memory: the state and the old value. -/
def farRmw (s : State) (tgt pa n : Nat) (f : Nat → Nat) : State × Nat :=
  let old := leNum (s.tgtBytes tgt pa n)
  let bs := toLe n (f old)
  (if tgt = 1 then { s with hostMem := putBytes s.hostMem pa bs } else { s with peerMem := putBytes s.peerMem pa bs }, old)
/-- One read-modify-write where 08 Table 8.4 places it: the old value, and the state after. -/
def atomicAt (s : State) (tgt pa : Nat) (op : AtomOp) (z : Bool) (x cmp : Quad) : State × Quad :=
  let n := atomBytes z
  let new := fun old : Nat => (atomApply op z s.rm (BitVec.ofNat 64 old) x cmp).toNat
  match tgt with
  | 0 =>
    let line := lineOf pa
    let s := s.settleFar s.bid line
    if (s.dir line).ctr then
      -- the caller has found no error
      match s.homeRmw pa n new with
      | .ok (s1, old) => (s1, BitVec.ofNat 64 old)
      | .error s1 => (s1, 0)
    else
      let s := s.ownLine s.core line
      let old := s.peekNat pa n
      (s.l1Write s.core pa (toLe n (new old)), BitVec.ofNat 64 old)
  | _ =>
    let r := s.farRmw tgt pa n new
    (r.1, BitVec.ofNat 64 r.2)

end State

/-! ### LD, LD.INV, S.LD -/

/-- The register words of a loaded value (19 Table 19.5). -/
def loadWords (sz : LdSize) (bs : List Byte) : List Word :=
  match sz with
  | .bs => [(BitVec.ofNat 8 (leNum bs)).signExtend 32]
  | .hs => [(BitVec.ofNat 16 (leNum bs)).signExtend 32]
  | _ => wordsOf bs

/-- The load of R391. -/
def State.loadWord (s : State) (sz : LdSize) (o : VmOp) (inv : Bool) : State :=
  let d := s.vname o.data
  let n := sz.bytes
  let m : MemOp := {
    acc := .read, awaits := true, check := fun _ _ _ => none, size := n, reads := true, halves := true,
    perform := fun s p tgt pa =>
      let x := halfOf p.half n
      let r := s.loadAt tgt (pa + x.1) x.2 inv
      r.1.putWords (d + x.1 / 4) p.lane (loadWords sz r.2) }
  s.vmRun o m (fun _ => pLOAD) none (fun _ => []) fun s => (s.agnosticLanes d ((n + 3) / 4)).acquired o.ord o.scope

def execLd (sz : LdSize) (o : VmOp) (s : State) : Res :=
  s.issuedC (.ld sz o) fun s => s.loadWord sz o false
/-- R127: an LD that may keep an unregistered copy. -/
def execLdInv (sz : LdSize) (o : VmOp) (s : State) : Res :=
  s.issuedC (.ldInv sz o) fun s => s.loadWord sz o true

namespace State

/-- The address of an SM word, or its trap: the capability of the lowest Active lane, s(SO) and the displacement
(R428). -/
def smAddr (s : State) (o : SmOp) (size : Nat) (sub : Option Nat) : Except Cause (Nat × Cap) :=
  let c := s.selCap o.sel ((lowestLane s.active).getD 0)
  let so := if o.so = 31 then 0 else (s.sreg o.so).toInt
  let eo := (c.offset : Int) + so + dispOf o.ext
  match checkCap false c eo size pLOAD with
  | .error k => .error { code := 9, sub := k, info := info32 eo }
  | .ok a =>
    if a % size = 0 then .ok (a, c)
    else match sub with
      | some x => .error { code := 9, sub := x, info := info32 eo }
      | none => .error { code := 10, info := a % 2 ^ 32 }

/-- A memory C-word that acts once. -/
def smRun (s : State) (o : SmOp) (m : MemOp) (sub : Option Nat) : State :=
  let fin := fun s : State => s.acquired o.ord o.scope
  if s.issue.replay then s.memRun m (s.sl.parked.getD {}).lanes fin
  else
    match s.smAddr o m.size sub with
    | .error k => s.takeTrap k
    | .ok (a, c) =>
      let flag : Word := if c.perms &&& pLOADCAP != 0 then 1 else 0
      s.memRun m [{ lane := (lowestLane s.active).getD 0, va := a, data := [flag] }] fin

end State

/-- R428. -/
def execSLd (sz : Nat) (o : SmOp) (s : State) : Res :=
  s.issuedC (.sLd sz o) fun s =>
    let n := 2 ^ sz
    s.smRun o {
      acc := .read, awaits := true, check := fun _ _ _ => none, size := n, reads := true, once := true,
      perform := fun s _ tgt pa =>
        let r := s.loadAt tgt pa n
        r.1.swrite o.sd (BitVec.ofNat 64 (leNum r.2)) } none

/-! ### ST -/

/-- Words of a stored register operand. -/
def StSize.words (sz : StSize) : Nat := (sz.bytes + 3) / 4

/-- R436. -/
def execSt (sz : StSize) (o : VmOp) (s : State) : Res :=
  s.issuedC (.st sz o) fun s => s.released o.ord o.scope fun s =>
    let d := s.vname o.data
    let n := sz.bytes
    let m : MemOp := {
      acc := .write, awaits := false, check := fun _ _ _ => none, size := n, reads := false, halves := true,
      perform := fun s p tgt pa =>
        let x := halfOf p.half n
        s.storeAt p.va tgt (pa + x.1) (((bytesOf p.data).drop x.1).take x.2) }
    s.vmRun o m (fun _ => pSTORE) none (fun l => s.getWords d (StSize.words sz) l) id

/-! ### LDC, STC (R81, R82, R392, R437) -/

/-- The 16 bytes and the tag of a granule at its target, both as they stood at one moment (R82). -/
def State.loadGranule (s : State) (tgt pa : Nat) (loadcap : Bool) : State × Cap :=
  let line := lineOf pa
  let s1 := if tgt = 0 then s.settleFar s.bid line else s
  let s2 := if tgt = 0 && !(s1.dir line).ctr then s1.shareLine s1.core line else s1
  match if tgt = 0 && !(s2.dir line).ctr then s2.moment pa 16 true else none with
  | some m =>
    let bytes := (List.range 16).map fun i => s2.byteAt m (pa + i)
    (s2.tick, { bits := BitVec.ofNat 128 (leNum bytes), tag := loadcap && s2.hasTags pa && s2.tagAt m pa })
  | none =>
    let bytes := s2.tgtBytes tgt pa 16
    (s2, { bits := BitVec.ofNat 128 (leNum bytes), tag := loadcap && tgt == 0 && s2.memTag pa })

def ldcOp (put : State → Nat → Cap → State) (once : Bool) : MemOp := {
  acc := .read, awaits := true, check := fun _ _ _ => none, size := 16, reads := true, once,
  perform := fun s p tgt pa =>
    let r := s.loadGranule tgt pa (p.data.headD 0 != 0)
    put r.1 p.lane r.2 }

def execLdc (o : VmOp) (s : State) : Res :=
  s.issuedC (.ldc o) fun s =>
    let flag := fun l => if (s.selCap o.sel l).perms &&& pLOADCAP != 0 then (1 : Word) else 0
    s.vmRun o (ldcOp (fun s l c => s.setQuadCap (o.data / 4) l c) false) (fun _ => pLOAD) (some subALIGN)
      (fun l => [flag l]) fun s => (s.agnosticLanes o.data 4).acquired o.ord o.scope
def execLdcSpair (o : SmOp) (s : State) : Res :=
  s.issuedC (.ldcSpair o) fun s =>
    s.smRun o (ldcOp (fun s _ c => s.setPairCap (o.sd / 2) c) true) (some subALIGN)

def execStc (o : VmOp) (s : State) : Res :=
  s.issuedC (.stc o) fun s => s.released o.ord o.scope fun s =>
    let q := o.data / 4
    let tagOf := fun l => (s.quadCap q l).tag
    let outside := fun (tgt pa : Nat) => tgt != 0 || !s.hasTags pa
    let m : MemOp := {
      acc := .write, awaits := false, size := 16, reads := false,
      check := fun tgt pa p =>
        if p.data.getD 4 0 != 0 && outside tgt pa then
          some { code := 9, sub := subTAGSTORE, lane := p.lane, info := info32 (s.effOff o.sel 63 o.off o.ext p.lane) }
        else none,
      perform := fun s p tgt pa =>
        let s := s.storeAt p.va tgt pa (bytesOf (p.data.take 4))
        if tgt = 0 then s.setMemTag pa (p.data.getD 4 0 != 0) else s }
    s.vmRun o m (fun l => if tagOf l then pSTORE + pSTORECAP else pSTORE) (some subALIGN)
      (fun l => s.getWords o.data 4 l ++ [if tagOf l then 1 else 0]) id

/-! ### ATOM, RED -/

/-- Registers of an atomic operand: CAS takes the compare value first (R340). -/
def atomWords (op : AtomOp) (z : Bool) : Nat := (if z then 2 else 1) * (if op = .cas then 2 else 1)
/-- The value of one or two words. -/
def wordsVal (ws : List Word) : Quad := BitVec.ofNat 64 (leNum (bytesOf ws))
/-- The operand x and the compare value of an atomic from its saved words. -/
def atomOperands (op : AtomOp) (z : Bool) (ws : List Word) : Quad × Quad :=
  let k := if z then 2 else 1
  if op = .cas then (wordsVal (ws.drop k), wordsVal (ws.take k)) else (wordsVal ws, 0)

/-- Position of an operation in 17 Table 17.7. -/
def AtomOp.index : AtomOp → Nat
  | .add => 0 | .and => 1 | .or => 2 | .xor => 3 | .min => 4 | .max => 5 | .umin => 6 | .umax => 7 | .xchg => 8
  | .cas => 9 | .fadd => 10 | .fmin => 11 | .fmax => 12

/-- R341. -/
def execAtom (op : AtomOp) (z : Bool) (o : VmOp) (s : State) : Res :=
  s.issuedC (.atom op z o) fun s => s.released o.ord o.scope fun s =>
    let d := s.vname o.data
    let n := atomBytes z
    let m : MemOp := {
      acc := .rmw, awaits := true, size := n, reads := true,
      check := fun tgt _ p =>
        if atomTargetOk op tgt then none
        else some { code := 11, lane := p.lane, info := 0x60 + 2 * AtomOp.index op + z.toNat },
      perform := fun s p tgt pa =>
        let x := atomOperands op z p.data
        let r := s.atomicAt tgt pa op z x.1 x.2
        r.1.putWords d p.lane (wordsOf (toLe n r.2.toNat)) }
    s.vmRun o m (fun _ => pLOAD + pSTORE + pATOMIC) none (fun l => s.getWords d (atomWords op z) l) fun s =>
      (s.agnosticLanes d (n / 4)).acquired o.ord o.scope

namespace State

/-- RED's cause of a translation fault (08 Table 8.5). -/
def redCause (c : Nat) : Nat := if c = causeBadPte then 5 else c

/-- Where one lane's reduction is performed (08 Table 8.4); `near` is GROUP, BLOCK or GANG scope. -/
def redLane (s : State) (r : FarRed) (tgt : Nat) : State :=
  if tgt = 2 then
    if s.linkUp then s.sendPeer r.va none (some r) else (s.logError r.pa).redFault r causeUncorrectable
  else if tgt != 0 then (s.atomicAt tgt r.pa r.op r.z r.operand 0).1
  else
    let line := lineOf r.pa
    let ctr := (s.dir line).ctr
    let owned := (s.l1 (s.l1Core s.core line) line).owned
    if ctr || r.scope < 3 || owned then
      if s.l1Bad r.pa (atomBytes r.z) then (s.logError r.pa).redFault r causeUncorrectable
      else (s.atomicAt 0 r.pa r.op r.z r.operand 0).1
    else
      let s := s.dropCopy (s.l1Core s.core line) line
      { s with farSent := s.farSent ++ [r] }

/-- What the translation of one lane of a RED gives. -/
inductive RedLane where
  | ok (tgt : Nat)
  | fault (cause : Nat)
  | later
  deriving DecidableEq, Repr
/-- The lanes of a RED translated in increasing order; a target that refuses the operation is a fault too (R169). -/
def redLocate (s : State) (rs : List FarRed) : State × List (FarRed × RedLane) :=
  rs.foldl (fun r x =>
    match r.1.translate (some r.1.core) r.1.ctxId x.va .rmw with
    | (.fault 0 _, s) => (s, r.2 ++ [(x, .later)])
    | (.fault c _, s) => (s, r.2 ++ [(x, .fault (redCause c))])
    | (.ok tgt pa, s) =>
      (s, r.2 ++ [({ x with pa }, if !atomTargetOk x.op tgt then .fault 3
        else if s.blocked tgt pa (atomBytes x.z) then .later else .ok tgt)]))
    (s, [])

end State

/-- The split's rounding mode as %fmt codes it (05 Table 5.5). -/
def State.rmCode (s : State) : Nat := s.sl.fmt.toNat % 4

/-- R421. -/
def execRed (op : AtomOp) (z : Bool) (o : VmOp) (s : State) : Res :=
  s.issuedC (.red op z o) fun s => s.released o.ord o.scope fun s =>
    let d := s.vname o.data
    let n := atomBytes z
    match s.laneAddrs false n (pSTORE + pATOMIC) o.sel 63 o.off o.ext s.active with
    | .error k => s.takeTrap k
    | .ok as =>
      match misaligned n as with
      | some (l, a) => s.takeTrap { code := 10, lane := l, info := a % 2 ^ 32 }
      | none =>
        let mk := fun (l va : Nat) =>
          ({ pa := 0, op, z, operand := wordsVal (s.getWords d (if z then 2 else 1) l), rm := s.rmCode, scope := o.scope,
             va, lane := l, bid := s.bid, ctx := s.ctxId, block := s.b.no, card := s.cardField s.b.card,
             opc := 0x80 + 2 * AtomOp.index op + z.toNat } : FarRed)
        let (s1, found) := s.redLocate (as.map fun p => mk p.1 p.2)
        if found.any fun x => x.2 == .later then s1.waitIssued
        else
          -- faults are logged in lane order; the other lanes perform in any order
          let s2 := found.foldl (fun s x => match x.2 with
            | .fault c => s.redFault x.1 c
            | _ => s) s1
          let go := found.filterMap fun x => match x.2 with
            | .ok tgt => some (x.1, tgt)
            | _ => none
          (shuffleBy s2.freeNat go.length go).foldl (fun s x => s.redLane x.1 x.2) s2.tick

/-! ### Completions of host and peer accesses -/

namespace State

/-- Marks the answer of a lane, which may then go on. -/
def answerLane (s : State) (gid slot id : Nat) (bad : Bool) : State :=
  s.updSlot gid slot fun sl =>
    match sl.parked with
    | none => sl
    | some p =>
      let mine := (p.lanes.filter fun x => x.out == some id).map (·.lane)
      let ls := p.lanes.map fun x =>
        let y := if x.out = some id then { x with ok := !bad } else x
        if bad && mine.contains x.lane then { y with err := true } else y
      let q : Parked := { p with lanes := ls }
      { sl with parked := some { q with resolved := Parked.canGo q } }

/-- An older write or reduction that happens before the access has not been answered (R137, R139). -/
def olderWrite (s : State) (p : Pending) : Bool :=
  s.pending.any fun q => (q.write.isSome || q.red.isSome) && q.seen.contains p.gid && q.tgt == p.tgt && q.id < p.id

/-- The completion or response with identifier `id` on the link of target `tgt`. -/
def linkAnswer (s : State) (tgt id : Nat) (bad : Bool) : State :=
  match s.pending.find? fun p => p.id == id && p.tgt == tgt with
  | none => s
  | some p =>
    if s.olderWrite p then s
    else
      let s1 : State := { s with pending := s.pending.filter fun q => q.id != id }
      match p.write, p.red with
      | some (pa, bs), _ => if bad then s1.logError pa else { s1 with peerMem := putBytes s1.peerMem pa bs }
      | none, some r =>
        if bad then (s1.logError r.pa).redFault r causeUncorrectable
        else (s1.farRmw 2 r.pa (atomBytes r.z) fun old =>
          (atomApply r.op r.z (RMode.ofBits r.rm) (BitVec.ofNat 64 old) r.operand 0).toNat).1
      | none, none => s1.answerLane p.gid p.slot id bad

end State

/-- R155. -/
def execHostCompletion (id : Nat) (s : State) : Res := .next (s.linkAnswer 1 id false)
/-- R310. -/
def execPeerResponse (id : Nat) (bad : Bool) (s : State) : Res := .next (s.linkAnswer 2 id bad)

end Sys2Proof.Machine
end

