-- ==== Sys2Proof/Machine/CacheOps.lean ====
section
/-! DEFINITION. CACHE.CLN, CACHE.INV and TLB.INV (18 R357, 20 R443), and the invalidation of cached translations
(09 R187). -/

namespace Sys2Proof.Machine
open State

namespace State

/-- A firmware cache word over its lanes (R357): `f` acts on the L1 that holds the line. -/
def cacheRun (s : State) (o : DaOp) (f : State → Nat → Nat → State) : State :=
  let m : MemOp := {
    acc := .read, awaits := false, check := fun _ _ _ => none, size := 1, reads := false,
    perform := fun s _ tgt pa => if tgt = 0 then f s (s.l1Core s.core (lineOf pa)) (lineOf pa) else s }
  if s.issue.replay then s.memRun m (s.sl.parked.getD {}).lanes id
  else
    match s.laneAddrs false 1 pLOAD o.sel 124 o.off o.ext s.active with
    | .error k => s.takeTrap k
    | .ok as => s.memRun m (as.map fun p => { lane := p.1, va := p.2 }) id

/-- The addresses of range code `r` at base `va` (Table 9.5): none for codes 5 to 7. -/
def rangeCovers (code base va : Nat) : Bool :=
  let bits := fun n : Nat => va / 2 ^ n == base / 2 ^ n
  match code with
  | 0 => bits 12
  | 1 => bits 16
  | 2 => bits 21
  | 3 => bits 30
  | 4 => true
  | _ => false

/-- A translation whose page meets the range. -/
def tlbCovered (ctx code base : Nat) (t : Tlb) : Bool :=
  t.ctx == ctx && (rangeCovers code base (t.vpage * 2 ^ t.size) ||
    (code < 4 && base / 2 ^ t.size == t.vpage))
/-- The pages of the covered entries of every TLB, each with its size. -/
def coveredPages (s : State) (ctx code base : Nat) : List (Nat × Nat) :=
  (((s.l1tlb ++ s.l2tlb).flatMap (·.2)).filter (tlbCovered ctx code base)).map fun t => (t.vpage, t.size)
/-- An address that a removed entry has translated: one of the range, or of a page of `pages`. -/
def wasCovered (code base : Nat) (pages : List (Nat × Nat)) (va : Nat) : Bool :=
  rangeCovers code base va || pages.any fun p => va / 2 ^ p.2 == p.1
/-- An access translated through a covered entry has not performed: a reduction, an access on a link, a lane of a memory
word, a counter request that the home has not decided (log 95), or a copy's segment, which owns its lines (R187). -/
def translatedLeft (s : State) (ctx code base : Nat) (pages : List (Nat × Nat)) : Bool :=
  let on := fun (c va : Nat) => c == ctx && wasCovered code base pages va
  s.farSent.any (fun r => on r.ctx r.va) || s.farQ.any (fun p => p.2.any fun r => on r.ctx r.va) ||
    s.pending.any (fun p => on p.ctx p.va) || s.ctrMsgs.any (fun m => on m.ctx m.va) ||
    s.txns.any (fun p => match p.2.kind with
      | .counter _ _ _ _ _ _ va c => on c va
      | _ => false) ||
    s.copies.any (fun p => p.2.ctx == ctx && code < 5 && !p.2.owned.isEmpty) ||
    s.grps.any fun p => p.2.slots.any fun q => q.2.parked.any fun k =>
      k.lanes.any fun x => x.dest.any (fun d => d.1 < 3) && on (s.blk (bidOf p.1)).ctx x.va
/-- Removes the covered entries from every TLB; every walk is complete between steps (R187). -/
def invalidateTlbs (s : State) (ctx code base : Nat) : State :=
  let drop := fun (t : Tbl (List Tlb)) =>
    (t.map fun p => (p.1, p.2.filter fun x => !tlbCovered ctx code base x)).filter fun p => !p.2.isEmpty
  { s with l1tlb := drop s.l1tlb, l2tlb := drop s.l2tlb }

end State

def execCacheCln (o : DaOp) (s : State) : Res :=
  s.issuedC (.cacheCln o) fun s => s.cacheRun o fun s core line =>
    if (s.l1 core line).dirty = 0 then s else s.cleanLine line
def execCacheInv (o : DaOp) (s : State) : Res :=
  s.issuedC (.cacheInv o) fun s => s.cacheRun o cacheDrop
/-- R443: the entries are removed, and the split waits with WAIT = 2 for the accesses translated through them. -/
def execTlbInv (sa sb : Nat) (s : State) : Res :=
  s.issuedC (.tlbInv sa sb) fun s =>
    let ctx := (s.sreg sa).toNat % 2 ^ 16
    let b := (s.sreg sb).toNat
    let base := bitsOf b 12 45 * 4096
    let pages := s.coveredPages ctx (b % 8) base
    let s1 := s.invalidateTlbs ctx (b % 8) base
    if s1.translatedLeft ctx (b % 8) base pages then
      s1.updSl fun sl => { sl with wait := .barrier, waitFor := .tlbInv ctx (b % 8) base pages }
    else s1.noteMoved ctx

end Sys2Proof.Machine
end

