-- ==== Sys2Proof/Machine/IntAlu.lean ====
section
/-! DEFINITION. A-words of the integer class (19 R381, R382, 18 R355, 20 R416). -/

namespace Sys2Proof.Machine
open State

/-- An integer A-word of two 32-bit sources. -/
def State.int2 (s : State) (o : AOp) (f : Word → Word → Word) : State :=
  s.aPut o fun l => f (s.srcW .int o.srcA l) (s.srcW .int o.srcB l)
/-- An integer A-word of one 32-bit source. -/
def State.int1 (s : State) (o : AOp) (f : Word → Word) : State := s.aPut o fun l => f (s.srcW .int o.srcA l)
/-- A .L form of two pairs. -/
def State.int2L (s : State) (o : AOp) (f : Quad → Quad → Quad) : State :=
  s.aPutQ o fun l => f (s.srcQ .int o.srcA l) (s.srcQ .int o.srcB l)
/-- The destination's old value in a lane (R327). -/
def State.dstOld (s : State) (o : AOp) (l : Nat) : Word := (s.vcur (s.vname o.dst) l).val

/-- A shift by the whole count: a count of the width or more gives `wide` (Table 19.4). -/
def shiftBy {w : Nat} (count : BitVec w) (f : Nat → BitVec w) (wide : BitVec w) : BitVec w :=
  if count.toNat < w then f count.toNat else wide
def shl {w : Nat} (a b : BitVec w) : BitVec w := shiftBy b (a <<< ·) 0
def shr {w : Nat} (a b : BitVec w) : BitVec w := shiftBy b (a >>> ·) 0
def sra {w : Nat} (a b : BitVec w) : BitVec w := shiftBy b (a.sshiftRight ·) (if a.msb then -1 else 0)

/-- Bits [63:32] of a product. -/
def mulHigh (x y : Int) : Word := BitVec.ofInt 32 (x * y / 2 ^ 32)
def absWord (a : Word) : Word := if a.msb then -a else a
/-- Number of one bits, leading zeros and the reversed word. -/
def popWord (a : Word) : Word := BitVec.ofNat 32 ((List.range 32).countP fun i => a.getLsbD i)
def clzWord (a : Word) : Word := BitVec.ofNat 32 (if a = 0 then 32 else 31 - Nat.log2 a.toNat)
def revWord (a : Word) : Word := maskOf fun i => a.getLsbD (31 - i)

/-- The conditions of ICMP.cc (Table 19.4). -/
def icmpHolds (c : ICond) (a b : Word) : Bool :=
  match c with
  | .eq => a == b
  | .ne => a != b
  | .lt => a.slt b
  | .le => a.sle b
  | .gt => b.slt a
  | .ge => b.sle a
  | .ltu => a.ult b
  | .leu => a.ule b
  | .gtu => b.ult a
  | .geu => b.ule a
def boolWord (b : Bool) : Word := if b then 1 else 0

def execIadd (l : Bool) (o : AOp) (s : State) : Res :=
  s.issued (.iadd l o) fun s => if l then s.int2L o (· + ·) else s.int2 o (· + ·)
def execIsub (l : Bool) (o : AOp) (s : State) : Res :=
  s.issued (.isub l o) fun s => if l then s.int2L o (· - ·) else s.int2 o (· - ·)
def execImul (l : Bool) (o : AOp) (s : State) : Res :=
  s.issued (.imul l o) fun s => if l then s.int2L o (· * ·) else s.int2 o (· * ·)
def execImulh (u : Bool) (o : AOp) (s : State) : Res :=
  s.issued (.imulh u o) fun s =>
    s.int2 o fun a b => if u then mulHigh a.toNat b.toNat else mulHigh a.toInt b.toInt
def execImad (o : AOp) (s : State) : Res :=
  s.issued (.imad o) fun s => s.aPut o fun l => s.srcW .int o.srcA l * s.srcW .int o.srcB l + s.dstOld o l
def execIabs (o : AOp) (s : State) : Res := s.issued (.iabs o) fun s => s.int1 o absWord
def execIand (o : AOp) (s : State) : Res := s.issued (.iand o) fun s => s.int2 o (· &&& ·)
def execIor (o : AOp) (s : State) : Res := s.issued (.ior o) fun s => s.int2 o (· ||| ·)
def execIxor (o : AOp) (s : State) : Res := s.issued (.ixor o) fun s => s.int2 o (· ^^^ ·)
/-- A 64-bit shift takes its count from the low word of the srcB pair (Table 19.4). -/
def State.shiftL (s : State) (o : AOp) (f : Quad → Quad → Quad) : State :=
  s.int2L o fun a b => f a (b &&& 0xFFFFFFFF)
def execIshl (l : Bool) (o : AOp) (s : State) : Res :=
  s.issued (.ishl l o) fun s => if l then s.shiftL o shl else s.int2 o shl
def execIshr (l : Bool) (o : AOp) (s : State) : Res :=
  s.issued (.ishr l o) fun s => if l then s.shiftL o shr else s.int2 o shr
def execIsra (l : Bool) (o : AOp) (s : State) : Res :=
  s.issued (.isra l o) fun s => if l then s.shiftL o sra else s.int2 o sra
def execPopc (o : AOp) (s : State) : Res := s.issued (.popc o) fun s => s.int1 o popWord
def execClz (o : AOp) (s : State) : Res := s.issued (.clz o) fun s => s.int1 o clzWord
def execBrev (o : AOp) (s : State) : Res := s.issued (.brev o) fun s => s.int1 o revWord
def execImin (u : Bool) (o : AOp) (s : State) : Res :=
  s.issued (.imin u o) fun s => s.int2 o fun a b => if (if u then b.ult a else b.slt a) then b else a
def execImax (u : Bool) (o : AOp) (s : State) : Res :=
  s.issued (.imax u o) fun s => s.int2 o fun a b => if (if u then a.ult b else a.slt b) then b else a
/-- R383: srcA where the mask bit is 1, srcB elsewhere. -/
def execIsel (k : Nat) (o : AOp) (s : State) : Res :=
  s.issued (.isel k o) fun s =>
    s.aPut o fun l => if s.maskBit k l then s.srcW .int o.srcA l else s.srcW .int o.srcB l
def execIcmp (c : ICond) (o : AOp) (s : State) : Res :=
  s.issued (.icmp c o) fun s => s.int2 o fun a b => boolWord (icmpHolds c a b)

end Sys2Proof.Machine
end

