-- ==== Sys2Proof/Machine/Transcend.lean ====
section
/-! DEFINITION. FEX2, FLG2, FSIN and FCOS: the exact result rounded once under RNE (05 Table 5.7). Each function is
enclosed between two fixed-point integers; where both ends round to one word, that word is the correctly rounded
result. Where they do not, `Config.elementary` stands for it (log 6). -/

namespace Sys2Proof.Machine.Transcend

/-- Fraction bits of the fixed-point values. -/
def P : Nat := 768
/-- Bound on the accumulated truncation error, in units of 2^−P. -/
def slack : Nat := 2 ^ 32

/-- Σ 1 ÷ ((2k + 1) n^(2k + 1)) with alternating signs if `alt`: atan(1/n) or atanh(1/n), scaled by 2^q. -/
def recipSeries (alt : Bool) (n : Nat) : Nat → Nat → Nat → Int → Int
  | 0, _, _, acc => acc
  | steps + 1, k, p, acc =>
    let t : Int := (p / (2 * k + 1) : Nat)
    recipSeries alt n steps (k + 1) (p / (n * n)) (if alt && k % 2 == 1 then acc - t else acc + t)

/-- π ÷ 2 scaled by 2^q (Machin). -/
def halfPi (q : Nat) : Nat :=
  (8 * recipSeries true 5 280 0 (2 ^ q / 5) 0 - 2 * recipSeries true 239 90 0 (2 ^ q / 239) 0).toNat
/-- ln 2 scaled by 2^P. -/
def ln2 : Nat := (2 * recipSeries false 3 300 0 (2 ^ P / 3) 0).toNat

/-- Σ z^(2k + 1) ÷ (2k + 1) for a fixed-point z. -/
def atanhSeries (z2 : Nat) : Nat → Nat → Nat → Nat → Nat
  | 0, _, _, acc => acc
  | steps + 1, k, p, acc => atanhSeries z2 steps (k + 1) (p * z2 / 2 ^ P) (acc + p / (2 * k + 1))

/-- ln of m ÷ 2^l for m between 2^l and 2^(l + 1). -/
def lnOf (m l : Nat) : Nat :=
  let z := (m - 2 ^ l) * 2 ^ P / (m + 2 ^ l)
  2 * atanhSeries (z * z / 2 ^ P) 300 0 z 0

/-- Terms t^k ÷ k! with k rising by `step`, signs alternating if `alt`. -/
def powerSeries (alt : Bool) (step : Nat) (u : Nat) : Nat → Nat → Nat → Bool → Int → Int
  | 0, _, _, _, acc => acc
  | steps + 1, k, p, s, acc =>
    let d := if step = 1 then k + 1 else (k + 1) * (k + 2)
    powerSeries alt step u steps (k + step) (p * u / 2 ^ P / d) (alt && !s) (if s then acc - p else acc + p)

/-- e^t, sin r and cos r for fixed-point t, r below 2. -/
def expOf (t : Nat) : Nat := (powerSeries false 1 t 200 0 (2 ^ P) false 0).toNat
def sinOf (r : Nat) : Int := powerSeries true 2 (r * r / 2 ^ P) 110 1 r false 0
def cosOf (r : Nat) : Int := powerSeries true 2 (r * r / 2 ^ P) 110 0 (2 ^ P) false 0

/-- The word that both ends of v ± slack (scaled by 2^e) round to, if they agree. -/
def settle (v : Int) (e : Int) : Option Word :=
  let enc := fun x : Int => fp32.round .rne (decide (x < 0)) x.natAbs e
  if enc (v - slack) = enc (v + slack) then some (BitVec.ofNat 32 (enc v)) else none

def ex2 (x : Word) : Option Word :=
  match f32 x with
  | .nan => some f32NaN
  | .inf s => some (if s then 0 else f32Inf)
  | .fin s m e =>
    if m = 0 then some f32One
    else
      let v : Int := Num.scaled s m e (min e (-(P : Int)))   -- x × 2^P, exact
      let n := v / 2 ^ P
      let f := (v % 2 ^ P).toNat
      if n ≥ 128 then some f32Inf
      else if n < -160 then some 0
      else if f = 0 then some (toF32 .rne (.fin false 1 n))
      else settle (expOf (f * ln2 / 2 ^ P)) (n - P)

def lg2 (x : Word) : Option Word :=
  match f32 x with
  | .nan => some f32NaN
  | .inf s => some (if s then f32NaN else f32Inf)
  | .fin s m e =>
    if m = 0 then some 0xFF800000
    else if s then some f32NaN
    else
      let l := Nat.log2 m
      if m = 2 ^ l then some (toF32 .rne (.ofInt (e + l)))
      else settle ((e + l) * 2 ^ P + (lnOf m l * 2 ^ P / ln2 : Nat)) (-(P : Int))

/-- sin (`q0` 0) or cos (`q0` 1) of a finite non-zero argument, reduced exactly (05 R99). -/
def trig (q0 : Nat) (s : Bool) (m : Nat) (e : Int) : Option Word :=
  let q := P + 256
  let y := (Num.scaled false m e (min e (-(q : Int)))).toNat
  let hp := halfPi q
  let k := y / hp
  let r := (y - k * hp) / 2 ^ 256
  let quad := (k + q0) % 4
  let v := if quad % 2 = 0 then sinOf r else cosOf r
  let v := if quad ≥ 2 then -v else v
  settle (if s && q0 == 0 then -v else v) (-(P : Int))

def sin (x : Word) : Option Word :=
  match f32 x with
  | .nan | .inf _ => some f32NaN
  | .fin s m e => if m = 0 then some x else trig 0 s m e

def cos (x : Word) : Option Word :=
  match f32 x with
  | .nan | .inf _ => some f32NaN
  | .fin s m e => if m = 0 then some f32One else trig 1 s m e

end Sys2Proof.Machine.Transcend

namespace Sys2Proof.Machine

/-- The four functions on words. -/
def f32Ex2 (x : Word) : Word := (Transcend.ex2 x).getD (Config.elementary 0 x)
def f32Lg2 (x : Word) : Word := (Transcend.lg2 x).getD (Config.elementary 1 x)
def f32Sin (x : Word) : Word := (Transcend.sin x).getD (Config.elementary 2 x)
def f32Cos (x : Word) : Word := (Transcend.cos x).getD (Config.elementary 3 x)

end Sys2Proof.Machine
end

