-- ==== Sys2Proof/Machine/FloatAlu.lean ====
section
/-! DEFINITION. A-words of the float class (19 R372 to R375, 05 R99, R100). -/

namespace Sys2Proof.Machine
open State

/-- A float A-word of two sources: FP32, or FP64 on pairs when `d`. The operation takes decoded numbers. -/
def State.float2 (s : State) (d : Bool) (o : AOp) (mode : RMode) (f : Num → Num → Num) : State :=
  if d then
    s.aPutQ o fun l =>
      BitVec.ofNat 64 (fp64.encode mode
        (f (fp64.decode (s.srcQ .float o.srcA l).toNat) (fp64.decode (s.srcQ .float o.srcB l).toNat)))
  else
    s.aPut o fun l => toF32 mode (f (f32 (s.srcW .float o.srcA l)) (f32 (s.srcW .float o.srcB l)))

/-- A float A-word of one source whose result is given as bits of the format. -/
def State.float1 (s : State) (d : Bool) (o : AOp) (f : FFmt → Nat → Nat) : State :=
  if d then s.aPutQ o fun l => BitVec.ofNat 64 (f fp64 (s.srcQ .float o.srcA l).toNat)
  else s.aPut o fun l => BitVec.ofNat 32 (f fp32 (s.srcW .float o.srcA l).toNat)

/-- An FP32 function of one word. -/
def State.floatW (s : State) (o : AOp) (f : Word → Word) : State := s.aPut o fun l => f (s.srcW .float o.srcA l)

/-- The addend of FFMA.D: the destination pair. -/
def State.dstOldQ (s : State) (o : AOp) (l : Nat) : Quad :=
  (s.vcur (s.vname o.dst + 1) l).val ++ (s.vcur (s.vname o.dst) l).val

def execFadd (d : Bool) (o : AOp) (s : State) : Res :=
  s.issued (.fadd d o) fun s => s.float2 d o s.rm (Num.add s.rm)
def execFsub (d : Bool) (o : AOp) (s : State) : Res :=
  s.issued (.fsub d o) fun s => s.float2 d o s.rm fun a b => a.add s.rm b.neg
def execFmul (d : Bool) (o : AOp) (s : State) : Res :=
  s.issued (.fmul d o) fun s => s.float2 d o s.rm Num.mul
def execFfma (d : Bool) (o : AOp) (s : State) : Res :=
  s.issued (.ffma d o) fun s =>
    if d then
      s.aPutQ o fun l =>
        let p := (fp64.decode (s.srcQ .float o.srcA l).toNat).mul (fp64.decode (s.srcQ .float o.srcB l).toNat)
        BitVec.ofNat 64 (fp64.encode s.rm (p.add s.rm (fp64.decode (s.dstOldQ o l).toNat)))
    else
      s.aPut o fun l => f32Fma s.rm (s.srcW .float o.srcA l) (s.srcW .float o.srcB l) (s.dstOld o l)
def execFmin (d : Bool) (o : AOp) (s : State) : Res :=
  s.issued (.fmin d o) fun s => s.float2 d o .rne (Num.minmax true)
def execFmax (d : Bool) (o : AOp) (s : State) : Res :=
  s.issued (.fmax d o) fun s => s.float2 d o .rne (Num.minmax false)
/-- The sign bit cleared; a NaN gives the default NaN. -/
def execFabs (d : Bool) (o : AOp) (s : State) : Res :=
  s.issued (.fabs d o) fun s => s.float1 d o fun f b =>
    if (f.decode b).isNan then f.nanBits else b % 2 ^ (f.ebits + f.fbits)
def execFcls (d : Bool) (o : AOp) (s : State) : Res :=
  s.issued (.fcls d o) fun s => s.float1 d o fun f b => 2 ^ f.classBit b
def execFrcp (d : Bool) (o : AOp) (s : State) : Res :=
  s.issued (.frcp d o) fun s => s.float1 d o fun f b => f.div .rne (.fin false 1 0) (f.decode b)
def execFrsq (o : AOp) (s : State) : Res :=
  s.issued (.frsq o) fun s => s.float1 false o fun f b => f.rsqrt (f.decode b)
def execFsqrt (d : Bool) (o : AOp) (s : State) : Res :=
  s.issued (.fsqrt d o) fun s => s.float1 d o fun f b => f.sqrt s.rm (f.decode b)
def execFex2 (o : AOp) (s : State) : Res := s.issued (.fex2 o) fun s => s.floatW o f32Ex2
def execFlg2 (o : AOp) (s : State) : Res := s.issued (.flg2 o) fun s => s.floatW o f32Lg2
def execFsin (o : AOp) (s : State) : Res := s.issued (.fsin o) fun s => s.floatW o f32Sin
def execFcos (o : AOp) (s : State) : Res := s.issued (.fcos o) fun s => s.floatW o f32Cos
/-- R375: one register, whatever the sources. -/
def execFcmp (c : FCond) (d : Bool) (o : AOp) (s : State) : Res :=
  s.issued (.fcmp c d o) fun s =>
    s.aPut o fun l =>
      if d then
        boolWord (FCond.holds c (fp64.decode (s.srcQ .float o.srcA l).toNat) (fp64.decode (s.srcQ .float o.srcB l).toNat))
      else boolWord (FCond.holds c (f32 (s.srcW .float o.srcA l)) (f32 (s.srcW .float o.srcB l)))

end Sys2Proof.Machine
end

