-- ==== Sys2Proof/Machine/Convert.lean ====
section
/-! DEFINITION. CVT, packing, dot products, MOV and the lane A-words (18 R366, R368; 19 R394; 20 R414, R419, R433,
R447, R450; 12 R252). -/

namespace Sys2Proof.Machine
open State

/-- The class by which CVT takes a literal or an s-register (R324). -/
def cvtClass (f : Fmt) : SrcClass :=
  match f with
  | .fp32 | .fp64 => .float
  | _ => .int

/-- The source operand of CVT as bits. -/
def State.cvtSrc (s : State) (f : Fmt) (o : AOp) (l : Nat) : Nat :=
  if f.isPair then (s.srcQ (cvtClass f) o.srcA l).toNat else (s.srcW (cvtClass f) o.srcA l).toNat

/-- R366: a saturating enabled lane sets %satf. -/
def execCvt (d : Fmt) (o : AOp) (s : State) : Res :=
  s.issued (.cvt d o) fun s =>
    match Fmt.ofCode o.srcB with
    | none => s
    | some f =>
      let y := fun l => convert f d s.rm (s.cvtSrc f o l)
      let s' := if d.isPair then s.aPutQ o fun l => BitVec.ofNat 64 (y l).bits
                else s.aPut o fun l => BitVec.ofNat 32 (y l).bits
      s'.noteSat ((lanesOf s.active).any fun l => (y l).sat)

def execPackH (o : AOp) (s : State) : Res :=
  s.issued (.packH o) fun s => s.int2 o fun a b => b.extractLsb' 0 16 ++ a.extractLsb' 0 16
def execPackBl (o : AOp) (s : State) : Res :=
  s.issued (.packBl o) fun s => s.aPut o fun l =>
    (s.dstOld o l).extractLsb' 16 16 ++ (s.srcW .int o.srcB l).extractLsb' 0 8 ++ (s.srcW .int o.srcA l).extractLsb' 0 8
def execPackBh (o : AOp) (s : State) : Res :=
  s.issued (.packBh o) fun s => s.aPut o fun l =>
    (s.srcW .int o.srcB l).extractLsb' 0 8 ++ (s.srcW .int o.srcA l).extractLsb' 0 8 ++ (s.dstOld o l).extractLsb' 0 16

/-- The byte or half that UNPK's code selects (R325). -/
def unpkSel (k : Nat) (a : Word) : Word :=
  if k < 4 then (a.extractLsb' (8 * k) 8).zeroExtend 32
  else if k < 8 then (a.extractLsb' (8 * (k - 4)) 8).signExtend 32
  else if k < 10 then (a.extractLsb' (16 * (k - 8)) 16).zeroExtend 32
  else (a.extractLsb' (16 * (k - 10)) 16).signExtend 32
def execUnpk (o : AOp) (s : State) : Res := s.issued (.unpk o) fun s => s.int1 o (unpkSel o.srcB)

/-- Byte k of a word (R368). -/
def byteOf (a : Word) (k : Nat) : Byte := a.extractLsb' (8 * k) 8
def dotS (a b : Word) : Int := ((List.range 4).map fun k => (byteOf a k).toInt * (byteOf b k).toInt).sum
def dotU (a b : Word) : Int := ((List.range 4).map fun k => ((byteOf a k).toNat * (byteOf b k).toNat : Int)).sum
/-- The exact sum of d and four T8 products; the sign of an exact zero follows the mode (R368). -/
def dotT8 (mode : RMode) (d : Num) (a b : Word) : Num :=
  (List.range 4).foldl
    (fun acc k => acc.add mode ((t8.decode (byteOf a k).toNat).mul (t8.decode (byteOf b k).toNat))) d
def State.dot (s : State) (o : AOp) (f : Word → Word → Int) : State :=
  s.aPut o fun l => s.dstOld o l + BitVec.ofInt 32 (f (s.srcW .int o.srcA l) (s.srcW .int o.srcB l))
def execDp4 (o : AOp) (s : State) : Res := s.issued (.dp4 o) fun s => s.dot o dotS
def execDp4U (o : AOp) (s : State) : Res := s.issued (.dp4U o) fun s => s.dot o dotU
def execDp4T8 (o : AOp) (s : State) : Res :=
  s.issued (.dp4T8 o) fun s => s.aPut o fun l =>
    toF32 s.rm (dotT8 s.rm (f32 (s.dstOld o l)) (s.srcW .int o.srcA l) (s.srcW .int o.srcB l))

def execMov (o : AOp) (s : State) : Res := s.issued (.mov o) fun s => s.int1 o id

/-- ANOP writes nothing (R339). -/
def execAnop (p : Nat) (s : State) : Res := s.issued (.anop p) id

/-- The source lane of SHFL (20 Table 20.4). -/
def shflLane (k : ShflKind) (l b : Nat) : Nat :=
  match k with
  | .idx => b % 32
  | .up => if b ≤ l then l - b else l
  | .dn => if l + b ≤ 31 then l + b else l
  | .xor => Nat.xor l (b % 32)
def execShfl (k : ShflKind) (o : AOp) (s : State) : Res :=
  s.issued (.shfl k o) fun s =>
    s.aPut o fun l => s.srcW .int o.srcA (shflLane k l (s.srcW .int o.srcB l).toNat)

/-- One row of the rotation of R419, applied in the order written. -/
def qrotLane (v q : Nat → Word) (i : Nat) : Word :=
  let mul := f32Mul .rne
  let add := f32Add .rne
  let sub := f32Sub .rne
  let x := q 0
  let y := q 1
  let z := q 2
  let w := q 3
  let n := add (add (add (mul x x) (mul y y)) (mul z z)) (mul w w)
  let k := f32Div .rne 0x40000000 n
  let diag := fun a b => sub f32One (mul k (add (mul a a) (mul b b)))
  let row : Word × Word × Word :=
    match i with
    | 0 => (diag y z, mul k (sub (mul x y) (mul z w)), mul k (add (mul x z) (mul y w)))
    | 1 => (mul k (add (mul x y) (mul z w)), diag x z, mul k (sub (mul y z) (mul x w)))
    | _ => (mul k (sub (mul x z) (mul y w)), mul k (add (mul y z) (mul x w)), diag x y)
  f32Fma .rne row.2.2 (v 2) (f32Fma .rne row.2.1 (v 1) (mul row.1 (v 0)))
def execQrot (o : AOp) (s : State) : Res :=
  s.issued (.qrot o) fun s =>
    s.aPut o fun l =>
      let base := l / 4 * 4
      if l % 4 = 3 then s.srcW .float o.srcA l
      else qrotLane (fun i => s.srcW .float o.srcA (base + i)) (fun i => s.srcW .float o.srcB (base + i)) (l % 4)

/-- The key order of VSORT (R252). -/
def sortKey (k : SortKind) (w : Word) : Int :=
  match k with
  | .u => w.toNat
  | .s => w.toInt
  | .f => sortKeyF w
/-- Inserts a lane behind every lane whose key is no larger, so equal keys keep their order. -/
def insertLane (key : Nat → Int) (l : Nat) : List Nat → List Nat
  | [] => [l]
  | m :: r => if key l < key m then l :: m :: r else m :: insertLane key l r
def sortLanes (key : Nat → Int) (ls : List Nat) : List Nat := ls.foldl (fun acc l => insertLane key l acc) []
/-- VSORT: keys to vd and the latch, values to vd + 1 (R252, R323). -/
def execVsort (k : SortKind) (o : AOp) (s : State) : Res :=
  s.issued (.vsort k o) fun s =>
    let c := if k = .f then SrcClass.float else .int
    let enabled := lanesOf s.active
    let sorted := sortLanes (fun l => sortKey k (s.srcW c o.srcA l)) enabled
    let from_ := fun l => sorted.getD (enabled.findIdx (· == l)) l
    let d := s.vname o.dst
    let s1 := s.putW d o.mm o.nwb true fun l => s.srcW c o.srcA (from_ l)
    (s1.putW (d + 1) o.mm o.nwb false fun l => s.srcW c o.srcB (from_ l)).tick

end Sys2Proof.Machine
end

