-- ==== Sys2Proof/Decode.lean ====
section
/-! DEFINITION. Decoding the words of 17: the bundle (R315 to R327), the stream word (R328) and the traversal word
(R329), and the encoder from the same tables. A decoder first reads the fields (`candidateC` and its neighbours)
and accepts exactly when the instruction is well formed and encodes to the very word read, so that no reserved bit
or value falls through to a neighbour. -/

namespace Sys2Proof

/-- Bits [lo + n - 1 : lo] of a word held as a number. -/
def fld (w lo n : Nat) : Nat := w / 2 ^ lo % 2 ^ n

/-- Why a word is no instruction (R316, R319, R320 to R329). -/
inductive DecodeError where
  /-- An opcode marked reserved. -/
  | reservedOpcode
  /-- A bit that must be zero is one. -/
  | reservedBits
  /-- A field holds a reserved value. -/
  | reservedValue
  /-- LONE = 1 where the sub-format does not accept the extension. -/
  | loneNotAccepted
  /-- Source code 126 without SARG, or 127 without IMM (R63). -/
  | noCarrier
  /-- Fewer bytes than a word has. -/
  | short
  deriving DecidableEq, Repr

/-! ### Codes of small enumerations -/

/-- One bit of a Bool field. -/
def bit (b : Bool) : Nat := if b then 1 else 0

def SCond.code : SCond → Nat
  | .eq => 0 | .ne => 1 | .lt => 2 | .le => 3 | .ltu => 4 | .leu => 5
def SCond.ofCode : Nat → Option SCond
  | 0 => some .eq | 1 => some .ne | 2 => some .lt | 3 => some .le | 4 => some .ltu | 5 => some .leu
  | _ => none

def VoteMode.code : VoteMode → Nat
  | .any => 0 | .all => 1 | .ballot => 2
def VoteMode.ofCode : Nat → Option VoteMode
  | 0 => some .any | 1 => some .all | 2 => some .ballot
  | _ => none

def LdSize.code : LdSize → Nat
  | .b => 0 | .bs => 1 | .h => 2 | .hs => 3 | .w => 4 | .q => 5 | .o => 6
def LdSize.ofCode : Nat → Option LdSize
  | 0 => some .b | 1 => some .bs | 2 => some .h | 3 => some .hs | 4 => some .w | 5 => some .q | 6 => some .o
  | _ => none

/-- Scratchpad group number of a size (R321). -/
def StSize.code : StSize → Nat
  | .b => 0 | .h => 1 | .w => 2 | .q => 3 | .o => 4
def StSize.ofCode : Nat → Option StSize
  | 0 => some .b | 1 => some .h | 2 => some .w | 3 => some .q | 4 => some .o
  | _ => none
/-- Opcode of ST.x less 0x50 (17 Table 17.5). -/
def StSize.stCode : StSize → Nat
  | .b => 0 | .h => 2 | .w => 4 | .q => 5 | .o => 6
def StSize.ofStCode : Nat → Option StSize
  | 0 => some .b | 2 => some .h | 4 => some .w | 5 => some .q | 6 => some .o
  | _ => none

/-- Operation index a (17 Table 17.7). -/
def AtomOp.code : AtomOp → Nat
  | .add => 0 | .and => 1 | .or => 2 | .xor => 3 | .min => 4 | .max => 5 | .umin => 6 | .umax => 7 | .xchg => 8
  | .cas => 9 | .fadd => 10 | .fmin => 11 | .fmax => 12
def AtomOp.ofCode : Nat → Option AtomOp
  | 0 => some .add | 1 => some .and | 2 => some .or | 3 => some .xor | 4 => some .min | 5 => some .max
  | 6 => some .umin | 7 => some .umax | 8 => some .xchg | 9 => some .cas | 10 => some .fadd | 11 => some .fmin
  | 12 => some .fmax
  | _ => none

def ICond.code : ICond → Nat
  | .eq => 0 | .ne => 1 | .lt => 2 | .le => 3 | .gt => 4 | .ge => 5 | .ltu => 6 | .leu => 7 | .gtu => 8 | .geu => 9
def FCond.code : FCond → Nat
  | .eq => 0 | .ne => 1 | .lt => 2 | .le => 3 | .gt => 4 | .ge => 5 | .un => 6 | .or => 7
def FCond.ofCode : Nat → FCond
  | 0 => .eq | 1 => .ne | 2 => .lt | 3 => .le | 4 => .gt | 5 => .ge | 6 => .un | _ => .or
def ShflKind.code : ShflKind → Nat
  | .idx => 0 | .up => 1 | .dn => 2 | .xor => 3
def SortKind.code : SortKind → Nat
  | .u => 0 | .s => 1 | .f => 2

def TCond.code : TCond → Nat
  | .al => 0 | .z => 1 | .nz => 2 | .cle => 3 | .ste => 4 | .rmt => 5 | .cnd => 6 | .leaf => 7
def TCond.ofCode : Nat → Option TCond
  | 0 => some .al | 1 => some .z | 2 => some .nz | 3 => some .cle | 4 => some .ste | 5 => some .rmt
  | 6 => some .cnd | 7 => some .leaf
  | _ => none
def TCmp.code : TCmp → Nat
  | .eq => 0 | .ne => 1 | .lt => 2 | .ge => 3 | .ltu => 4 | .geu => 5 | .flt => 6 | .fge => 7
def TCmp.ofCode : Nat → TCmp
  | 0 => .eq | 1 => .ne | 2 => .lt | 3 => .ge | 4 => .ltu | 5 => .geu | 6 => .flt | _ => .fge

/-! ### C-words: fields of each sub-format (17 Table 17.3) -/

def vmOf (c : Nat) (ext : Option Word) : VmOp :=
  { ord := fld c 21 2, scope := fld c 18 3, data := fld c 11 7, sel := fld c 6 5, off := fld c 0 6, ext }
def VmOp.bits (o : VmOp) : Nat :=
  o.ord * 2 ^ 21 + o.scope * 2 ^ 18 + o.data * 2 ^ 11 + o.sel * 2 ^ 6 + o.off
def smOf (c : Nat) (ext : Option Word) : SmOp :=
  { ord := fld c 21 2, scope := fld c 18 3, sd := fld c 13 5, sel := fld c 8 5, so := fld c 3 5, ext }
def SmOp.bits (o : SmOp) (sz : Nat) : Nat :=
  o.ord * 2 ^ 21 + o.scope * 2 ^ 18 + o.sd * 2 ^ 13 + o.sel * 2 ^ 8 + o.so * 2 ^ 3 + sz
/-- ORD of a scratchpad C-word is bits [24:23], the low bits of its opcode. -/
def spOf (c : Nat) (ext : Option Word) : SpOp :=
  { ord := fld c 23 2, peer := fld c 22 1 == 1, rank := fld c 20 2, data := fld c 13 7, sel := fld c 8 5,
    off := fld c 3 5, scope := fld c 0 3, ext }
def SpOp.bits (o : SpOp) : Nat :=
  bit o.peer * 2 ^ 22 + o.rank * 2 ^ 20 + o.data * 2 ^ 13 + o.sel * 2 ^ 8 + o.off * 2 ^ 3 + o.scope
def daOf (c : Nat) (ext : Option Word) : DaOp := { sel := fld c 13 5, off := fld c 6 7, ext }
def DaOp.bits (o : DaOp) (q : Nat) : Nat := q * 2 ^ 18 + o.sel * 2 ^ 13 + o.off * 2 ^ 6
def acOf (c : Nat) (ext : Option Word) : AcOp :=
  { sel := fld c 18 5, sn := fld c 13 5, sd := fld c 8 5, wt := fld c 7 1 == 1, ext }
def AcOp.bits (o : AcOp) : Nat := o.sel * 2 ^ 18 + o.sn * 2 ^ 13 + o.sd * 2 ^ 8 + bit o.wt * 2 ^ 7
def capOf (c : Nat) : CapOp :=
  { dk := fld c 22 1 == 1, d := fld c 17 5, sk := fld c 16 1 == 1, src := fld c 11 5, v := fld c 4 7 }
def CapOp.bits (o : CapOp) (f : Nat) : Nat :=
  bit o.dk * 2 ^ 22 + o.d * 2 ^ 17 + bit o.sk * 2 ^ 16 + o.src * 2 ^ 11 + o.v * 2 ^ 4 + f * 2
def sarg12Of (c : Nat) (ext : Option Word) : SArg12 :=
  match ext with
  | some x => .ext x
  | none => if fld c 12 1 = 1 then .imm (BitVec.ofNat 12 (fld c 0 12)) else .reg (fld c 7 5)
def SArg12.bits : SArg12 → Nat
  | .reg s => s * 2 ^ 7
  | .imm v => 2 ^ 12 + v.toNat
  | .ext _ => 2 ^ 12
def SArg12.lone : SArg12 → Option Word
  | .ext x => some x
  | _ => none
def sarg9Of (c : Nat) (ext : Option Word) : SArg9 :=
  match ext with
  | some x => .ext x
  | none => if fld c 12 1 = 1 then .imm (BitVec.ofNat 9 (fld c 3 9)) else .reg (fld c 7 5)
def SArg9.bits : SArg9 → Nat
  | .reg s => s * 2 ^ 7
  | .imm v => 2 ^ 12 + v.toNat * 2 ^ 3
  | .ext _ => 2 ^ 12
def SArg9.lone : SArg9 → Option Word
  | .ext x => some x
  | _ => none
/-- The value of S.WSR. DESIGN CHOICE (log 85): with I = 0 IMM9 may hold anything, and is ignored. -/
def wsrOf (c : Nat) (ext : Option Word) : WsrArg :=
  match ext with
  | some x => .ext x
  | none =>
    if fld c 17 1 = 1 then .imm (BitVec.ofNat 9 (fld c 8 9))
    else .reg (fld c 18 5) (BitVec.ofNat 9 (fld c 8 9))
def WsrArg.bits : WsrArg → Nat
  | .reg s v => s * 2 ^ 18 + v.toNat * 2 ^ 8
  | .imm v => 2 ^ 17 + v.toNat * 2 ^ 8
  | .ext _ => 2 ^ 17
def WsrArg.lone : WsrArg → Option Word
  | .ext x => some x
  | _ => none

/-- What an encoder gives for a C-word: opcode, operand bits [22:0] and the extension of LONE = 1. -/
structure CEnc where
  opc : Nat
  bits : Nat
  ext : Option Word := none
  deriving DecidableEq, Repr

/-- The C-word of an encoding (17 Table 17.1). -/
def CEnc.word (e : CEnc) : Nat := bit e.ext.isSome * 2 ^ 31 + e.opc * 2 ^ 23 + e.bits

/-- The encoding of a C-word (17 Tables 17.3, 17.5, 17.6); `none` for any other instruction. -/
def encodeC (i : Instr) : Option CEnc :=
  match i with
  | .nop => some { opc := 0x00, bits := 0 }
  | .imm v => some { opc := 0x01, bits := v.toNat }
  | .sarg s => some { opc := 0x02, bits := s * 2 ^ 18 }
  | .bra cond s off ext => some { opc := 0x03, bits := cond * 2 ^ 21 + s * 2 ^ 16 + off.toNat, ext }
  | .brc inv m off ext => some { opc := 0x04, bits := bit inv * 2 ^ 22 + m * 2 ^ 20 + off.toNat, ext }
  | .brx v => some { opc := 0x05, bits := v * 2 ^ 16 }
  | .call v off ext => some { opc := 0x06, bits := v * 2 ^ 16 + off.toNat, ext }
  | .ret v => some { opc := 0x07, bits := v * 2 ^ 16 }
  | .jset j => some { opc := 0x08, bits := j * 2 ^ 20 }
  | .join j => some { opc := 0x09, bits := j * 2 ^ 20 }
  | .exit => some { opc := 0x0A, bits := 0 }
  | .rep cnt len stride floor =>
    some { opc := 0x0B, bits := cnt * 2 ^ 15 + len * 2 ^ 12 + stride * 2 ^ 7 + floor }
  | .trap code => some { opc := 0x0C, bits := code.toNat }
  | .bkpt => some { opc := 0x0D, bits := 0 }
  | .eret => some { opc := 0x0E, bits := 0 }
  | .fence scope => some { opc := 0x0F, bits := scope }
  | .sMov sd sa => some { opc := 0x10, bits := sd * 2 ^ 18 + sa * 2 ^ 13 }
  | .sLi sd hi v ext => some { opc := 0x11, bits := sd * 2 ^ 18 + bit hi * 2 ^ 17 + v.toNat, ext }
  | .sAdd sd sa b => some { opc := 0x12, bits := sd * 2 ^ 18 + sa * 2 ^ 13 + b.bits, ext := b.lone }
  | .sSub sd sa b => some { opc := 0x13, bits := sd * 2 ^ 18 + sa * 2 ^ 13 + b.bits, ext := b.lone }
  | .sMul sd sa b => some { opc := 0x14, bits := sd * 2 ^ 18 + sa * 2 ^ 13 + b.bits, ext := b.lone }
  | .sAnd sd sa b => some { opc := 0x15, bits := sd * 2 ^ 18 + sa * 2 ^ 13 + b.bits, ext := b.lone }
  | .sOr sd sa b => some { opc := 0x16, bits := sd * 2 ^ 18 + sa * 2 ^ 13 + b.bits, ext := b.lone }
  | .sXor sd sa b => some { opc := 0x17, bits := sd * 2 ^ 18 + sa * 2 ^ 13 + b.bits, ext := b.lone }
  | .sShl sd sa b => some { opc := 0x18, bits := sd * 2 ^ 18 + sa * 2 ^ 13 + b.bits, ext := b.lone }
  | .sShr sd sa b => some { opc := 0x19, bits := sd * 2 ^ 18 + sa * 2 ^ 13 + b.bits, ext := b.lone }
  | .sSra sd sa b => some { opc := 0x1A, bits := sd * 2 ^ 18 + sa * 2 ^ 13 + b.bits, ext := b.lone }
  | .sCmp sd sa b cc => some { opc := 0x1B, bits := sd * 2 ^ 18 + sa * 2 ^ 13 + b.bits + cc.code, ext := b.lone }
  | .sRsr s num => some { opc := 0x1C, bits := s * 2 ^ 18 + num }
  | .sWsr num b => some { opc := 0x1D, bits := b.bits + num, ext := b.lone }
  | .vbc v s => some { opc := 0x1E, bits := v * 2 ^ 16 + s * 2 ^ 11 }
  | .sxv s v lane => some { opc := 0x1F, bits := v * 2 ^ 16 + s * 2 ^ 11 + lane * 2 ^ 6 }
  | .vote mode s v => some { opc := 0x20, bits := v * 2 ^ 16 + s * 2 ^ 11 + mode.code * 2 ^ 4 }
  | .barInit bar cnt sv ext => some { opc := 0x21, bits := bar * 2 ^ 17 + cnt * 2 ^ 5 + sv, ext }
  | .barArv bar => some { opc := 0x22, bits := bar * 2 ^ 17 + 31 }
  | .barWait bar p => some { opc := 0x23, bits := bar * 2 ^ 17 + bit p * 2 ^ 10 + 31 }
  | .barArw bar => some { opc := 0x24, bits := bar * 2 ^ 17 + 31 }
  | .barTx bar sv ext => some { opc := 0x25, bits := bar * 2 ^ 17 + sv, ext }
  | .barRem bar k => some { opc := 0x26, bits := bar * 2 ^ 17 + k * 2 ^ 10 + 31 }
  | .acInit o => some { opc := 0x27, bits := o.bits, ext := o.ext }
  | .acTake o => some { opc := 0x28, bits := o.bits, ext := o.ext }
  | .acGive o => some { opc := 0x29, bits := o.bits, ext := o.ext }
  | .acRead o => some { opc := 0x2A, bits := o.bits, ext := o.ext }
  | .acDrop o => some { opc := 0x2B, bits := o.bits, ext := o.ext }
  | .cpy db => some { opc := 0x2C, bits := db * 2 ^ 21 + 124 * 2 ^ 14 }
  | .cpyG db off => some { opc := 0x2D, bits := db * 2 ^ 21 + off * 2 ^ 14 }
  | .cpyS db off => some { opc := 0x2E, bits := db * 2 ^ 21 + off * 2 ^ 14 }
  | .sclCpy db => some { opc := 0x2F, bits := db * 2 ^ 21 + 124 * 2 ^ 14 }
  | .capBnd o => some { opc := 0x30, bits := o.bits 0 }
  | .capPrm o => some { opc := 0x31, bits := o.bits 0 }
  | .capOfs o => some { opc := 0x32, bits := o.bits 0 }
  | .capGet o f => some { opc := 0x33, bits := o.bits f }
  | .capTst o => some { opc := 0x34, bits := o.bits 0 }
  | .oclaim slot cnt => some { opc := 0x35, bits := slot * 2 ^ 18 + cnt * 2 ^ 13 }
  | .orel slot cnt => some { opc := 0x36, bits := slot * 2 ^ 18 + cnt * 2 ^ 13 }
  | .accLd v sd q lone =>
    some { opc := 0x37, bits := v * 2 ^ 16 + sd * 2 ^ 11 + (if lone then 0 else q),
           ext := if lone then some (BitVec.ofNat 32 q) else none }
  | .accSt v sd q lone =>
    some { opc := 0x38, bits := v * 2 ^ 16 + sd * 2 ^ 11 + (if lone then 0 else q),
           ext := if lone then some (BitVec.ofNat 32 q) else none }
  | .qlaunch o => some { opc := 0x39, bits := o.bits 0, ext := o.ext }
  | .qtake v cq => some { opc := 0x3A, bits := v * 2 ^ 16 + cq * 2 ^ 14 }
  | .selk o => some { opc := 0x3B, bits := o.bits 0, ext := o.ext }
  | .splat o => some { opc := 0x3C, bits := o.bits 0, ext := o.ext }
  | .inbox => some { opc := 0x3D, bits := 0 }
  | .commit => some { opc := 0x3E, bits := 0 }
  | .jobpost q o => some { opc := 0x3F, bits := o.bits q, ext := o.ext }
  | .ld sz o => some { opc := 0x40 + sz.code, bits := o.bits, ext := o.ext }
  | .ldInv sz o => some { opc := 0x48 + sz.code, bits := o.bits, ext := o.ext }
  | .st sz o => some { opc := 0x50 + sz.stCode, bits := o.bits, ext := o.ext }
  | .ldc o => some { opc := 0x58, bits := o.bits, ext := o.ext }
  | .stc o => some { opc := 0x59, bits := o.bits, ext := o.ext }
  | .mwatch o => some { opc := 0x5A, bits := o.bits, ext := o.ext }
  | .mwait o => some { opc := 0x5B, bits := o.bits, ext := o.ext }
  | .sLd sz o => some { opc := 0x5C, bits := o.bits sz, ext := o.ext }
  | .ldcSpair o => some { opc := 0x5C, bits := o.bits 4, ext := o.ext }
  | .cacheCln o => some { opc := 0x5D, bits := o.bits 0, ext := o.ext }
  | .cacheInv o => some { opc := 0x5E, bits := o.bits 0, ext := o.ext }
  | .tlbInv sa sb => some { opc := 0x5F, bits := sa * 2 ^ 18 + sb * 2 ^ 13 }
  | .atom op z o => some { opc := 0x60 + 2 * op.code + bit z, bits := o.bits, ext := o.ext }
  | .red op z o => some { opc := 0x80 + 2 * op.code + bit z, bits := o.bits, ext := o.ext }
  | .lds sz o => some { opc := 0xA0 + 4 * sz.code + o.ord, bits := o.bits, ext := o.ext }
  | .sts sz o => some { opc := 0xA0 + 4 * (5 + sz.code) + o.ord, bits := o.bits, ext := o.ext }
  | .atoms op o => some { opc := 0xA0 + 4 * (10 + op.code) + o.ord, bits := o.bits, ext := o.ext }
  | _ => none

/-- Rows 0x00 to 0x18 of Table 17.5. -/
def candidateControl (opc c : Nat) (ext : Option Word) : Option Instr :=
  match opc with
  | 0x00 => some .nop
  | 0x01 => some (.imm (BitVec.ofNat 23 (fld c 0 23)))
  | 0x02 => some (.sarg (fld c 18 5))
  | 0x03 => some (.bra (fld c 21 2) (fld c 16 5) (BitVec.ofNat 16 (fld c 0 16)) ext)
  | 0x04 => some (.brc (fld c 22 1 == 1) (fld c 20 2) (BitVec.ofNat 16 (fld c 0 16)) ext)
  | 0x05 => some (.brx (fld c 16 7))
  | 0x06 => some (.call (fld c 16 7) (BitVec.ofNat 16 (fld c 0 16)) ext)
  | 0x07 => some (.ret (fld c 16 7))
  | 0x08 => some (.jset (fld c 20 3))
  | 0x09 => some (.join (fld c 20 3))
  | 0x0A => some .exit
  | 0x0B => some (.rep (fld c 15 8) (fld c 12 3) (fld c 7 5) (fld c 0 7))
  | 0x0C => some (.trap (BitVec.ofNat 16 (fld c 0 16)))
  | 0x0D => some .bkpt
  | 0x0E => some .eret
  | 0x0F => some (.fence (fld c 0 3))
  | _ => none

/-- Rows 0x10 and 0x18 of Table 17.5. -/
def candidateScalar (opc c : Nat) (ext : Option Word) : Option Instr :=
  let sd := fld c 18 5
  let sa := fld c 13 5
  match opc with
  | 0x10 => some (.sMov sd sa)
  | 0x11 => some (.sLi sd (fld c 17 1 == 1) (BitVec.ofNat 17 (fld c 0 17)) ext)
  | 0x12 => some (.sAdd sd sa (sarg12Of c ext))
  | 0x13 => some (.sSub sd sa (sarg12Of c ext))
  | 0x14 => some (.sMul sd sa (sarg12Of c ext))
  | 0x15 => some (.sAnd sd sa (sarg12Of c ext))
  | 0x16 => some (.sOr sd sa (sarg12Of c ext))
  | 0x17 => some (.sXor sd sa (sarg12Of c ext))
  | 0x18 => some (.sShl sd sa (sarg12Of c ext))
  | 0x19 => some (.sShr sd sa (sarg12Of c ext))
  | 0x1A => some (.sSra sd sa (sarg12Of c ext))
  | 0x1B => (SCond.ofCode (fld c 0 3)).map (.sCmp sd sa (sarg9Of c ext))
  | 0x1C => some (.sRsr sd (fld c 0 8))
  | 0x1D => some (.sWsr (fld c 0 8) (wsrOf c ext))
  | 0x1E => some (.vbc (fld c 16 7) (fld c 11 5))
  | 0x1F => some (.sxv (fld c 11 5) (fld c 16 7) (fld c 6 5))
  | _ => none

/-- Rows 0x20 and 0x28 of Table 17.5. -/
def candidateSync (opc c : Nat) (ext : Option Word) : Option Instr :=
  let bar := fld c 17 6
  match opc with
  | 0x20 => (VoteMode.ofCode (fld c 4 2)).map fun m => .vote m (fld c 11 5) (fld c 16 7)
  | 0x21 => some (.barInit bar (fld c 5 12) (fld c 0 5) ext)
  | 0x22 => some (.barArv bar)
  | 0x23 => some (.barWait bar (fld c 10 1 == 1))
  | 0x24 => some (.barArw bar)
  | 0x25 => some (.barTx bar (fld c 0 5) ext)
  | 0x26 => some (.barRem bar (fld c 10 2))
  | 0x27 => some (.acInit (acOf c ext))
  | 0x28 => some (.acTake (acOf c ext))
  | 0x29 => some (.acGive (acOf c ext))
  | 0x2A => some (.acRead (acOf c ext))
  | 0x2B => some (.acDrop (acOf c ext))
  | 0x2C => some (.cpy (fld c 21 2))
  | 0x2D => some (.cpyG (fld c 21 2) (fld c 14 7))
  | 0x2E => some (.cpyS (fld c 21 2) (fld c 14 7))
  | 0x2F => some (.sclCpy (fld c 21 2))
  | _ => none

/-- EXT[11:0] of ACC.LD and ACC.ST; with bits above 11 set the segment exceeds every legal one. -/
def accSeg (c : Nat) (ext : Option Word) : Nat :=
  match ext with
  | some x => x.toNat
  | none => fld c 0 11

/-- Rows 0x30 and 0x38 of Table 17.5. -/
def candidateEngine (opc c : Nat) (ext : Option Word) : Option Instr :=
  match opc with
  | 0x30 => some (.capBnd (capOf c))
  | 0x31 => some (.capPrm (capOf c))
  | 0x32 => some (.capOfs (capOf c))
  | 0x33 => some (.capGet (capOf c) (fld c 1 3))
  | 0x34 => some (.capTst (capOf c))
  | 0x35 => some (.oclaim (fld c 18 5) (fld c 13 5))
  | 0x36 => some (.orel (fld c 18 5) (fld c 13 5))
  | 0x37 => some (.accLd (fld c 16 7) (fld c 11 5) (accSeg c ext) ext.isSome)
  | 0x38 => some (.accSt (fld c 16 7) (fld c 11 5) (accSeg c ext) ext.isSome)
  | 0x39 => some (.qlaunch (daOf c ext))
  | 0x3A => some (.qtake (fld c 16 7) (fld c 14 2))
  | 0x3B => some (.selk (daOf c ext))
  | 0x3C => some (.splat (daOf c ext))
  | 0x3D => some .inbox
  | 0x3E => some .commit
  | 0x3F => some (.jobpost (fld c 18 5) (daOf c ext))
  | _ => none

/-- Row 0x58 of Table 17.5. -/
def candidateMem (opc c : Nat) (ext : Option Word) : Option Instr :=
  match opc with
  | 0x58 => some (.ldc (vmOf c ext))
  | 0x59 => some (.stc (vmOf c ext))
  | 0x5A => some (.mwatch (vmOf c ext))
  | 0x5B => some (.mwait (vmOf c ext))
  | 0x5C => if fld c 0 3 = 4 then some (.ldcSpair (smOf c ext)) else some (.sLd (fld c 0 3) (smOf c ext))
  | 0x5D => some (.cacheCln (daOf c ext))
  | 0x5E => some (.cacheInv (daOf c ext))
  | 0x5F => some (.tlbInv (fld c 18 5) (fld c 13 5))
  | _ => none

/-- Scratchpad groups 0 to 22 (R321). -/
def candidateScratch (g c : Nat) (ext : Option Word) : Option Instr :=
  if g < 5 then (StSize.ofCode g).map (.lds · (spOf c ext))
  else if g < 10 then (StSize.ofCode (g - 5)).map (.sts · (spOf c ext))
  else (AtomOp.ofCode (g - 10)).map (.atoms · (spOf c ext))

/-- The instruction that a C-word's opcode and fields name (17 Tables 17.5 and 17.6). -/
def candidateC (c : Nat) (ext : Option Word) : Option Instr :=
  let opc := fld c 23 8
  if opc < 0x10 then candidateControl opc c ext
  else if opc < 0x20 then candidateScalar opc c ext
  else if opc < 0x30 then candidateSync opc c ext
  else if opc < 0x40 then candidateEngine opc c ext
  else if opc < 0x48 then (LdSize.ofCode (opc - 0x40)).map (.ld · (vmOf c ext))
  else if opc < 0x50 then (LdSize.ofCode (opc - 0x48)).map (.ldInv · (vmOf c ext))
  else if opc < 0x58 then (StSize.ofStCode (opc - 0x50)).map (.st · (vmOf c ext))
  else if opc < 0x60 then candidateMem opc c ext
  else if opc < 0x80 then (AtomOp.ofCode ((opc - 0x60) / 2)).map (.atom · (opc % 2 == 1) (vmOf c ext))
  else if opc < 0xA0 then (AtomOp.ofCode ((opc - 0x80) / 2)).map (.red · (opc % 2 == 1) (vmOf c ext))
  else candidateScratch ((opc - 0xA0) / 4) c ext

/-- The C-word `c` with second word `x` (R315, R316, R319). -/
def decodeC (c x : Nat) : Except DecodeError Instr :=
  let ext : Option Word := if fld c 31 1 = 1 then some (BitVec.ofNat 32 x) else none
  match candidateC c ext with
  | none => .error .reservedOpcode
  | some i =>
    match encodeC i with
    | none => .error .reservedOpcode
    | some e =>
      if e.ext != ext then .error .loneNotAccepted
      else if !i.wf then .error .reservedValue
      else if e.word != c then .error .reservedBits
      else .ok i

/-! ### A-words (R322 to R327) -/

/-- Opcode and operands of an A-word; `none` for any other instruction. -/
def encodeAOp (i : Instr) : Option (Nat × AOp) :=
  match i with
  | .iadd l o => some (if l then 0x22 else 0x01, o)
  | .isub l o => some (if l then 0x23 else 0x02, o)
  | .imul l o => some (if l then 0x24 else 0x03, o)
  | .imulh u o => some (if u then 0x05 else 0x04, o)
  | .imad o => some (0x06, o)
  | .iabs o => some (0x07, o)
  | .iand o => some (0x08, o)
  | .ior o => some (0x09, o)
  | .ixor o => some (0x0A, o)
  | .ishl l o => some (if l then 0x25 else 0x0B, o)
  | .ishr l o => some (if l then 0x26 else 0x0C, o)
  | .isra l o => some (if l then 0x27 else 0x0D, o)
  | .popc o => some (0x0E, o)
  | .clz o => some (0x0F, o)
  | .brev o => some (0x10, o)
  | .imin u o => some (if u then 0x13 else 0x11, o)
  | .imax u o => some (if u then 0x14 else 0x12, o)
  | .isel k o => some (0x14 + k, o)
  | .icmp cc o => some (0x18 + cc.code, o)
  | .fadd d o => some (if d then 0x40 else 0x28, o)
  | .fsub d o => some (if d then 0x41 else 0x29, o)
  | .fmul d o => some (if d then 0x42 else 0x2A, o)
  | .ffma d o => some (if d then 0x43 else 0x2B, o)
  | .fmin d o => some (if d then 0x44 else 0x2C, o)
  | .fmax d o => some (if d then 0x45 else 0x2D, o)
  | .fabs d o => some (if d then 0x46 else 0x2E, o)
  | .fcls d o => some (if d then 0x47 else 0x2F, o)
  | .frcp d o => some (if d then 0x48 else 0x30, o)
  | .frsq o => some (0x31, o)
  | .fsqrt d o => some (if d then 0x49 else 0x32, o)
  | .fex2 o => some (0x33, o)
  | .flg2 o => some (0x34, o)
  | .fsin o => some (0x35, o)
  | .fcos o => some (0x36, o)
  | .fcmp cc d o => some ((if d then 0x50 else 0x38) + cc.code, o)
  | .cvt f o => some (0x58 + f.code, o)
  | .packH o => some (0x63, o)
  | .packBl o => some (0x64, o)
  | .packBh o => some (0x65, o)
  | .unpk o => some (0x66, o)
  | .dp4 o => some (0x67, o)
  | .dp4U o => some (0x68, o)
  | .dp4T8 o => some (0x69, o)
  | .mov o => some (0x6A, o)
  | .shfl k o => some (0x6B + k.code, o)
  | .qrot o => some (0x6F, o)
  | .vsort k o => some (0x70 + k.code, o)
  | _ => none

/-- The bits of an A-word (17 Table 17.8). -/
def AOp.word (opc : Nat) (o : AOp) : Nat :=
  opc * 2 ^ 25 + o.dst * 2 ^ 18 + o.srcA * 2 ^ 11 + o.srcB * 2 ^ 4 + o.pred * 2 ^ 2 + bit o.mm * 2 + bit o.nwb

def encodeA (i : Instr) : Option Nat :=
  match i with
  | .anop pred => some (pred * 2 ^ 2)
  | i => (encodeAOp i).map fun p => p.2.word p.1

def aopOf (a : Nat) : AOp :=
  { dst := fld a 18 7, srcA := fld a 11 7, srcB := fld a 4 7, pred := fld a 2 2, mm := fld a 1 1 == 1,
    nwb := fld a 0 1 == 1 }

/-- Rows 0x00 to 0x18 of Table 17.9. -/
def candidateAInt (opc : Nat) (o : AOp) : Option Instr :=
  match opc with
  | 0x00 => some (.anop o.pred)
  | 0x01 => some (.iadd false o)
  | 0x02 => some (.isub false o)
  | 0x03 => some (.imul false o)
  | 0x04 => some (.imulh false o)
  | 0x05 => some (.imulh true o)
  | 0x06 => some (.imad o)
  | 0x07 => some (.iabs o)
  | 0x08 => some (.iand o)
  | 0x09 => some (.ior o)
  | 0x0A => some (.ixor o)
  | 0x0B => some (.ishl false o)
  | 0x0C => some (.ishr false o)
  | 0x0D => some (.isra false o)
  | 0x0E => some (.popc o)
  | 0x0F => some (.clz o)
  | 0x10 => some (.brev o)
  | 0x11 => some (.imin false o)
  | 0x12 => some (.imax false o)
  | 0x13 => some (.imin true o)
  | 0x14 => some (.imax true o)
  | 0x15 => some (.isel 1 o)
  | 0x16 => some (.isel 2 o)
  | 0x17 => some (.isel 3 o)
  | _ => none

/-- Rows 0x18 to 0x20 of Table 17.9. -/
def candidateAMid (opc : Nat) (o : AOp) : Option Instr :=
  match opc with
  | 0x18 => some (.icmp .eq o)
  | 0x19 => some (.icmp .ne o)
  | 0x1A => some (.icmp .lt o)
  | 0x1B => some (.icmp .le o)
  | 0x1C => some (.icmp .gt o)
  | 0x1D => some (.icmp .ge o)
  | 0x1E => some (.icmp .ltu o)
  | 0x1F => some (.icmp .leu o)
  | 0x20 => some (.icmp .gtu o)
  | 0x21 => some (.icmp .geu o)
  | 0x22 => some (.iadd true o)
  | 0x23 => some (.isub true o)
  | 0x24 => some (.imul true o)
  | 0x25 => some (.ishl true o)
  | 0x26 => some (.ishr true o)
  | 0x27 => some (.isra true o)
  | _ => none

/-- Rows 0x28, 0x30, 0x40 and 0x48 of Table 17.9. -/
def candidateAFloat (opc : Nat) (o : AOp) : Option Instr :=
  match opc with
  | 0x28 => some (.fadd false o)
  | 0x29 => some (.fsub false o)
  | 0x2A => some (.fmul false o)
  | 0x2B => some (.ffma false o)
  | 0x2C => some (.fmin false o)
  | 0x2D => some (.fmax false o)
  | 0x2E => some (.fabs false o)
  | 0x2F => some (.fcls false o)
  | 0x30 => some (.frcp false o)
  | 0x31 => some (.frsq o)
  | 0x32 => some (.fsqrt false o)
  | 0x33 => some (.fex2 o)
  | 0x34 => some (.flg2 o)
  | 0x35 => some (.fsin o)
  | 0x36 => some (.fcos o)
  | 0x40 => some (.fadd true o)
  | 0x41 => some (.fsub true o)
  | 0x42 => some (.fmul true o)
  | 0x43 => some (.ffma true o)
  | 0x44 => some (.fmin true o)
  | 0x45 => some (.fmax true o)
  | 0x46 => some (.fabs true o)
  | 0x47 => some (.fcls true o)
  | 0x48 => some (.frcp true o)
  | 0x49 => some (.fsqrt true o)
  | _ => none

/-- Rows 0x60 to 0x70 of Table 17.9 after the conversions. -/
def candidateALane (opc : Nat) (o : AOp) : Option Instr :=
  match opc with
  | 0x63 => some (.packH o)
  | 0x64 => some (.packBl o)
  | 0x65 => some (.packBh o)
  | 0x66 => some (.unpk o)
  | 0x67 => some (.dp4 o)
  | 0x68 => some (.dp4U o)
  | 0x69 => some (.dp4T8 o)
  | 0x6A => some (.mov o)
  | 0x6B => some (.shfl .idx o)
  | 0x6C => some (.shfl .up o)
  | 0x6D => some (.shfl .dn o)
  | 0x6E => some (.shfl .xor o)
  | 0x6F => some (.qrot o)
  | 0x70 => some (.vsort .u o)
  | 0x71 => some (.vsort .s o)
  | 0x72 => some (.vsort .f o)
  | _ => none

/-- The instruction that an A-word's opcode names (17 Table 17.9). -/
def candidateA (a : Nat) : Option Instr :=
  let opc := fld a 25 7
  let o := aopOf a
  if opc < 0x18 then candidateAInt opc o
  else if opc < 0x28 then candidateAMid opc o
  else if 0x38 ≤ opc && opc < 0x40 then some (.fcmp (FCond.ofCode (opc - 0x38)) false o)
  else if 0x50 ≤ opc && opc < 0x58 then some (.fcmp (FCond.ofCode (opc - 0x50)) true o)
  else if 0x58 ≤ opc && opc < 0x63 then (Fmt.ofCode (opc - 0x58)).map (.cvt · o)
  else if opc < 0x58 then candidateAFloat opc o
  else candidateALane opc o

def decodeA (a : Nat) : Except DecodeError Instr :=
  match candidateA a with
  | none => .error .reservedOpcode
  | some i =>
    if !i.wf then .error .reservedValue
    else if encodeA i != some a then .error .reservedBits
    else .ok i

/-! ### Stream words (R328) -/

/-- Opcode and bits [57:0] of a stream word (17 Table 17.11). -/
def encodeMx (i : Instr) : Option Nat :=
  match i with
  | .mxNop => some 0
  | .mxZero t nr nc => some (1 * 2 ^ 58 + t * 2 ^ 51 + nr * 2 ^ 48 + nc * 2 ^ 44)
  | .mxMma o =>
    some (2 * 2 ^ 58 + o.t * 2 ^ 51 + o.pa * 2 ^ 46 + o.swa * 2 ^ 42 + o.pb * 2 ^ 37 + o.swb * 2 ^ 33 +
      o.s * 2 ^ 30 + bit o.sa * 2 ^ 29 + o.ca * 2 ^ 17 + bit o.sb * 2 ^ 16 + o.cb * 2 ^ 4)
  | .mxRec t pa swa pb swb s =>
    some (3 * 2 ^ 58 + t * 2 ^ 51 + pa * 2 ^ 46 + swa * 2 ^ 42 + pb * 2 ^ 37 + swb * 2 ^ 33 + s * 2 ^ 30)
  | .mxProg p => some (4 * 2 ^ 58 + p.toNat)
  | .mxScl t nr nc c => some (5 * 2 ^ 58 + t * 2 ^ 51 + nr * 2 ^ 48 + nc * 2 ^ 44 + c * 2 ^ 32)
  | .mxWait b => some (6 * 2 ^ 58 + b * 2 ^ 52)
  | .mxArv b => some (7 * 2 ^ 58 + b * 2 ^ 52)
  | .mxRel n m => some (8 * 2 ^ 58 + n * 2 ^ 53 + (m - 1) * 2 ^ 48)
  | .mxLoop x count step off =>
    some (9 * 2 ^ 58 + x * 2 ^ 56 + count * 2 ^ 40 + step * 2 ^ 35 + off.toNat * 2 ^ 14)
  | .mxEnd => some (10 * 2 ^ 58)
  | _ => none

def candidateMx (w : Nat) : Option Instr :=
  match fld w 58 6 with
  | 0 => some .mxNop
  | 1 => some (.mxZero (fld w 51 7) (fld w 48 3) (fld w 44 4))
  | 2 =>
    some (.mxMma { t := fld w 51 7, pa := fld w 46 5, swa := fld w 42 4, pb := fld w 37 5, swb := fld w 33 4,
                   s := fld w 30 3, sa := fld w 29 1 == 1, ca := fld w 17 12, sb := fld w 16 1 == 1,
                   cb := fld w 4 12 })
  | 3 => some (.mxRec (fld w 51 7) (fld w 46 5) (fld w 42 4) (fld w 37 5) (fld w 33 4) (fld w 30 3))
  | 4 => some (.mxProg (BitVec.ofNat 56 (fld w 0 56)))
  | 5 => some (.mxScl (fld w 51 7) (fld w 48 3) (fld w 44 4) (fld w 32 12))
  | 6 => some (.mxWait (fld w 52 6))
  | 7 => some (.mxArv (fld w 52 6))
  | 8 => some (.mxRel (fld w 53 5) (fld w 48 5 + 1))
  | 9 => some (.mxLoop (fld w 56 2) (fld w 40 16) (fld w 35 5) (BitVec.ofNat 21 (fld w 14 21)))
  | 10 => some .mxEnd
  | _ => none

def decodeMx (w : Nat) : Except DecodeError Instr :=
  match candidateMx w with
  | none => .error .reservedOpcode
  | some i =>
    if !i.wf then .error .reservedValue
    else if encodeMx i != some w then .error .reservedBits
    else .ok i

/-! ### Traversal words (R329) -/

/-- The TR layout (17 Table 17.12). -/
def trBits (opc td ta tb i imm : Nat) : Nat :=
  opc * 2 ^ 26 + td * 2 ^ 22 + ta * 2 ^ 18 + tb * 2 ^ 14 + i * 2 ^ 13 + imm

/-- The word of a traversal instruction (17 Tables 17.12 to 17.14). -/
def encodeT (i : Instr) : Option Nat :=
  match i with
  | .nfetch a => some (trBits 0x01 0 a 0 0 0)
  | .ndec a b => some (trBits 0x02 0 a b 0 0)
  | .boxt => some (trBits 0x03 0 0 0 0 0)
  | .trit a => some (trBits 0x04 0 a 0 0 0)
  | .tritImm a m => some (trBits 0x04 0 a 0 1 m.toNat)
  | .dist d a => some (trBits 0x05 d a 0 0 0)
  | .kcmp d a => some (trBits 0x06 d a 0 0 0)
  | .hit => some (trBits 0x07 0 0 0 0 0)
  | .push a => some (trBits 0x08 0 a 0 0 0)
  | .pushCl => some (trBits 0x08 0 0 0 1 0)
  | .pop d => some (trBits 0x09 d 0 0 0 0)
  | .spill => some (trBits 0x0A 0 0 0 0 0)
  | .fill => some (trBits 0x0B 0 0 0 0 0)
  | .emit a b => some (trBits 0x0C 0 a b 0 0)
  | .handoff => some (trBits 0x0D 0 0 0 0 0)
  | .brT c a off => some (0x0E * 2 ^ 26 + c.code * 2 ^ 22 + a * 2 ^ 18 + off.toNat)
  | .tMov d a => some (trBits 0x0F d a 0 0 0)
  | .tMovImm d m => some (trBits 0x0F d 0 0 1 m.toNat)
  | .tAdd d a b => some (trBits 0x10 d a b 0 0)
  | .tAddImm d a m => some (trBits 0x10 d a 0 1 m.toNat)
  | .tLd d a b => some (trBits 0x11 d a b 0 0)
  | .tLdImm d a m => some (trBits 0x11 d a 0 1 m.toNat)
  | .tEnd => some (trBits 0x12 0 0 0 0 0)
  | .tCmp c d a b => some (trBits (0x18 + c.code) d a b 0 0)
  | .tCmpImm c d a m => some (trBits (0x18 + c.code) d a 0 1 m.toNat)
  | _ => none

/-- The instruction that a traversal word's opcode names (17 Table 17.13). -/
def candidateT (w : Nat) : Option Instr :=
  let opc := fld w 26 6
  let d := fld w 22 4
  let a := fld w 18 4
  let b := fld w 14 4
  let isImm := fld w 13 1 == 1
  let m := BitVec.ofNat 13 (fld w 0 13)
  match opc with
  | 0x01 => some (.nfetch a)
  | 0x02 => some (.ndec a b)
  | 0x03 => some .boxt
  | 0x04 => some (if isImm then .tritImm a m else .trit a)
  | 0x05 => some (.dist d a)
  | 0x06 => some (.kcmp d a)
  | 0x07 => some .hit
  | 0x08 => some (if isImm then .pushCl else .push a)
  | 0x09 => some (.pop d)
  | 0x0A => some .spill
  | 0x0B => some .fill
  | 0x0C => some (.emit a b)
  | 0x0D => some .handoff
  | 0x0E => (TCond.ofCode d).map fun c => .brT c a (BitVec.ofNat 18 (fld w 0 18))
  | 0x0F => some (if isImm then .tMovImm d m else .tMov d a)
  | 0x10 => some (if isImm then .tAddImm d a m else .tAdd d a b)
  | 0x11 => some (if isImm then .tLdImm d a m else .tLd d a b)
  | 0x12 => some .tEnd
  | _ =>
    if 0x18 ≤ opc && opc < 0x20 then
      some (if isImm then .tCmpImm (TCmp.ofCode (opc - 0x18)) d a m else .tCmp (TCmp.ofCode (opc - 0x18)) d a b)
    else none

def decodeT (w : Nat) : Except DecodeError Instr :=
  match candidateT w with
  | none => .error .reservedOpcode
  | some i =>
    if !i.wf then .error .reservedValue
    else if encodeT i != some w then .error .reservedBits
    else .ok i

/-! ### Bundles and bytes -/

/-- A decoded bundle: `a` is none when LONE = 1 (R315). -/
structure Bundle where
  c : Instr
  a : Option Instr
  deriving DecidableEq, Repr

/-- The carrier that an A-word's source codes 126 and 127 read (R63, R64). -/
def carrierOk (c : Instr) (a : Instr) : Bool :=
  let need (n : Nat) : Bool :=
    match a.aShape with
    | none => false
    | some (sh, o) =>
      o.srcA == n || (o.srcB == n && sh.usesB && match a with | .cvt .. => false | .unpk .. => false | _ => true)
  (!need 126 || match c with | .sarg _ => true | _ => false) &&
    (!need 127 || match c with | .imm _ => true | _ => false)

/-- The two words of a bundle; `c` is bits [31:0] (17 Table 17.1). -/
def decodeBundle (c x : Nat) : Except DecodeError Bundle :=
  match decodeC c x with
  | .error e => .error e
  | .ok ci =>
    if fld c 31 1 = 1 then .ok { c := ci, a := none }
    else
      match decodeA x with
      | .error e => .error e
      | .ok ai => if carrierOk ci ai then .ok { c := ci, a := some ai } else .error .noCarrier

/-- The number that little-endian bytes hold (00 R5). -/
def leNat : List Byte → Nat
  | [] => 0
  | b :: r => b.toNat + 256 * leNat r

/-- The low `n` bytes of a number, little-endian (00 R5). -/
def leBytes : Nat → Nat → List Byte
  | 0, _ => []
  | n + 1, v => BitVec.ofNat 8 v :: leBytes n (v / 256)

/-- A bundle in its eight bytes; bytes after them are left. -/
def decodeBundleBytes (l : List Byte) : Except DecodeError Bundle :=
  if l.length < 8 then .error .short
  else decodeBundle (leNat (l.take 4)) (leNat ((l.drop 4).take 4))
/-- A stream word in its eight bytes. -/
def decodeMxBytes (l : List Byte) : Except DecodeError Instr :=
  if l.length < 8 then .error .short else decodeMx (leNat (l.take 8))
/-- A traversal word in its four bytes. -/
def decodeTBytes (l : List Byte) : Except DecodeError Instr :=
  if l.length < 4 then .error .short else decodeT (leNat (l.take 4))

/-- The second word beside a C-word: its extension, or ANOP (all zero). -/
def CEnc.second (e : CEnc) : Nat := (e.ext.map BitVec.toNat).getD 0

/-- The bytes of an instruction word: a C-word with its extension or ANOP, an A-word beside NOP, a stream word, a
traversal word; empty for an event. -/
def encode (i : Instr) : List Byte :=
  match encodeC i with
  | some e => leBytes 4 e.word ++ leBytes 4 e.second
  | none =>
    match encodeA i with
    | some a => leBytes 4 0 ++ leBytes 4 a
    | none =>
      match encodeMx i with
      | some w => leBytes 8 w
      | none =>
        match encodeT i with
        | some w => leBytes 4 w
        | none => []

/-- No word has this encoding: the row is an event. -/
def Instr.isEvent (i : Instr) : Bool := (encode i).isEmpty

/-- The instruction of a lone bundle: its A-word where the C-word is NOP and the A-word is no ANOP without a
predicate, else its C-word. -/
def Bundle.main (b : Bundle) : Instr :=
  match b.c, b.a with
  | .nop, some (.anop 0) => .nop
  | .nop, some a => a
  | c, _ => c

/-- The host's reading of one row of spec/opcode_table.json: up to 32 bits a traversal word, else a bundle. -/
def decodeTableWord (nbits w : Nat) : Option Instr :=
  if nbits ≤ 32 then
    match decodeT (w % 2 ^ 32) with
    | .ok i => some i
    | .error _ => none
  else
    match decodeBundle (w % 2 ^ 32) (w / 2 ^ 32 % 2 ^ 32) with
    | .ok b => some b.main
    | .error _ => none

end Sys2Proof
end

