-- ==== Sys2Proof/Machine/Monitors.lean ====
section
/-! DEFINITION. Monitors: MWATCH, MWAIT and the re-read of host and peer words (08 R171, 19 R395, R396). -/

namespace Sys2Proof.Machine
open State

namespace State

def Monitor.armed (m : Monitor) : Bool := m.overflow || !m.vlines.isEmpty

/-- The cores that share the watch table's lines: those of a fused cluster watch one another's L1s (R171). -/
def watchers (s : State) (core : Nat) (gid : Nat) : Bool :=
  let c := (s.blk (bidOf gid)).core
  c == core || ((Tbl.get none s.fused (core / 4)).isSome && c / 4 == core / 4)
/-- Watch-table entries of a core in use: one for each line of each monitor. -/
def watchCount (s : State) (core : Nat) : Nat :=
  (s.grps.filter fun p => (s.blk (p.1 / 32)).core == core).foldl
    (fun n p => p.2.slots.foldl (fun n q => n + q.2.monitor.lines.length) n) 0
/-- Some monitor still watches the line in the L1 of `core`. -/
def watched (s : State) (core line : Nat) : Bool :=
  s.grps.any fun p => s.watchers core p.1 && p.2.slots.any fun q => q.2.monitor.lines.contains line

/-- Disarms the issuing split's monitor, releasing its watch-table entries. -/
def disarm (s : State) : State :=
  let old := s.sl.monitor.lines
  let s1 := s.updSl fun sl => { sl with monitor := {} }
  old.foldl (fun s line =>
    let c := s.l1Core s.core line
    if s.watched c line then s else s.setL1 c line { s.l1 c line with watch := false }) s1

/-- A lane of MWATCH has loaded its word (R395). -/
def watchLane (s : State) (va tgt pa : Nat) (w : Word) : State :=
  s.updSl fun sl => { sl with watching := sl.watching ++ [(va, tgt, pa, w)] }

/-- The L1 holds a shared copy of the line with its watch bit set (R171). DESIGN CHOICE (log 91): a counter line, which no
L1 holds, is watched without one. -/
def watchLine (s : State) (line : Nat) : State :=
  if (s.dir line).ctr || s.lineHeld line then s
  else
    let s1 := s.shareLine s.core line
    let c := s1.l1Core s1.core line
    s1.setL1 c line { s1.l1 c line with watch := true }

/-- MWATCH arms the monitor on the lines that its lanes have loaded from (R395). DEDUCED (log 92): the event is there
already where a word has changed since its lane loaded it, or where a transaction is taking its line. -/
def armMonitor (s : State) : State :=
  let ws := s.sl.watching
  let vlines := (ws.map (·.1 / 128)).dedup
  let dev := ws.filter fun w => w.2.1 == 0
  let lines := (dev.map fun w => lineOf w.2.2.1).dedup
  let s1 := s.disarm
  if 4 < vlines.length || 128 < s1.watchCount s.core + lines.length then
    s1.updSl fun sl => { sl with monitor := { overflow := true } }
  else
    let ev := dev.any fun w => BitVec.ofNat 32 (leNum (s.peekBytes w.2.2.1 4)) != w.2.2.2 ||
      s.lineHeld (lineOf w.2.2.1)
    let remote := (ws.filter fun w => w.2.1 != 0).map (·.2)
    lines.foldl watchLine (s1.updSl fun sl => { sl with monitor := { vlines, lines, remote, ev } })

/-- The 4-byte load of MWATCH and MWAIT. -/
def monLoad (d : Nat) (arm : Bool) : MemOp := {
  acc := .read, awaits := true, check := fun _ _ _ => none, size := 4, reads := true,
  perform := fun s p tgt pa =>
    let r := s.loadAt tgt pa 4
    let ws := wordsOf r.2
    let s1 := r.1.putWords d p.lane ws
    if arm then s1.watchLane p.va tgt pa (ws.headD 0) else s1 }

/-- The 128-byte line that an Active lane of a VM word names is one of the monitor's. -/
def names (s : State) (o : VmOp) (vlines : List Nat) (l : Nat) : Bool :=
  vlines.any fun v => (v : Int) == (((s.selCap o.sel l).base : Int) + s.effOff o.sel 63 o.off o.ext l) / 128

end State

/-- R395. -/
def execMwatch (o : VmOp) (s : State) : Res :=
  s.issuedC (.mwatch o) fun s =>
    let d := s.vname o.data
    let s1 := if s.issue.replay then s else s.updSl fun sl => { sl with watching := [] }
    s1.vmRun o (monLoad d true) (fun _ => pLOAD) none (fun _ => []) fun s => (s.agnosticLanes d 1).armMonitor

/-- R396: the wait comes first, whatever the checks of the load will find; then the load, an acquire at SYSTEM scope (07
R149), and the monitor is disarmed. Where the load traps, only a wake has disarmed it. -/
def execMwait (o : VmOp) (s : State) : Res :=
  s.issuedC (.mwait o) fun s =>
    let d := s.vname o.data
    let m := s.sl.monitor
    let covers := Monitor.armed m && !m.overflow && (lanesOf s.active).all (s.names o m.vlines)
    if !s.issue.replay && covers && !m.ev then
      (s.updSl fun sl => { sl with wait := .long, waitFor := .mwait }).setOut .stay
    else
      let s1 := if s.sl.again.isSome && covers then s.disarm else s
      let t := s1.vmRun o (monLoad d false) (fun _ => pLOAD) none (fun _ => [])
        fun s => (s.agnosticLanes d 1).observe s.gid 4
      if t.issue.out = .trapped || t.sl.held then t else t.disarm

/-- A re-read for R171 event 2: the word, or none where it meets an uncorrectable error (R291, 16 R310). -/
def State.reread (s : State) (p : Nat × Nat × Word) : Option Word :=
  if s.tgtBad p.1 p.2.1 4 then none else some (BitVec.ofNat 32 (leNum (s.tgtBytes p.1 p.2.1 4)))
/-- R171 event 2: a watched host or peer word that differs wakes the split; one that meets an error is logged (R291). -/
def execMonitorReread (gid slot : Nat) (s : State) : Res :=
  .next (
    let ws := (s.slotAt gid slot).monitor.remote
    let s1 := ws.foldl (fun s p => if (s.reread p).isNone then s.logError p.2.1 else s) s
    if ws.any fun p => (s.reread p).any (· != p.2.2) then
      s1.updSlot gid slot fun sl =>
        { sl with monitor := { sl.monitor with ev := true },
                  wait := if sl.waitFor = .mwait then .ready else sl.wait,
                  waitFor := if sl.waitFor = .mwait then .none else sl.waitFor }
    else s1)

end Sys2Proof.Machine
end

