-- ==== Sys2Proof/Machine/Issue.lean ====
section
/-! DEFINITION. How a partition issues a bundle: the choice of 13 R272, the fetch, the two words of the bundle (03, 18
R335, 15 R285), and what the split does next (04 R68 to R74). `ex` is the meaning of one word. -/

namespace Sys2Proof.Machine
open State

/-- Goes on with the next state of a meaning. -/
def Res.andThen (r : Res) (f : State → Res) : Res :=
  match r with
  | .next s => f s
  | o => o

/-- The vector registers that a C-word writes. -/
def cDests (i : Instr) : List VUse :=
  match i with
  | .vbc v _ | .accLd v _ _ _ => [{ v }]
  | .capBnd o | .capPrm o | .capOfs o => if o.dk then [] else [{ v := 4 * o.d, n := 4, stag := false }]
  | .capGet o _ | .capTst o => if o.dk then [] else [{ v := o.v }]
  | .qtake v _ => [{ v, n := 8 }]
  | .ld sz o | .ldInv sz o => [dataUse o.data sz.bytes]
  | .ldc o => [{ v := o.data, n := 4, stag := false }]
  | .mwatch o | .mwait o => [{ v := o.data }]
  | .atom op z o => [atomUse op z o.data]
  | .lds sz o => [dataUse o.data sz.bytes]
  | .atoms op o => [atomUse op false o.data]
  | _ => []

namespace State

/-! ### Choice (R28, R48, R70, R272) -/

/-- The partition of a group (R28). -/
def partOf (s : State) (gid : Nat) : Nat := ((s.blk (bidOf gid)).p0 + gid % 32) % 4
/-- A split that may issue now: running, not waiting, not held, and its park resolved. -/
def ready (sl : Slot) : Bool :=
  sl.occ && sl.wait == .ready && sl.waitFor == .none && !sl.held && (match sl.parked with
    | some p => p.resolved
    | none => true)
/-- A block whose splits may issue. -/
def issues (b : Block) : Bool := resident b && !b.stopped
/-- Its frame is being written or read: nothing of it issues (R196 step 5, R202). -/
def frozen (b : Block) : Bool := b.saved || b.restoring
/-- After the stop of R196 a split still finishes its chain, and a memory instruction that has issued. -/
def finishes (s : State) (gid k : Nat) (sl : Slot) : Bool :=
  sl.again.isSome || s.ports.any fun p => p.2.owner == some (gid, k) && p.2.pos != 0
/-- The ready candidates of a partition with their age stamps, by group and slot. -/
def candidates (s : State) (core part : Nat) : List (Nat × Nat × Nat) :=
  s.grps.flatMap fun p =>
    let b := s.blk (bidOf p.1)
    if b.core == core && resident b && !frozen b && s.partOf p.1 == part then
      (List.range 4).filterMap fun k =>
        let sl : Slot := Tbl.get {} p.2.slots k
        if ready sl && (!b.stopped || s.finishes p.1 k sl) then some (p.1, k, sl.age) else none
    else []

/-- The key of a port. -/
def portKey (core part port : Nat) : Nat := 8 * core + 2 * part + port

/-- The candidate of the least age; a tie goes to the lower group slot, then to the lower split slot (R48, R272). -/
def oldest (s : State) (cs : List (Nat × Nat × Nat)) : Option (Nat × Nat) :=
  let key := fun x : Nat × Nat × Nat => x.2.2 * 512 + (s.grp x.1).gslot % 128 * 4 + x.2.1
  (cs.find? fun x => cs.all fun y => key x ≤ key y).map fun x => (x.1, x.2.1)

/-- The split that a port issues, and whether a new turn starts (R272). A split whose chain another port holds is that
port's. -/
def pick (s : State) (core part port : Nat) (skip : List (Nat × Nat)) : Option ((Nat × Nat) × Bool) :=
  let me : Port := Tbl.get {} s.ports (portKey core part port)
  let other : Port := Tbl.get {} s.ports (portKey core part (1 - port))
  let cs := (s.candidates core part).filter fun x =>
    !skip.contains (x.1, x.2.1) && other.owner != some (x.1, x.2.1)
  let has := fun o : Nat × Nat => cs.any fun x => (x.1, x.2.1) == o
  match me.owner with
  | some o => if has o then some (o, false) else none
  | none =>
    match s.oldest (cs.filter fun x => (s.slotAt x.1 x.2.1).cont) with
    | some x => some (x, false)
    | none => (s.oldest cs).map fun x => (x, true)

/-! ### Fetch -/

/-- What a fetch gives. -/
inductive Fetched where
  | ok (bytes : List Byte)
  | fault (cause level : Nat)
  /-- An uncorrectable error. -/
  | bad
  /-- The line is held; the fetch comes about later. -/
  | later
  deriving DecidableEq, Repr

/-- Bytes at a target, once the line's accepted reductions are applied (R168). -/
def fetchAt (s : State) (tgt pa n : Nat) : Fetched × State :=
  if s.blocked tgt pa n then (.later, s)
  else
    let s1 := s.settleHome tgt pa n
    if s1.tgtBad tgt pa n then (.bad, s1.logError pa) else (.ok (s1.tgtBytes tgt pa n), s1)
/-- A line comes from the L2 to the instruction cache of a core, which holds 512 (R115); which line it gives up is not
specified. -/
def fillIcache (s : State) (core ctx line : Nat) : State :=
  let s1 := s.allocate line
  let mine := s1.icache.filter fun p => p.1 % 256 == core && p.1 != lineKey line core
  let t := match if mine.length < 512 then none else s1.choose 43 mine with
    | some p => Tbl.erase s1.icache p.1
    | none => s1.icache
  { s1.tick with icache := Tbl.set (0, []) t (lineKey line core) (ctx, s1.peekBytes (128 * line) 128) }
/-- A bundle of device memory through the instruction cache: a line in it may be as it was filled for the same context, until
a FENCE.DEVICE (R3, R115). -/
def fetchLine (s : State) (core ctx pa n : Nat) : Fetched × State :=
  let line := lineOf pa
  let held := Tbl.get (0, []) s.icache (lineKey line core)
  let old := if held.1 = ctx then held.2 else []
  let now := s.peekBytes (128 * line) 128
  if old != [] && old != now && s.freeBit 42 then (.ok ((old.drop (pa % 128)).take n), s.tick)
  else
    match s.fetchAt 0 pa n with
    | (.ok bs, s1) =>
      (.ok bs, if old == now || s1.bad (128 * line) 128 then (if old == now then s1 else s1.tick) else s1.fillIcache core ctx line)
    | r => r
/-- A stream word of device memory: where it has been written since position `lo` of the history, a value that it has held
since (R209). -/
def fetchSince (s : State) (lo pa n : Nat) : Fetched × State :=
  match s.fetchAt 0 pa n with
  | (.ok bs, s1) =>
    if (s1.hist.drop lo).any (fun o => o.pa < pa + n && pa < o.pa + o.bytes.length) then
      (.ok ((List.range n).map fun i => s1.byteAt (lo + s1.freeNat 20 % (s1.hist.length - lo + 1)) (pa + i)), s1.tick)
    else (.ok bs, s1)
  | r => r
/-- Bytes fetched with execute permission: by a core through its instruction cache, or, where `stream` gives the position
in the history at its card's dispatch, by a sequencer. -/
def fetch (s : State) (core ctx va n : Nat) (stream : Option Nat := none) : Fetched × State :=
  match s.translate (some core) ctx va .exec with
  | (.fault 0 _, s1) => (.later, s1)
  | (.fault c l, s1) => (.fault c l, s1)
  | (.ok tgt pa, s1) =>
    if tgt != 0 then s1.fetchAt tgt pa n
    else match stream with
      | some lo => s1.fetchSince lo pa n
      | none => s1.fetchLine core ctx pa n

/-- A bundle fetch that faults parks the split with every running lane unfinished (09 Table 9.3). -/
def parkFetch (s : State) (cause level : Nat) : State :=
  s.parkSplit (s.splitFault s.issue.addr cause level .exec s.sl.run 1) { fetch := true }

/-! ### The bundle -/

/-- The bundle that a split issues: its PC, or the place in the REP body (R423). -/
def bundlePc (s : State) (gid slot : Nat) : BitVec 54 :=
  let sl := s.slotAt gid slot
  if s.repOn gid slot then sl.repBody + BitVec.ofNat 54 sl.idx else sl.pc
/-- The issue of a split's bundle on a port begins: its chain holds the port (R70). -/
def startIssue (s : State) (port gid slot : Nat) (newTurn : Bool) : State :=
  let s1 := if newTurn then s.updSlot gid slot fun sl => { sl with age := s.clock } else s
  let s2 := s1.updBlk (bidOf gid) fun b => { b with lastIssue := s.clock, hangFrom := s.clock }
  let p : Port := Tbl.get {} s2.ports port
  let p' : Port := if p.owner = some (gid, slot) then p
    else { owner := some (gid, slot) }
  let pk := 4 * (s2.blk (bidOf gid)).core + s2.partOf gid
  let parts := if Tbl.has s2.parts pk then Tbl.upd {} s2.parts pk fun x => { x with idle := 0 } else s2.parts
  { s2 with ports := Tbl.set {} s2.ports port p', parts,
            issue := { gid, slot, addr := (s2.bundlePc gid slot).toNat * 8, port, upTo := s2.issue.upTo } }

/-- Lanes for which a predicate holds (R66). -/
def predLanes (s : State) (pred : Nat) : LaneMask :=
  if pred = 0 then s.sl.run else maskOf fun l => s.sl.run.getLsbD l && s.maskBit pred l

/-- The A-word's predicate and MM bit; a bundle without an A-word is unpredicated (R66, R315). -/
def aPred : Option Instr → Nat × Bool
  | some (.anop p) => (p, false)
  | some i => (i.aShape.map fun x => (x.2.pred, x.2.mm)).getD (0, false)
  | none => (0, false)

/-- The bundle's operands: Active, MM, carriers, and the registers as they stand at issue. -/
def loadBundle (s : State) (b : Bundle) : State :=
  let pm := aPred b.a
  { s with issue := { s.issue with
      active := s.predLanes pm.1, mm := pm.2, snap := some s.g.vregs,
      imm := (match b.c with
        | .imm v => some v
        | _ => none),
      sarg := (match b.c with
        | .sarg k => some k
        | _ => none) } }

/-- Both words of the bundle write some register. -/
def collides (s : State) (b : Bundle) : Bool :=
  match b.a with
  | none => false
  | some a =>
    match a.aShape with
    | none => false
    | some (sh, o) =>
      let d := s.vname o.dst
      let ds := if 120 ≤ o.dst || o.nwb then [] else if sh.pairDst then [d, d + 1] else [d]
      (cDests b.c).any fun u => (List.range u.n).any fun i => ds.contains (s.useName u + i)

/-- The C-word waits, its bundle having issued: MWAIT, AC.TAKE.W, INBOX, JOBPOST, a memory word (R466), a park. -/
def waits (s : State) : Bool :=
  let sl := s.sl
  s.issue.out == .stay && (match sl.waitFor with
    | .mwait | .take | .give | .inbox | .jobpost _ | .memory => true
    | _ => sl.parked.any fun p => !p.lanes.isEmpty)
/-- A trap or a hold of the C-word leaves the bundle without effect: what its A-word wrote is taken back (R285). -/
def undoA (s t : State) : State :=
  if Tbl.has t.grps s.gid then
    t.updGrp s.gid fun g => { g with vregs := (s.grp s.gid).vregs, satf := (s.grp s.gid).satf }
  else t

/-- The register lanes that the A-word of a bundle writes (R65), by cell key. -/
def aCells (s : State) (b : Bundle) : List Nat :=
  match b.a.bind Instr.aShape with
  | none => []
  | some (sh, o) =>
    let d := s.vname o.dst
    let ds := if 120 ≤ o.dst || o.nwb then [] else if sh.pairDst then [d, d + 1] else [d]
    let ls := lanes.filter fun l => s.active.getLsbD l || (o.mm && s.sl.run.getLsbD l)
    ds.flatMap fun r => ls.map (cellKey r)

/-- Remembers the C-word that waits, in state `s`; `t` is that state after the A-word, whose results are kept for the end
of the C-word (R285). -/
def remember (s t : State) (b : Bundle) : State :=
  let w : Again :=
    { word := b.c, active := s.issue.active, mm := s.issue.mm, snap := s.issue.snap.getD s.g.vregs,
      cells := (s.aCells b).map fun k => (k, Tbl.get {} (t.grp s.gid).vregs k), sat := (t.grp s.gid).satf }
  ({ s with free := t.free }).updSl fun sl => { sl with again := some w }

/-- The A-word of a bundle whose C-word has gone on after a wait or park takes effect. Where both write a register lane,
their order is unspecified. -/
def applyA (s : State) (w : Again) : State :=
  let mine := (cDests w.word).flatMap fun u => (List.range u.n).map (s.useName u + ·)
  let skip := s.freeBit 40
  let cells := w.cells.filter fun p => !(skip && mine.contains (p.1 / 32))
  s.tick.updGrp s.gid fun g =>
    { g with vregs := cells.foldl (fun t p => Tbl.set {} t p.1 p.2) g.vregs, satf := g.satf || w.sat }

end State

/-- The A-word of a bundle, if it has one. -/
def runA (ex : Instr → State → Res) (a : Option Instr) (s : State) : Res :=
  match a with
  | some i => ex i s
  | none => .next s

/-- Both words. A control C-word takes effect after the A-word (R335, R388); otherwise each reads its operands as at
issue, and where both write a register the order is unspecified. DESIGN CHOICE (log 11): the C-word acts first, so beside
S.WSR of %fmt the A-word rounds as the new %fmt says. -/
def runBundle (ex : Instr → State → Res) (b : Bundle) (s0 : State) : Res :=
  let s := s0.loadBundle b
  match firstCause ((b.c :: b.a.toList).flatMap s.issueCauses) with
  | some k => .next (s.takeIssueTrap k)
  | none =>
    let s1 : State := { s with issue := { s.issue with checked := true } }
    if b.c.isControl then
      Res.andThen (runA ex b.a s1) fun s2 => Res.andThen (ex b.c s2) fun t =>
        if t.issue.out = .trapped || t.issue.out = .stay then .next (s1.undoA t) else .next t
    else
      Res.andThen (ex b.c s1) fun s2 =>
        if s2.waits then Res.andThen (runA ex b.a s2) fun s3 => .next (s2.remember s3 b)
        else if s2.issue.out != .advance then .next s2
        else if s1.collides b && s1.freeBit 40 then Res.andThen (runA ex b.a s1) (ex b.c)
        else runA ex b.a s2

/-- A C-word that goes on after its wait or park. -/
def runAgain (ex : Instr → State → Res) (w : Again) (s : State) : Res :=
  let s1 : State := { s with issue := { s.issue with
    active := w.active, mm := w.mm, snap := some w.snap, checked := true, replay := s.sl.parked.isSome } }
  Res.andThen (ex w.word s1) fun s2 =>
    .next (
      if s2.issue.out = .stay then s2
      else
        let s3 := s2.updSl fun sl => { sl with again := none }
        if s2.issue.out = .advance then s3.applyA w else s3)

namespace State

/-! ### After the bundle -/

/-- The split goes on to the next bundle of its pass, or of the program (R71, R72): the flag says that a pass ended. -/
def nextBundle (s : State) : State × Bool :=
  let sl := s.sl
  if s.repOn s.gid s.issue.slot then
    if sl.idx + 1 < sl.repLen then (s.updSl fun sl => { sl with idx := sl.idx + 1, pc := s.nextPc }, false)
    else if sl.pass + 1 < sl.repCnt then
      (s.updSl fun sl => { sl with idx := 0, pass := sl.pass + 1, pc := sl.repBody }, true)
    else (s.updSl fun sl => { sl with act := false, pc := sl.repBody + BitVec.ofNat 54 sl.repLen }, true)
  else (s.updSl fun sl => { sl with pc := s.nextPc }, false)

/-- The port gives up the split's chain (R70); `cont` where the split goes on with its REP pass before others (R272). -/
def closeChain (s : State) (cont : Bool) : State :=
  let s1 := s.updSl fun sl => { sl with cont }
  let p : Port := Tbl.get {} s1.ports s1.issue.port
  if p.owner = some (s1.gid, s1.issue.slot) then { s1 with ports := Tbl.set {} s1.ports s1.issue.port {} } else s1

/-- The bundle stays and has not issued: its fetch met a held line, it waits behind the record (R57), for its reductions or
under R170, or it is held (R289). -/
def unissued (s : State) : Bool :=
  let sl := s.sl
  sl.occ && (sl.held || sl.again.isNone && sl.parked.all (·.rflog) && (sl.waitFor == .none || sl.waitFor == .record))
/-- What follows a bundle with C-word `c`. A bundle that has not issued leaves the port and its latches to the chain it
stands in (R70). -/
def finish (s : State) (c : Instr) : State :=
  match s.issue.out with
  | .trapped => s.closeChain false
  | .jumped => s.closeChain false
  | .stay => if s.unissued then s else s.closeChain (s.repOn s.gid s.issue.slot)
  | .advance =>
    let r := s.nextBundle
    let p : Port := Tbl.get {} r.1.ports r.1.issue.port
    if !c.chainSafe || r.2 || p.pos + 1 = 8 then r.1.closeChain (r.1.repOn r.1.gid r.1.issue.slot && !r.2)
    else { r.1 with ports := Tbl.set {} r.1.ports r.1.issue.port { p with pos := p.pos + 1 } }

/-- A bundle that has not issued leaves the port, AGE and the clocks of the last issue as in `s`. -/
def notIssued (s t : State) : State :=
  let old := s.slotAt t.gid t.issue.slot
  if t.issue.out == .stay && t.unissued then
    let k := s.blk t.bid
    let t1 : State := { t with ports := Tbl.set {} t.ports t.issue.port (Tbl.get {} s.ports t.issue.port) }
    (t1.updSl fun sl => { sl with age := old.age }).updBlk t.bid fun b => { b with lastIssue := k.lastIssue, hangFrom := k.hangFrom }
  else t
/-- A bundle that ends held has taken no effect (R289): of `t`, only the errors logged with their messages and the free
values taken stay. -/
def unlessHeld (s t : State) : State :=
  if t.sl.held && !s.sl.held && t.issue.out == .stay then
    let dev := { s.dev with errlog := t.dev.errlog, msi := t.dev.msi }
    let s1 : State := { s with dev, issue := t.issue, free := t.free }
    s1.updSl fun sl => { sl with held := true }
  else t

end State

/-- The bundle of a split issues on a port. -/
def issueBundle (ex : Instr → State → Res) (port gid slot : Nat) (newTurn : Bool) (joins : Nat) (s : State) : Res :=
  let s0 := (s.tick).startIssue port gid slot newTurn
  let s1 : State := { s0 with issue := { s0.issue with joins } }
  let ends := fun (v t : State) (c : Instr) => (s.notIssued (v.unlessHeld t)).finish c
  match s1.sl.again with
  | some w => Res.andThen (runAgain ex w s1) fun t => .next (ends s1 t w.word)
  | none =>
    match s1.fetch s1.core s1.ctxId s1.issue.addr 8 with
    | (.later, s2) => .next (ends s2 (s2.setOut .stay) .nop)
    | (.fault c l, s2) => .next (ends s2 (s2.parkFetch c l) .nop)
    | (.bad, s2) => .next (ends s2 (s2.takeTrap { code := 17, sub := 2 }) .nop)
    | (.ok bytes, s2) =>
      let s3 := s2.updSl fun sl => { sl with parked := none, unf := 0 }
      match decodeBundleBytes bytes with
      | .error _ => .next (ends s3 (s3.takeTrap { code := 1 }) .nop)
      | .ok b => Res.andThen (runBundle ex b s3) fun t => .next (ends s3 t b.c)

/-! ### Memory words that have issued (R466) -/

/-- The lanes of a memory word that have translated can go on while others wait for their fault; or the word waits for
something else than a fault. -/
def State.mayGoOn (s : State) (gid slot : Nat) : Bool :=
  let b := s.blk (bidOf gid)
  let sl := s.slotAt gid slot
  State.resident b && !State.frozen b && sl.occ && !sl.held && sl.parked.all (·.resolved) &&
    (sl.waitFor == .memory || sl.parked.any fun p => !p.pages.isEmpty)
/-- A memory word that has issued goes on, without a port; or a TLB.INV ends its wait once its conditions hold (R443). -/
def goOnTurn (ex : Instr → State → Res) (gid slot : Nat) (s : State) : Res :=
  let sl := s.slotAt gid slot
  match sl.waitFor with
  | .tlbInv ctx code base pages =>
    .next (if s.translatedLeft ctx code base pages then s
      else (s.updSlot gid slot fun sl => { sl with wait := .ready, waitFor := .none }).noteMoved ctx)
  | _ =>
    match if s.mayGoOn gid slot then sl.again else none with
    | none => .next s
    | some w =>
      let s0 : State := { s.tick with issue :=
        { gid, slot, addr := (s.bundlePc gid slot).toNat * 8, port := portKey (s.blk (bidOf gid)).core (s.partOf gid) 0,
          upTo := s.issue.upTo } }
      Res.andThen (runAgain ex w (s0.updSl fun sl => { sl with waitFor := .none })) fun t =>
        .next ((s0.unlessHeld t).finish w.word)

/-- A gated partition issues nothing (R297). -/
def State.gatedPart (s : State) (core part : Nat) : Bool := (Tbl.get ({} : Part) s.parts (4 * core + part)).gate != .on

/-- One port of a partition issues a bundle, if it has a split to issue. -/
def portTurn (ex : Instr → State → Res) (core part port : Nat) (skip : List (Nat × Nat)) (s : State) : Res :=
  if s.gatedPart core part then .next s
  else
    match s.pick core part port skip with
    | none => .next s
    | some ((gid, slot), newTurn) => issueBundle ex (portKey core part port) gid slot newTurn 0 s

/-! ### Both ports in one clock (R51) -/

namespace State

/-- The C-word that a split issues next, where it can be read now. -/
def nextC (s : State) (o : Nat × Nat) : Option Instr :=
  let b := s.blk (bidOf o.1)
  let sl := s.slotAt o.1 o.2
  match sl.again with
  | some w => some w.word
  | none => match (s.fetch b.core b.ctx ((s.bundlePc o.1 o.2).toNat * 8) 8).1 with
    | .ok bytes => match decodeBundleBytes bytes with
      | .ok x => some x.c
      | .error _ => none
    | _ => none
/-- The split's next bundle holds a memory C-word, of which a partition issues one per clock (R272). -/
def nextMem (s : State) (o : Nat × Nat) : Bool := (s.nextC o).any Instr.memWord

/-- What one port issues: its key, the split and whether a new turn starts. -/
abbrev Choice := Nat × (Nat × Nat) × Bool

/-- The join register that two splits of one group both join in this clock. -/
def sameJoin (s : State) (a b : Choice) : Option Nat :=
  if a.2.1.1 != b.2.1.1 then none
  else match s.nextC a.2.1, s.nextC b.2.1 with
    | some (.join j), some (.join i) => if i = j then some j else none
    | _, _ => none
/-- The second choice joins a register that the first arms. -/
def joinAfterSet (s : State) (a b : Choice) : Bool :=
  a.2.1.1 == b.2.1.1 && (match s.nextC a.2.1, s.nextC b.2.1 with
    | some (.jset j), some (.join i) => i == j
    | _, _ => false)
/-- The register that the device writes too which the split's next S.WSR writes (R85): 7 %satf, 8 %gstat, 10 %epc. -/
def nextWsr (s : State) (o : Nat × Nat) : Nat := match s.nextC o with
  | some (.sWsr n _) => if n = 7 || n = 8 || n = 10 then n else 0
  | _ => 0
/-- Of two bundles of one clock, one that writes a register by S.WSR comes before one through which the device may write
it, so that the device's value stands (R85, R96). -/
def wsrFirst (s : State) (a b : Choice) : Bool :=
  let (x, y) := (s.nextWsr a.2.1, s.nextWsr b.2.1)
  a.2.1.1 == b.2.1.1 && y != 0 && (x = 0 || y = 7 && x != 7)
/-- Both bundles of a group write by S.WSR: what the first one's trap or saturation left, in `t`, stands in `u` (R85). -/
def deviceWins (s : State) (a b : Choice) (t u : State) : State :=
  let (x, y) := (s.nextWsr a.2.1, s.nextWsr b.2.1)
  let g := a.2.1.1
  if g != b.2.1.1 || x = 0 || y = 0 || !Tbl.has u.grps g then u
  else u.updGrp g fun k =>
    { k with satf := k.satf || (x = 7 && y = 7 && (t.grp g).satf),
             epc := if t.issue.out = .trapped && y = 10 then (t.grp g).epc else k.epc }
/-- The split may still issue. -/
def stillReady (s : State) (o : Nat × Nat) : Bool := Tbl.has s.grps o.1 && ready (s.slotAt o.1 o.2)

end State

/-- One port's choice issues, if the other port's bundle has left it ready. -/
def issueChoice (ex : Instr → State → Res) (c : Choice) (joins : Nat) (s : State) : Res :=
  if s.stillReady c.2.1 then issueBundle ex c.1 c.2.1.1 c.2.1.2 c.2.2 joins s else .next s

/-- Two JOINs of one group on one register: the higher slot deposits, then the lower slot joins; where the lower slot's
bundle traps, the deposit alone is tested (R51). -/
def issueJoins (ex : Instr → State → Res) (j : Nat) (lo hi : Choice) (s : State) : Res :=
  let gid := lo.2.1.1
  let run := (s.slotAt gid hi.2.1.2).run
  let r := s.join gid j
  Res.andThen (issueChoice ex hi 1 s) fun t =>
    let dep := t.issue.out == .jumped && r.armed && run &&& r.expected != 0
    Res.andThen (issueChoice ex lo (if dep then 2 else 0) t) fun u =>
      if dep && u.issue.out != .jumped then .next (u.testJoin gid j hi.2.1.2 (run &&& ~~~r.expected)) else .next u

/-- Both ports of a partition issue in one clock; of two memory C-words, port 0's. -/
def portsTurn (ex : Instr → State → Res) (core part : Nat) (s : State) : Res :=
  if s.gatedPart core part then .next s
  else
    match s.pick core part 0 [] with
    | none => portTurn ex core part 1 [] s
    | some (o, n) =>
      match s.pick core part 1 [o] with
      | none => portTurn ex core part 0 [] s
      | some (o', n') =>
        let a : Choice := (portKey core part 0, o, n)
        let b : Choice := (portKey core part 1, o', n')
        if s.nextMem o && s.nextMem o' then issueChoice ex a 0 s
        else match s.sameJoin a b with
        | some j => if o.2 < o'.2 then issueJoins ex j a b s else issueJoins ex j b a s
        | none =>
          let (x, y) := if s.joinAfterSet a b || s.wsrFirst a b then (b, a) else (a, b)
          Res.andThen (issueChoice ex x 0 s) fun t =>
            Res.andThen (issueChoice ex y 0 t) fun u => .next (s.deviceWins x y t u)

end Sys2Proof.Machine
end

