-- ==== Sys2Proof/Machine/Matrix.lean ====
section
/-! DEFINITION. The matrix engine (10): OCLAIM, OREL, ACC.LD and ACC.ST of groups (18 R338, R339, 20 R412, R413), the
stream words MX.* (19 R397 to R407), and the sequencer's fetch (10 R209) and faults (R211). A stream word acts for the
sequencer of the block that `State.bid` names. -/

namespace Sys2Proof.Machine
open State

/-! ### Layout (R205, R216) -/

/-- Formats of a slot header: 0 BF16, 1 FP16, 2 T8, 3 T6, 4 INT8 (Table 10.3). -/
def opFmt (code : Nat) : Fmt :=
  match code with
  | 0 => .bf16
  | 1 => .fp16
  | 2 => .t8
  | 3 => .t6
  | _ => .int8
/-- Elements of a slot row (Table 10.1). -/
def opK (code : Nat) : Nat := if code ≤ 1 then 128 else 256

/-- Byte offset of element (i, k) in its slot (Table 10.2). -/
def swzOffset (swz es i k : Nat) : Nat :=
  let b := es * k
  match swz with
  | 0 => 256 * i + b
  | 1 => 32 * es * k + es * i
  | 2 => 256 * i + 16 * (b / 16 ^^^ i % 8) + b % 16
  | _ => 256 * i + 32 * (b / 32 ^^^ i % 8) + b % 32

def accKey (row col : Nat) : Nat := 384 * row + col
/-- Row and column of element (i, j) of sub-tile t. -/
def tileKey (t i j : Nat) : Nat := accKey (32 * (t / 12) + i) (32 * (t % 12) + j)

/-- A rectangle of sub-tiles (Table 10.7). -/
structure Rect where
  r0 : Nat
  c0 : Nat
  nr : Nat
  nc : Nat
  deriving DecidableEq, Repr
/-- The rule of R216; NR and NC are counts minus one. -/
def Rect.ok (r : Rect) : Bool := r.r0 + r.nr + 1 ≤ 8 && r.c0 + r.nc + 1 ≤ 12
/-- The rectangle of a stream word. -/
def Rect.ofTile (t nr nc : Nat) : Rect := { r0 := t / 12, c0 := t % 12, nr, nc }
/-- The rectangle of a tile descriptor. -/
def Rect.ofDesc (t : Nat) : Rect :=
  { r0 := bitsOf t 4 3, c0 := bitsOf t 0 4, nr := bitsOf t 11 3, nc := bitsOf t 7 4 }
/-- The elements of a rectangle with the row counted from its first. -/
def Rect.elems (r : Rect) : List (Nat × Nat) :=
  (List.range (32 * (r.nr + 1))).flatMap fun i =>
    (List.range (32 * (r.nc + 1))).map fun j => (i, accKey (32 * r.r0 + i) (32 * r.c0 + j))

namespace State

def mx (s : State) (bid : Nat) : Matrix := (s.blk bid).mx
def updMx (s : State) (bid : Nat) (f : Matrix → Matrix) : State := s.updBlk bid fun k => { k with mx := f k.mx }
def accAt (s : State) (bid key : Nat) : Word := Tbl.get 0 (s.mx bid).acc key
def hdr (s : State) (bid slot : Nat) : SlotHdr := Tbl.get {} (s.mx bid).hdrs slot
def setHdrs (s : State) (bid : Nat) (ks : List Nat) (f : SlotHdr → SlotHdr) : State :=
  s.updMx bid fun m => { m with hdrs := ks.foldl (fun t k => Tbl.upd {} t k f) m.hdrs }
def scaleAt (s : State) (bid k : Nat) : BitVec 20 := Tbl.get 0 (s.mx bid).scale k
/-- Writes accumulator elements, each computed from its old value. -/
def updAcc (s : State) (bid : Nat) (ks : List (Nat × Nat)) (f : Nat → Word → Word) : State :=
  s.updMx bid fun m => { m with acc := ks.foldl (fun t p => Tbl.upd 0 t p.2 (f p.1)) m.acc }

/-- Element (i, k) of an operand slot, decoded exactly. -/
def operand (s : State) (bid slot i k : Nat) : Num :=
  let h := s.hdr bid slot
  let es := opBytes h.fmt
  let a := 8192 * slot + swzOffset h.swz es i k
  decodeFmt (opFmt h.fmt) (leNum ((List.range es).map fun n => Tbl.get 0 (s.mx bid).opmem (a + n)))

end State

/-! ### Group words -/

/-- The slots of OCLAIM, OREL and MX.REL from `n` on, wrapping at 32. -/
def slotRun (n m : Nat) : List Nat := (List.range m).map fun i => (n + i) % 32

/-- R412: every slot must be in state `want`; then all change at once. -/
def State.claim (s : State) (slot cnt : Nat) (want : SlotState) (f : State → List Nat → State) : State :=
  let ks := slotRun slot (cnt + 1)
  match ks.find? fun k => (s.hdr s.bid k).st != want with
  | some k => s.takeTrap { code := 13, sub := 1, info := k }
  | none => f s ks
/-- The bytes of slots become zero. -/
def State.zeroSlots (s : State) (bid : Nat) (ks : List Nat) : State :=
  s.updMx bid fun m => { m with opmem := m.opmem.filter fun p => !(ks.contains (p.1 / 8192)) }

def execOclaim (slot cnt : Nat) (s : State) : Res :=
  s.issuedC (.oclaim slot cnt) fun s =>
    s.claim slot cnt .empty fun s ks => s.setHdrs s.bid ks fun h => { h with st := .claimed, stamp := false }
/-- A slot that no copy has named since its claim holds zero data in format and swizzle 0. -/
def execOrel (slot cnt : Nat) (s : State) : Res :=
  s.issuedC (.orel slot cnt) fun s =>
    s.claim slot cnt .claimed fun s ks =>
      (s.zeroSlots s.bid (ks.filter fun k => !(s.hdr s.bid k).stamp)).setHdrs s.bid ks fun h =>
        if h.stamp then { h with st := .filled } else { st := .filled }

/-- The segment of ACC.LD and ACC.ST: its first element, or the TILERANGE trap (R217, R338). -/
def State.accSeg (s : State) (sd q : Nat) : Except Cause Nat :=
  let t := (s.sreg sd).toNat % 2 ^ 32
  let r := Rect.ofDesc t
  if t / 2 ^ 14 != 0 || r.c0 > 11 || r.nc > 11 || !r.ok || 32 * (r.nr + 1) * (r.nc + 1) ≤ q then
    .error { code := 13, sub := 2, info := t }
  else .ok (accKey (32 * r.r0 + q / (r.nc + 1)) (32 * (r.c0 + q % (r.nc + 1))))

def execAccLd (v sd q : Nat) (lone : Bool) (s : State) : Res :=
  s.issuedC (.accLd v sd q lone) fun s =>
    match s.accSeg sd q with
    | .error k => s.takeTrap k
    | .ok a => s.cPut (s.vname v) fun l => s.accAt s.bid (a + l)
def execAccSt (v sd q : Nat) (lone : Bool) (s : State) : Res :=
  s.issuedC (.accSt v sd q lone) fun s =>
    match s.accSeg sd q with
    | .error k => s.takeTrap k
    | .ok a => s.updAcc s.bid ((lanesOf s.active).map fun l => (l, a + l)) fun l _ => (s.vcur (s.vname v) l).val

/-! ### The sequencer -/

/-- Codes of R211. -/
def fcIllegal : Nat := 1
def fcSwizzle : Nat := 2
def fcFormat : Nat := 3
def fcSlot : Nat := 4
def fcRange : Nat := 5
def fcProg : Nat := 6

namespace State

/-- A fault ends the work of the block or gang (R211): every block stops where it stands, its sequencer at the word that it
is executing, its copies deliver nothing further, and its card runs no further block. -/
def seqFault (s : State) (code : Nat) : State :=
  let bid := s.bid
  let gang := (s.blk bid).gangIds.filter fun b => Tbl.has s.blks b
  let off := ((((s.seq bid).pc : Int) - (s.blk bid).desc.stream) % 2 ^ 32).toNat
  let s1 := s.updSeq bid fun q => { q with st := .fault, fcode := code }
  let s2 := (s1.copies.filter fun p => p.2.bid.any gang.contains).foldl (fun s p => s.dropCopyOf p.1) s1
  let s3 := gang.foldl (fun s k => s.updBlk k fun b =>
    { b with poisoned := true, stopped := true, phase := if b.phase = .resident then .draining else b.phase,
             mx := { b.mx with seq := { b.mx.seq with step := 0 } } }) s2
  s3.updCard (s.blk bid).card fun c => { c with err := c.err.or (some (4, code, off)), noMore := true }

/-- The word is complete; the next one is at `pc`. -/
def seqAt (s : State) (pc : Nat) : State := s.updSeq s.bid fun q => { q with st := .run, pc := pc % 2 ^ 57, word := none }
def seqNext (s : State) : State := s.seqAt ((s.seq s.bid).pc + 8)
/-- The checks of R397 in order: the first code whose condition holds. -/
def seqCheck (s : State) (cs : List (Nat × Bool)) (f : State → State) : State :=
  match cs.find? fun c => c.2 with
  | some c => s.seqFault c.1
  | none => f s
/-- A slot field names slot (field + SBASE) mod 32 (R211). -/
def seqSlot (s : State) (n : Nat) : Nat := (n + (s.seq s.bid).sbase) % 32

/-- V of R101 and R102. -/
def mmaV (sa sb : Num) (ps : List (Num × Num)) : Num :=
  let sum := ps.foldl (fun a p => Num.add .rne a (Num.mul p.1 p.2)) (.fin false 0 0)
  let v := Num.mul (Num.mul sa sb) sum
  if v.isZero then .fin false 0 0 else v

/-- One K-step of MX.MMA on every element of sub-tile t (R101, R103, R214). -/
def mmaStep (s : State) (o : MmaOp) (p q k : Nat) : State :=
  let bid := s.bid
  let ks := List.range 32
  let a := fun i : Nat => ks.map fun n => s.operand bid p i (32 * k + n)
  let b := fun j : Nat => ks.map fun n => s.operand bid q j (32 * k + n)
  let as := ks.map a
  let bs := ks.map b
  let one : Num := .fin false 1 0
  let sc := fun (on : Bool) (c i : Nat) => if on then decodeS20 (s.scaleAt bid (c + 32 * k + i)).toNat else one
  let int8 := (s.hdr bid p).fmt == 4
  let elems := ks.flatMap fun i => ks.map fun j => (32 * i + j, tileKey o.t i j)
  s.updAcc bid elems fun e old =>
    let i := e / 32
    let j := e % 32
    let ps := (as.getD i []).zip (bs.getD j [])
    if int8 then
      let n := ps.foldl (fun (t : Int) x => match x with
        | (.fin sx m _, .fin sy n _) => if sx == sy then t + m * n else t - m * n
        | _ => t) 0
      old + BitVec.ofInt 32 n
    else toF32 .rne (Num.add .rne (f32 old) (mmaV (sc o.sa o.ca i) (sc o.sb o.cb j) ps))

/-- SLOT, SWIZZLE, FORMAT and RANGE of MX.MMA and MX.REC (R401, R404); `rec` refuses INT8. -/
def mmaChecks (s : State) (o : MmaOp) (recur : Bool) : List (Nat × Bool) :=
  let bid := s.bid
  let hp := s.hdr bid (s.seqSlot o.pa)
  let hq := s.hdr bid (s.seqSlot o.pb)
  let anyInt := hp.fmt == 4 || hq.fmt == 4
  let bothInt := hp.fmt == 4 && hq.fmt == 4
  [(fcSlot, hp.st != .filled || hq.st != .filled),
   (fcSwizzle, hp.swz != o.swa || hq.swz != o.swb),
   (fcFormat, if recur then anyInt else anyInt && (!bothInt || o.sa || o.sb)),
   (fcRange, 96 ≤ o.t || opK hp.fmt / 32 < o.s + 1 || opK hq.fmt / 32 < o.s + 1 ||
     (o.sa && 4096 < o.ca + 32 * (o.s + 1)) || (o.sb && 4096 < o.cb + 32 * (o.s + 1)))]

end State

def execMxNop (s : State) : Res := .next s.seqNext

/-- R407. -/
def execMxZero (t nr nc : Nat) (s : State) : Res :=
  let r := Rect.ofTile t nr nc
  .next (s.seqCheck [(fcRange, 96 ≤ t || !r.ok)] fun s => (s.updAcc s.bid r.elems fun _ _ => 0).seqNext)

/-- R401: one turn performs one K-step, so that other accesses to the elements may fall between steps (R220). -/
def execMxMma (o : MmaOp) (s : State) : Res :=
  .next (
    let k := (s.seq s.bid).step
    let go := fun s : State =>
      let s1 := s.mmaStep o (s.seqSlot o.pa) (s.seqSlot o.pb) k
      if k < o.s then s1.updSeq s1.bid fun q => { q with step := k + 1 }
      else (s1.updSeq s1.bid fun q => { q with step := 0 }).seqNext
    if k = 0 then s.seqCheck (s.mmaChecks o false) go else go s)

/-- One operation of the microprogram (Table 10.8). -/
structure MicroOp where
  op : Nat
  dst : Nat
  p : Nat
  q : Nat
  s : Nat
  deriving DecidableEq, Repr
/-- The operations of PROG up to the first NONE. -/
def microOps (prog : Nat) : List MicroOp :=
  ((List.range 4).map fun i =>
    let w := prog / 2 ^ (14 * i) % 2 ^ 14
    { op := bitsOf w 11 3, dst := bitsOf w 9 2, p := bitsOf w 6 3, q := bitsOf w 3 3, s := bitsOf w 0 3 : MicroOp }
  ).takeWhile fun m => m.op != 0
/-- The values that an operation may name: x, a, b, y0, y1, y2, +0 and +1. -/
def microArg (x a b : Word) (y : List Word) (n : Nat) : Word :=
  match n with
  | 0 => x
  | 1 => a
  | 2 => b
  | 6 => 0
  | 7 => 0x3F800000
  | n => y.getD (n - 3) 0
/-- One operation on y0 to y2 (R219). -/
def microStep (x a b : Word) (y : List Word) (m : MicroOp) : List Word :=
  let p := microArg x a b y m.p
  let q := microArg x a b y m.q
  match m.op with
  | 1 => y.set m.dst (f32Add .rne p q)
  | 2 => y.set m.dst (f32Sub .rne p q)
  | 3 => y.set m.dst (f32Mul .rne p q)
  | 4 => y.set m.dst (f32MinMax true p q)
  | 5 => y.set m.dst (f32MinMax false p q)
  | _ => if f32Lt q p then y.set m.dst (microArg x a b y m.s) else y
/-- The microprogram over one k. -/
def microRun (ops : List MicroOp) (x a b : Word) : Word := (ops.foldl (microStep x a b) [x, 0, 0]).headD 0

/-- R404, R219. -/
def execMxRec (t pa swa pb swb steps : Nat) (s : State) : Res :=
  let o : MmaOp := { t, pa, swa, pb, swb, s := steps, sa := false, ca := 0, sb := false, cb := 0 }
  let ops := microOps (s.seq s.bid).prog.toNat
  .next (s.seqCheck (s.mmaChecks o true ++ [(fcProg, ops.isEmpty)]) fun s =>
    let bid := s.bid
    let p := s.seqSlot pa
    let q := s.seqSlot pb
    let ks := List.range (32 * (steps + 1))
    let row := fun (slot i : Nat) => ks.map fun k => toF32 .rne (s.operand bid slot i k)
    let as := (List.range 32).map (row p)
    let bs := (List.range 32).map (row q)
    let elems := (List.range 32).flatMap fun i => (List.range 32).map fun j => (32 * i + j, tileKey t i j)
    (s.updAcc bid elems fun e x =>
      ((as.getD (e / 32) []).zip (bs.getD (e % 32) [])).foldl (fun x ab => microRun ops x ab.1 ab.2) x).seqNext)

/-- R403; a word that breaks Table 10.8 does not decode. -/
def execMxProg (p : BitVec 56) (s : State) : Res := .next (s.updSeq s.bid fun q => { q with prog := p }).seqNext

/-- R406. -/
def execMxScl (t nr nc c : Nat) (s : State) : Res :=
  let r := Rect.ofTile t nr nc
  .next (s.seqCheck [(fcRange, 96 ≤ t || !r.ok || 4096 < c + 32 * (nr + 1))] fun s =>
    (s.updAcc s.bid r.elems fun i old =>
      toF32 .rne (Num.mul (f32 old) (decodeS20 (s.scaleAt s.bid (c + i)).toNat))).seqNext)

/-- R221, R398. -/
def execMxWait (b : Nat) (s : State) : Res :=
  .next (s.seqCheck [(fcIllegal, s.b.desc.nbar ≤ b)] fun s =>
    let ep := (s.seq s.bid).ep
    if phaseOf (s.barWord s.bid b) != ep.getLsbD b then
      (s.updSeq s.bid fun q => { q with ep := ep ^^^ BitVec.ofNat 64 (2 ^ b) }).seqNext
    else s.updSeq s.bid fun q => { q with st := .waitBar, wbar := b })
def execMxArv (b : Nat) (s : State) : Res :=
  .next (s.seqCheck [(fcIllegal, s.b.desc.nbar ≤ b)] fun s => (s.arrive s.bid b false (s.rankOf s.bid)).seqNext)

/-- R405. -/
def execMxRel (n m : Nat) (s : State) : Res :=
  let ks := slotRun (s.seqSlot n) m
  .next (s.seqCheck [(fcSlot, ks.any fun k => (s.hdr s.bid k).st != .filled)] fun s =>
    (s.setHdrs s.bid ks fun _ => {}).seqNext)

/-- R213, R400. -/
def execMxLoop (x count step : Nat) (off : BitVec 21) (s : State) : Res :=
  .next (
    let q := s.seq s.bid
    let l : LoopCtr := Tbl.get {} q.lc x
    let left := (if l.arm then l.rem else count) - 1
    let set := fun (s : State) (v : LoopCtr) => s.updSeq s.bid fun q => { q with lc := Tbl.set {} q.lc x v }
    if 0 < left then
      ((set s { arm := true, rem := left }).updSeq s.bid fun q => { q with sbase := (q.sbase + step) % 32 }).seqAt
        (((q.pc : Int) + 8 * off.toInt) % 2 ^ 57).toNat
    else (set s { arm := false, rem := 0 }).seqNext)

/-- R399. -/
def execMxEnd (s : State) : Res := .next (s.updSeq s.bid fun q => { q with st := .done, word := none })

/-! ### Fetch -/

namespace State

/-- The sequencer may move: its block issues, or is stopped while it finishes its instruction (R196), and it has neither
ended nor faulted nor waits for a fetch. -/
def seqLive (s : State) (bid : Nat) : Bool :=
  let b := s.blk bid
  let q := b.mx.seq
  b.desc.mxs && (issues b || (b.swapping && !frozen b && q.step != 0)) && !b.poisoned && q.fltPage.isNone && q.st != .done && q.st != .fault

/-- The fault record of a stream fetch (09 Table 9.4). A word fetched again after a swap leaves STATE 1 (R221). -/
def seqFetchFault (s : State) (bid va cause level : Nat) : State :=
  let b := s.blk bid
  let r : FaultRec := { va, cause, source := 6, access := Acc.code .exec, level, ctx := b.ctx, block := b.no,
                        card := s.cardField b.card, pcore := b.core, party := .seq bid }
  (s.postFault r).updSeq bid fun q =>
    { q with st := if q.st = .waitBar then .waitBar else .fetchWait, fltPage := some va, fltSince := s.clock }

end State

/-- R209: the sequencer fetches the word at its PC, or waits on a fetch fault. An uncorrectable error ends the context
(15 Table 15.3). -/
def execStreamFetch (bid : Nat) (s : State) : Res :=
  .next (
    let q := s.seq bid
    if !s.seqLive bid || q.word.isSome then s
    else
      let b := s.blk bid
      match s.fetch b.core b.ctx q.pc 8 (some (s.heldFrom (s.card b.card).since b.ctx)) with
      | (.later, s1) => s1
      | (.fault c l, s1) => s1.seqFetchFault bid q.pc c l
      | (.bad, s1) => s1.endContext b.ctx .stream { epc := q.pc, bid := some bid }
      | (.ok bytes, s1) =>
        s1.updSeq bid fun q =>
          { q with st := if q.st = .waitBar then .waitBar else .run, word := some (BitVec.ofNat 64 (leNum bytes)) })

/-- The sequencer executes the word it has fetched. -/
def seqTurn (ex : Instr → State → Res) (bid : Nat) (s : State) : Res :=
  if !s.seqLive bid then .next s
  else
    match (s.seq bid).word with
    | none => execStreamFetch bid s
    | some w =>
      let s1 : State := { s.tick with issue := { gid := 32 * bid } }
      match decodeMx w.toNat with
      | .error _ => .next (s1.seqFault fcIllegal)
      | .ok i => ex i s1

end Sys2Proof.Machine
end

