-- ==== Sys2Proof/Machine/Scratch.lean ====
section
/-! DEFINITION. LDS, STS and ATOMS (18 R343, 19 R393, 20 R438; 06 R120 to R122). -/

namespace Sys2Proof.Machine
open State

namespace State

def scrBytes (s : State) (bid a n : Nat) : List Byte := (List.range n).map fun i => Tbl.get 0 (s.blk bid).scratch (a + i)
/-- Bytes stored to a block's scratchpad; a word written whole loses its error, one written in part keeps it, which is
logged, and a wait on a barrier word follows the new word (R344, R436, R438). -/
def scrWrite (s : State) (bid a : Nat) (bs : List Byte) : State :=
  let whole := fun w : Nat => a ≤ 4 * w && 4 * w + 4 ≤ a + bs.length
  let s1 := s.updBlk bid fun k =>
    { k with scratch := putBytes k.scratch a bs,
             scrBad := eraseRange whole k.scrBad (a / 4) (bs.length / 4 + 1) }
  let s2 := if s1.scrBadAt bid a bs.length then s1.logError 0 else s1
  let nbar := (s.blk bid).desc.nbar
  (List.range ((a + bs.length + 7) / 8 - a / 8)).foldl (fun s i => if a / 8 + i < nbar then s.wakeBar bid (a / 8 + i) else s) s2

/-- The block whose scratchpad an SP word names (R121). -/
def spTarget (s : State) (o : SpOp) : Nat := if o.peer then s.b.gangIds.getD o.rank s.bid else s.bid

/-- An SP word: the checks of every lane in the order of R286, then, behind its release, its lanes as those of a memory
word `m` on the named block's scratchpad. The address of a scratchpad capability is its offset (R77). -/
def spRun (s : State) (o : SpOp) (size perm : Nat) (m : Nat → MemOp) (data : Nat → List Word) (fin : State → State) : State :=
  let fin := fun s : State => (fin s).acquired o.ord o.scope
  if s.issue.replay then s.memRun (m (s.spTarget o)) (s.sl.parked.getD {}).lanes fin
  else
    match s.laneAddrs true size perm o.sel 31 o.off o.ext s.active with
    | .error k => s.takeTrap k
    | .ok as =>
      match misaligned size as with
      | some (l, a) => s.takeTrap { code := 10, lane := l, info := a % 2 ^ 32 }
      | none =>
        match if o.peer then s.peerCause o.rank else none with
        | some k => s.takeTrap k
        | none => s.released o.ord o.scope fun s =>
          let ls := as.map fun p => ({ lane := p.1, va := p.2, data := data p.1, dest := some (3, p.2) } : ParkedLane)
          let m := m (s.spTarget o)
          let r := s.performSome m (ls.flatMap (accesses m))
          r.1.endPass m {} r.2.waiting [] r.2.errs fin

end State

/-- R393. -/
def execLds (sz : StSize) (o : SpOp) (s : State) : Res :=
  s.issuedC (.lds sz o) fun s =>
    let d := s.vname o.data
    let n := sz.bytes
    let m := fun bid : Nat => ({
      acc := .read, awaits := false, check := fun _ _ _ => none, size := n, reads := true, halves := true, bid,
      perform := fun s p _ a =>
        let x := halfOf p.half n
        s.putWords (d + x.1 / 4) p.lane (wordsOf (s.scrBytes bid (a + x.1) x.2)) } : MemOp)
    s.spRun o n pLOAD m (fun _ => []) fun s => s.agnosticLanes d (StSize.words sz)
/-- R438. -/
def execSts (sz : StSize) (o : SpOp) (s : State) : Res :=
  s.issuedC (.sts sz o) fun s =>
    let d := s.vname o.data
    let n := sz.bytes
    let m := fun bid : Nat => ({
      acc := .write, awaits := false, check := fun _ _ _ => none, size := n, reads := false, halves := true, bid,
      perform := fun s p _ a =>
        let x := halfOf p.half n
        s.scrWrite bid (a + x.1) (((bytesOf p.data).drop x.1).take x.2) } : MemOp)
    s.spRun o n pSTORE m (fun l => s.getWords d (StSize.words sz) l) id
/-- R343. -/
def execAtoms (op : AtomOp) (o : SpOp) (s : State) : Res :=
  s.issuedC (.atoms op o) fun s =>
    let d := s.vname o.data
    let mode := s.rm
    let m := fun bid : Nat => ({
      acc := .rmw, awaits := false, check := fun _ _ _ => none, size := 4, reads := true, bid,
      perform := fun s p _ a =>
        let old := leNum (s.scrBytes bid a 4)
        let x := atomOperands op false p.data
        let new := atomApply op false mode (BitVec.ofNat 64 old) x.1 x.2
        (s.scrWrite bid a (toLe 4 new.toNat)).putWords d p.lane [BitVec.ofNat 32 old] } : MemOp)
    s.spRun o 4 (pLOAD + pSTORE + pATOMIC) m (fun l => s.getWords d (atomWords op false) l) fun s => s.agnosticLanes d 1

end Sys2Proof.Machine
end

