-- ==== Sys2Proof/Machine/Copies.lean ====
section
/-! DEFINITION. Copies: CPY, CPY.G, CPY.S and SCL.CPY (18 R361 to R365, 20 R431), their segments (09 R194, 22 R455) and
deliveries. -/

namespace Sys2Proof.Machine
open State

namespace State

/-! ### Segments (R194, R455) -/

/-- The address of byte `off` of row `row` on a side. -/
def sideAt (x : CopySide) (row off : Nat) : Nat :=
  (match x.rows[row]? with
    | some a => a
    | none => x.start + row * x.stride) + off
/-- Bytes up to the next 4 KiB boundary of a side that has addresses. -/
def sideRoom (x : CopySide) (row off : Nat) : Option Nat :=
  if x.kind ≤ 1 then some (4096 - sideAt x row off % 4096) else none
/-- Bytes of the segment at (row, off). -/
def segLen (k : Copy) (row off : Nat) : Nat :=
  let n := k.rowb - off
  let n := match sideRoom k.src row off with
    | some r => min n r
    | none => n
  match sideRoom k.dst row off with
  | some r => min n r
  | none => n
/-- The place of the segment after. -/
def segNext (k : Copy) (row off : Nat) : Nat × Nat :=
  let e := off + segLen k row off
  if e < k.rowb then (row, e) else (row + 1, 0)

/-- The core whose TLBs a copy uses; a COPY card runs in the Headbox. -/
def copyCore (k : Copy) : Option Nat := if k.bid.isSome then some k.core else none

/-- Where both sides of a segment are, or the fault of the first that fails and its access code; cause 0 is no fault.
Scratchpad and matrix sides need no translation. -/
def segXlate (s : State) (k : Copy) (row off : Nat) : Except (Nat × Nat × Nat) ((Nat × Nat) × (Nat × Nat)) × State :=
  let one := fun (s : State) (x : CopySide) (acc : Acc) =>
    if x.kind = 0 then s.translate (copyCore k) k.ctx (sideAt x row off) acc else (.ok 0 (sideAt x row off), s)
  match one s k.src .read with
  | (.fault c l, s1) => (.error (c, l, 0), s1)
  | (.ok t p, s1) =>
    match one s1 k.dst .write with
    | (.fault c l, s2) => (.error (c, l, 1), s2)
    | (.ok t' p', s2) => (.ok ((t, p), (t', p')), s2)

/-! ### Ownership of destination lines (R144) -/

/-- The device lines of a destination. -/
def dstLines (k : Copy) (tgt pa n : Nat) : List Nat := if k.dst.kind = 0 && tgt = 0 && n != 0 then linesOf pa n else []
/-- The CPE of `core` takes a line; a counter line stays at its home (R172). -/
def takeLine (s : State) (core line : Nat) : State :=
  let d := s.dir line
  if d.ctr || (d.st == .x && d.cpe) then s
  else
    let s1 := ((s.applyAllFar line).allocate line).invalidate none line
    s1.setDir line { s1.dir line with st := .x, coarse := false, cpe := true, shr := 0, ptrs := [core] }
/-- Adds a segment's lines to a copy and takes them. -/
def ownLines (s : State) (cid : Nat) (ls : List Nat) : State :=
  match s.copy cid with
  | none => s
  | some k =>
    if k.bid.isNone then s
    else
      let s1 := ls.foldl (fun s l => s.takeLine k.core l) s
      { s1 with copies := Tbl.insert cid { k with owned := k.owned ++ ls } (Tbl.erase s1.copies cid) }
/-- A segment gives up its lines; a line that no other segment of the copy still has to write is free (R164). -/
def giveLines (s : State) (cid : Nat) (ls : List Nat) : State :=
  match s.copy cid with
  | none => s
  | some k =>
    let left := ls.foldl (fun o l => o.erase l) k.owned
    let s1 : State := { s with copies := Tbl.insert cid { k with owned := left } (Tbl.erase s.copies cid) }
    ls.foldl (fun s l => if left.contains l then s else s.freeLine l) s1

/-- Takes at issue the destination lines of every segment that translates; `fuel` bounds the segments. -/
def ownAll (cid : Nat) (k : Copy) : Nat → State → Nat → Nat → State
  | 0, s, _, _ => s
  | fuel + 1, s, row, off =>
    if k.nrow ≤ row then s
    else
      let s1 := match s.segXlate k row off with
        | (.error _, s1) => s1
        | (.ok (_, t, p), s1) => s1.ownLines cid (dstLines k t p (segLen k row off))
      let n := segNext k row off
      ownAll cid k fuel s1 n.1 n.2
/-- A bound on the segments of a copy. -/
def segBound (k : Copy) : Nat := k.nrow * (k.rowb / 2048 + 3)
/-- Some destination line that translates is owned by a copy or busy at the home. -/
def dstBusy (k : Copy) : Nat → State → Nat → Nat → Bool
  | 0, _, _, _ => false
  | fuel + 1, s, row, off =>
    if k.nrow ≤ row then false
    else
      (match (s.segXlate k row off).1 with
        | .ok (_, t, p) => (dstLines k t p (segLen k row off)).any fun l => s.lineHeld l
        | .error (c, _, _) => c == 0) ||
        (let n := segNext k row off
         dstBusy k fuel s n.1 n.2)

/-! ### Moving one segment -/

/-- Source bytes with those of a bad 32-byte sector as zero, and an address in each such sector (R291, Table 15.3). -/
def cpeBytes (s : State) (tgt pa n : Nat) : List Byte × List Nat :=
  let bad := fun i : Nat => (tgt == 0 && s.sectorBad ((pa + i) / 32)) || (tgt == 2 && s.peerFails (pa + i) 1)
  ((s.tgtBytes tgt pa n).zipIdx.map fun x => if bad x.2 then 0 else x.1,
    ((sectorsOf pa n).map fun q => max pa (32 * q)).filter fun a => bad (a - pa))
/-- The same from a scratchpad, where an error covers a 32-bit word (R393). -/
def cpeScratch (s : State) (bid a n : Nat) : List Byte × List Nat :=
  ((s.scrBytes bid a n).zipIdx.map fun x => if s.scrBadAt bid (a + x.2) 1 then 0 else x.1,
    ((List.range ((a + n - 1) / 4 + 1 - a / 4)).filter fun i => s.scrBadAt bid (4 * (a / 4 + i)) 4).map fun _ => 0)
/-- A write or reduction on its way to the paired card, which happens before the copy, meets the segment (R144). -/
def peerWriteAhead (s : State) (k : Copy) (tgt pa n : Nat) : Bool :=
  tgt == 2 && (if k.bid.isSome then s.pending.any fun q => q.seen.contains k.gid && Pending.meets q pa n
    else s.releasedAhead tgt pa n)

/-- A byte of operand memory named by row j and byte b of a copy (R363). -/
def opByte (k : Copy) (row b : Nat) : Nat :=
  let es := opBytes k.fmt
  8192 * (k.dst.start + row / 32) + swzOffset k.swz es (row % 32) (b / es) + b % es
/-- The entries of a scale fill of which all four bytes have come, with their words' bits [19:0] (R86, R431); each is
written at once (R220). `l` gives bytes by their place from entry 0. -/
def wholeEntries (l : List (Nat × Byte)) : List (Nat × BitVec 20) :=
  (l.map fun x => x.1 / 4).dedup.filterMap fun e =>
    match (List.range 4).mapM fun i => l.lookup (4 * e + i) with
    | some bs => some (e, BitVec.ofNat 20 (leNum bs))
    | none => none
/-- Bytes of a segment of SCL.CPY join those delivered before: the entries then whole, and the bytes left. -/
def scaleWords (k : Copy) (off : Nat) (bs : List Byte) : List (Nat × BitVec 20) × List (Nat × Byte) :=
  let l := (bs.zipIdx.map fun x => (4 * k.dst.start + off + x.2, x.1)) ++ k.part
  let es := wholeEntries l
  (es, l.filter fun x => !(es.any fun e => e.1 == x.1 / 4))

/-- Bytes that a copy writes in memory: a line that its CPE owns keeps its place before the reductions accepted meanwhile
(R168); before other lines they are applied first. -/
def copyPut (s : State) (tgt pa : Nat) (bs : List Byte) : State :=
  if tgt != 0 || bs.isEmpty then s.engPut tgt pa bs
  else (linesOf pa bs.length).foldl (fun s l =>
    let lo := max pa (128 * l)
    let part := (bs.drop (lo - pa)).take (min (pa + bs.length) (128 * l + 128) - lo)
    if (s.dir l).st == .x && (s.dir l).cpe then s.cpeWrite lo part else s.engPut 0 lo part) s
/-- The blocks of a copy that are still there: the bytes for a rank that has retired are dropped (log 21). -/
def alive (s : State) (bids : List Nat) : List Nat := bids.filter fun b => Tbl.has s.blks b
/-- Bytes written on the destination side; the flag says that a sector at the home stays in error. -/
def putSide (s : State) (k : Copy) (row off tgt pa : Nat) (bs : List Byte) : State × Bool :=
  match k.dst.kind with
  | 0 =>
    let s1 := s.copyPut tgt pa bs
    (s1, tgt == 0 && s1.bad pa bs.length)
  | 1 => ((s.alive k.dst.bids).foldl (fun s b => s.scrWrite b (sideAt k.dst row off) bs) s, false)
  | 2 =>
    ((s.alive k.dst.bids).foldl (fun s b => s.updMx b fun m =>
      { m with opmem := (bs.zipIdx).foldl (fun t x => Tbl.set 0 t (opByte k row (off + x.2)) x.1) m.opmem }) s, false)
  | _ =>
    ((s.alive k.dst.bids).foldl (fun s b => s.updMx b fun m =>
      { m with scale := (scaleWords k off bs).1.foldl (fun t x => Tbl.set 0 t x.1 x.2) m.scale }) s, false)

/-- The blocks that a delivered byte is charged to (R365). -/
def chargedBlocks (k : Copy) : List Nat := if k.dst.kind = 0 then k.bid.toList else k.dst.bids

def setCopy (s : State) (cid : Nat) (k : Copy) : State :=
  { s with copies := Tbl.insert cid k (Tbl.erase s.copies cid) }
/-- What came of moving a segment. -/
inductive Moved where
  | done
  | fault (cause level acc : Nat)
  /-- A line is held by another agent; nothing has happened. -/
  | later
  deriving DecidableEq, Repr

/-- Moves the segment at (row, off) of copy `cid` (R365). -/
def moveSeg (s : State) (cid : Nat) (k : Copy) (row off : Nat) : State × Moved :=
  let n := segLen k row off
  let heldFor := fun (s : State) (l : Nat) => s.lineHeld l && !(k.owned.contains l)
  match s.segXlate k row off with
  | (.error (0, _, _), _) => (s, .later)
  | (.error (c, l, a), s1) => (s1, .fault c l a)
  | (.ok ((t, p), (t', p')), s1) =>
    let srcLines := if k.src.kind = 0 && t = 0 then linesOf p n else []
    let dl := dstLines k t' p' n
    let ahead := (k.src.kind == 0 && s1.peerWriteAhead k t p n) || (k.dst.kind == 0 && s1.peerWriteAhead k t' p' n)
    if (srcLines ++ dl).any (heldFor s1) || ahead then (s, .later)
    else
      let s2 := srcLines.foldl (fun s l => match k.bid with
        | some b => s.settleFar b l
        | none => s.applyAllFar l) s1
      let r := if k.src.kind = 0 then s2.cpeBytes t p n
        else s2.cpeScratch (k.src.bids.headD 0) (sideAt k.src row off) n
      let s3 := r.2.foldl logError s2
      let w := s3.putSide k row off t' p' r.1
      let s4 := if !r.2.isEmpty || w.2 then k.bid.toList.foldl asyncError w.1 else w.1
      let s5 := s4.giveLines cid dl
      let s6 := match k.bar with
        | some b =>
          (s5.alive (chargedBlocks k)).foldl (fun (s : State) x => s.charge x b ((k.bid.map s.rankOf).getD 0) (-(n : Int))) s5
        | none => s5
      let part := if k.dst.kind = 3 then (scaleWords k off r.1).2 else []
      (match s6.copy cid with
        | some k' => s6.setCopy cid { k' with part }
        | none => s6, .done)

/-- The copy has delivered its last byte: it is over. -/
def closeCopy (s : State) (cid : Nat) : State :=
  match s.copy cid with
  | some k => if k.nrow ≤ k.row && k.fix.isEmpty then s.dropCopyOf cid else s
  | none => s

/-- The fault record of a segment: its VA is the segment's first source byte (R455); a scratchpad source has none, so the
destination's is given. -/
def copyFault (s : State) (cid : Nat) (k : Copy) (row off cause level acc : Nat) : State :=
  let va := if k.src.kind = 0 then sideAt k.src row off else sideAt k.dst row off
  let no := match k.bid with
    | some b => (s.blk b).no
    | none => 0
  s.postFault { va, cause, source := if k.bid.isSome then 2 else 5, access := acc, level, ctx := k.ctx, block := no,
                card := s.cardField k.card, pcore := k.core, group := k.gid % 32, slot := k.slot, party := .copy cid }
/-- The record is that of the segment at (row, off). -/
def segRecord (cid : Nat) (k : Copy) (r : FaultRec) (x : Nat × Nat) : Bool :=
  r.party == .copy cid && (r.va == sideAt k.src x.1 x.2 || r.va == sideAt k.dst x.1 x.2)
/-- No record of the segment is open any more. -/
def closeRecord (s : State) (cid : Nat) (k : Copy) (row off : Nat) : State :=
  { s with flt := { s.flt with open_ := s.flt.open_.filter fun r => !segRecord cid k r (row, off) } }
/-- The place of segment `i` of a range. -/
def segOf (k : Copy) (f : FixRange) : Nat → Nat × Nat
  | 0 => (f.row, f.off)
  | i + 1 => segNext k (segOf k f i).1 (segOf k f i).2
/-- The ranges that a resolved fault covers are replayed from their first segment on (R194). -/
def dueRanges (s : State) (cid : Nat) (r : FaultRec) : State :=
  match s.copy cid with
  | none => s
  | some k =>
    let hit := fun (f : FixRange) => (List.range f.count).any fun i => segRecord cid k r (segOf k f i)
    s.setCopy cid { k with fix := k.fix.map fun f => if hit f then { f with due := some 0 } else f }
/-- The segment that is replayed next: the range's index, and the segment's in it. One inside a range leaves two ranges, and
waits while the list has six. -/
def fixNext (k : Copy) : Option (Nat × Nat) :=
  k.fix.zipIdx.findSome? fun x => match x.1.due with
    | some i => if i != 0 && i + 1 != x.1.count && 6 ≤ k.fix.length then none else some (x.2, i)
    | none => none
/-- A range without its segment `i`: what is before it has faulted again, what is behind it is still to be replayed. -/
def cutRange (k : Copy) (f : FixRange) (i : Nat) : List FixRange :=
  let n := segOf k f (i + 1)
  [{ f with count := i, due := none },
   { f with first := f.first + i + 1, count := f.count - i - 1, row := n.1, off := n.2, due := some 0 }].filter
    fun g => g.count != 0

end State

/-- The next segment of a copy is started: delivered, or put on the fix-up list (R194). -/
def execSegmentDelivery (cid : Nat) (s : State) : Res :=
  .next (match s.copy cid with
    | none => s
    | some k =>
      if k.withdrawn || k.nrow ≤ k.row then s
      else
        let (row, off) := (k.row, k.off)
        let n := segNext k row off
        match s.moveSeg cid k row off with
        | (s1, .done) =>
          (match s1.copy cid with
          | some k1 => (s1.setCopy cid { k1 with next := k.next + 1, row := n.1, off := n.2 }).closeCopy cid
          | none => s1)
        | (s1, .later) => s1
        | (s1, .fault c l a) =>
          let adjacent := match k.fix.getLast? with
            | some f => f.first + f.count == k.next && f.due.isNone
            | none => false
          if !adjacent && 6 ≤ k.fix.length then s
          else
            -- the lines that the segment took at issue are given up (R144)
            let len := segLen k row off
            let dl := match s1.translate (copyCore k) k.ctx (sideAt k.dst row off) .write with
              | (.ok t p, _) => dstLines k t p len
              | (.fault _ _, _) => []
            let s2 := (s1.giveLines cid (dl.filter k.owned.contains)).copyFault cid k row off c l a
            let fix := if adjacent then k.fix.dropLast ++ (k.fix.getLast?.toList.map fun f => { f with count := f.count + 1 })
              else k.fix ++ [{ first := k.next, count := 1, row, off, since := s.clock }]
            match s2.copy cid with
            | some k2 => s2.setCopy cid { k2 with next := k.next + 1, row := n.1, off := n.2, fix }
            | none => s2)

/-- The next segment of a range that a resolved fault covers is replayed (R194); where its translation fails again, it writes
a new record and the replay goes on behind it (R457). -/
def execFixupReplay (cid : Nat) (s : State) : Res :=
  .next (match s.copy cid with
    | none => s
    | some k =>
      match fixNext k with
      | none => s
      | some (i, j) =>
        let f := k.fix.getD i { first := 0, count := 0, row := 0, off := 0 }
        let (row, off) := segOf k f j
        let put := fun (s : State) (fs : List FixRange) => match s.copy cid with
          | some k2 => s.setCopy cid { k2 with fix := k.fix.take i ++ fs ++ k.fix.drop (i + 1) }
          | none => s
        if k.withdrawn then s
        else
          -- the replay begins: the segment's lines are taken (R144)
          let s1 := match s.segXlate k row off with
            | (.ok (_, t, p), s1) =>
              let dl := dstLines k t p (segLen k row off)
              if dl.any fun l => s1.lineHeld l && !(k.owned.contains l) then s1 else s1.ownLines cid dl
            | (.error _, s1) => s1
          let k1 := (s1.copy cid).getD k
          match s1.moveSeg cid k1 row off with
          | (s2, .done) => ((put s2 (cutRange k f j)).closeRecord cid k row off).closeCopy cid
          | (_, .later) => s
          | (s2, .fault c l a) =>
            put ((s2.closeRecord cid k row off).copyFault cid k row off c l a)
              [{ f with due := if j + 1 < f.count then some (j + 1) else none }])

/-! ### The words (R361 to R364) -/

namespace State

/-- The descriptor's eight quads. -/
def descQuads (s : State) (db : Nat) : List Quad := (List.range 8).map (s.descQuad db)

/-- Step 2 of R364 for the rows of one side: the row starts, or the trap of the lowest failing row. -/
def rowStarts (c : Cap) (scratch : Bool) (rowb perm : Nat) (eoOf : Nat → Int) (laneAt : Nat → Nat) :
    List Nat → Except (Nat × Cause) (List Nat)
  | [] => .ok []
  | j :: r =>
    match checkCap scratch c (eoOf j) rowb perm with
    | .error sub => .error (j, { code := 9, sub, lane := laneAt j, info := info32 (eoOf j) })
    | .ok a =>
      match rowStarts c scratch rowb perm eoOf laneAt r with
      | .error k => .error k
      | .ok as => .ok (a :: as)
/-- The trap of the lowest failing row of both sides; on one row the source's comes first. -/
def firstRow (a b : Except (Nat × Cause) (List Nat)) : Except Cause (List Nat × List Nat) :=
  match a, b with
  | .ok x, .ok y => .ok (x, y)
  | .error e, .ok _ => .error e.2
  | .ok _, .error e => .error e.2
  | .error e, .error f => .error (if f.1 < e.1 then f.2 else e.2)

/-- Steps 3 of R364 and R223: the first rank of the mask that raises PEER. -/
def maskCause (s : State) (mask : Nat) : Option Cause :=
  (List.range 4).findSome? fun k => if bitsOf mask k 1 = 1 then s.peerCause k else none
/-- Step 4: 32 for a copy that passes the last slot, else the first slot, of the lowest rank, that is not claimed and
unstamped (R207). -/
def slotCause (s : State) (bids : List Nat) (slot n : Nat) : Option Cause :=
  if 32 < slot + n then some { code := 13, sub := 1, info := 32 }
  else bids.findSome? fun b =>
    ((List.range n).map (slot + ·)).findSome? fun k =>
      let h := s.hdr b k
      if h.st != .claimed || h.stamp then some { code := 13, sub := 1, info := k } else none

/-- Copies of a core's CPE in flight. -/
def inFlightCopies (s : State) (core : Nat) : List Copy :=
  (s.copies.filter fun p => p.2.bid.isSome && p.2.core == core && !p.2.withdrawn).map (·.2)
/-- The lowest number that is not in the list. -/
def freshOf (used : List Nat) : Nat := ((List.range (used.length + 1)).find? fun n => !used.contains n).getD 0

/-- Starts a copy, or holds the bundle at issue (R364). -/
def startCopy (s : State) (k : Copy) (stampSlots : State → State) : State :=
  let mine := s.inFlightCopies s.core
  if 64 ≤ mine.length || dstBusy k (segBound k) s 0 0 then s.setOut .stay
  else if s.b.poisoned then stampSlots s
  else
    let cid := s.freshId s.copies
    let k' := { k with cslot := freshOf (mine.map (·.cslot)) }
    let s1 := ((stampSlots s).takeId cid).setCopy cid k'
    ownAll cid k' (segBound k') s1 0 0

/-- CPY, CPY.G and CPY.S; `off` is the offset register, if the form has one. -/
def cpyRun (s : State) (db : Nat) (off : Option Nat) : State :=
  let q := fun i => (s.descQuad db i).toNat
  let d := CpyDesc.ofQuads (q 4) (q 5) (q 6) (q 7)
  let scap := s.pairCap (4 * db)
  let dcap := s.pairCap (4 * db + 1)
  let ls := lanesOf s.active
  let nrow := if off.isSome then ls.length else d.nrow + 1
  let laneAt := fun j => if off.isSome then ls.getD j 0 else 0
  let eo := fun (c : Cap) (scratch : Bool) (str j : Nat) => match off with
    | some r => if scratch then ((c.offset + j * str : Nat) : Int)
      else (c.offset : Int) + (s.vcur (s.vname r) (laneAt j)).val.toInt
    | none => ((c.offset + j * str : Nat) : Int)
  let js := List.range nrow
  let srcRows := rowStarts scap (d.skind == 1) d.rowb pCOPYSRC (eo scap (d.skind == 1) d.sstr) laneAt js
  let dstRows := if d.dkind = 2 then .ok []
    else rowStarts dcap (d.dkind == 1) d.rowb pCOPYDST (eo dcap (d.dkind == 1) d.dstr) laneAt js
  match firstRow srcRows dstRows with
  | .error c => s.takeTrap c
  | .ok (sr, dr) =>
    match (if d.peer then s.peerCause d.rank else s.maskCause d.mcast) with
    | some c => s.takeTrap c
    | none =>
      let sblk := if d.peer then s.b.gangIds.getD d.rank s.bid else s.bid
      let recv := if d.mcast = 0 then [s.bid]
        else ((List.range 4).filter fun k => bitsOf d.mcast k 1 = 1).map fun k => s.b.gangIds.getD k s.bid
      let nslots := (nrow + 31) / 32
      match (if d.dkind = 2 then s.slotCause recv d.slot nslots else none) with
      | some c => s.takeTrap c
      | none =>
        let ctx := s.ctxId
        let side := fun (kind str : Nat) (rows : List Nat) => ({
          kind, start := rows.headD 0, stride := str, rows := if off.isSome then rows else [],
          bids := if kind = 1 then [sblk] else [] } : CopySide)
        let k : Copy := {
          bid := some s.bid, gid := s.gid, slot := s.issue.slot, core := s.core, cslot := 0, ctx, card := s.b.card,
          quads := s.descQuads db, src := side d.skind d.sstr sr,
          dst := if d.dkind = 2 then { kind := 2, start := d.slot, bids := recv } else side d.dkind d.dstr dr,
          swz := d.swz, fmt := d.efmt, rowb := d.rowb, nrow, bar := if d.bind then some d.bar else none }
        s.startCopy k fun s =>
          if d.dkind != 2 then s
          else recv.foldl (fun s b =>
            let ks := (List.range nslots).map (d.slot + ·)
            let s1 := s.setHdrs b ks fun h => { h with stamp := true, fmt := d.efmt, swz := d.swz }
            s1.zeroSlots b ks) s

/-- SCL.CPY (R431). -/
def sclRun (s : State) (db : Nat) : State :=
  let q := fun i => (s.descQuad db i).toNat
  let scap := s.pairCap (4 * db)
  let d := SclDesc.ofQuads q
  match checkCap false scap scap.offset (4 * d.n) pCOPYSRC with
  | .error sub => s.takeTrap { code := 9, sub, info := info32 scap.offset }
  | .ok a =>
    let k : Copy := {
      bid := some s.bid, gid := s.gid, slot := s.issue.slot, core := s.core, cslot := 0, ctx := s.ctxId,
      card := s.b.card, quads := s.descQuads db, src := { kind := 0, start := a },
      dst := { kind := 3, start := d.first, bids := [s.bid] }, rowb := 4 * d.n, nrow := 1,
      bar := if d.bind then some d.bar else none }
    s.startCopy k id

end State

def execCpy (db : Nat) (s : State) : Res := s.issuedC (.cpy db) fun s => s.cpyRun db none
def execCpyG (db off : Nat) (s : State) : Res := s.issuedC (.cpyG db off) fun s => s.cpyRun db (some off)
/-- OFF = 124: the dense form. -/
def execCpyS (db off : Nat) (s : State) : Res :=
  s.issuedC (.cpyS db off) fun s => s.cpyRun db (if off = 124 then none else some off)
def execSclCpy (db : Nat) (s : State) : Res := s.issuedC (.sclCpy db) fun s => s.sclRun db

end Sys2Proof.Machine
end

