-- ==== Sys2Proof/Machine/Traversal.lean ====
section
/-! DEFINITION. Traversal processors (11): threads, the node cache, queries and sub-queries, QLAUNCH and QTAKE (20 R418,
R420) and the end of a query. A traversal word acts for the thread that `issue.thr` names (64 × core + thread). -/

namespace Sys2Proof.Machine
open State

/-- Why a word does not complete (R228, R229, R237, R238). -/
inductive TrStop where
  /-- The query ends with a status and AUX. -/
  | done (status : Nat) (aux : Nat)
  /-- A read past the node cache at `va` met an uncorrectable error, which is logged: POISON with AUX (R242, R291). -/
  | bad (aux va : Nat)
  /-- A translation fault: the thread waits. -/
  | fault (va cause level : Nat) (acc : Acc)
  /-- The line is not in the node cache; the thread waits for its fill. -/
  | miss (line : Nat)
  /-- A line is held, or the thread is not ready. -/
  | later
  deriving DecidableEq, Repr

/-- Status codes of Table 11.4. -/
def qMISS : Nat := 1
def qHIT : Nat := 2
def qPOISON : Nat := 3
def qCAPFAIL : Nat := 4
def qSTACK : Nat := 5
def qBADNODE : Nat := 6
def qILLEGAL : Nat := 7
def qREMOTE : Nat := 8
def qPEERDOWN : Nat := 9

namespace State

def thr (s : State) : Nat := s.issue.thr
def trCore (s : State) : Nat := s.issue.thr / 64
def trCluster (s : State) : Nat := s.issue.thr / 256
def trpAt (s : State) (k : Nat) : Trp := Tbl.get {} s.trps k
def tp (s : State) : Trp := s.trpAt s.issue.thr
def setTrp (s : State) (k : Nat) (t : Trp) : State := { s with trps := Tbl.set {} s.trps k t }
def updTp (s : State) (f : Trp → Trp) : State := s.setTrp s.issue.thr (f s.tp)
/-- t(k). -/
def treg (s : State) (k : Nat) : Quad := Tbl.get 0 s.tp.t k
def setT (s : State) (k : Nat) (v : Quad) : State := s.updTp fun t => { t with t := Tbl.set 0 t.t k v }
/-- PC := PC + 4. -/
def trNext (s : State) : State := s.updTp fun t => { t with pc := (t.pc + 4) % 2 ^ 57 }

/-- Fields of the query record (Table 11.2). -/
def qField (t : Trp) (i lo n : Nat) : Nat := bitsOf (t.quads.getD i 0).toNat lo n
def qSF (t : Trp) : Nat := qField t 6 0 57
def qSFLEN (t : Trp) : Nat := qField t 6 57 7
def qNOHAND (t : Trp) : Bool := qField t 7 9 1 == 1
def qFIRST (t : Trp) : Bool := qField t 7 8 1 == 1

/-! ### Accesses (R237, R238, R242) -/

/-- [va, va + n) cut at 128-byte lines. -/
def linePieces (va : Nat) : Nat → Nat → List (Nat × Nat)
  | 0, _ => []
  | fuel + 1, n =>
    if n = 0 then []
    else
      let k := min n (128 - va % 128)
      (va, k) :: linePieces (va + k) fuel (n - k)

/-- One piece read through the node cache; accepted reductions of the line come first (R145, R168). Counter lines, and host
and peer memory, are read where they lie. -/
def ncPiece (s : State) (acc : Acc) (va n : Nat) : Except TrStop (State × List Byte) :=
  match s.translate (some s.trCore) s.tp.ctx va acc with
  | (.fault 0 _, _) => .error .later
  | (.fault c l, _) => .error (.fault va c l acc)
  | (.ok tgt pa, s1) =>
    let line := lineOf pa
    let aux := va / 128 * 128
    if tgt != 0 || (s1.dir line).ctr then
      if s1.blocked tgt pa n || s1.releasedAhead tgt pa n then .error .later
      else if s1.tgtBad tgt pa n then .error (.bad aux va) else .ok (s1, s1.tgtBytes tgt pa n)
    else if !(s1.farOf line).isEmpty then .error (.miss line)
    else
      match Tbl.get none s1.ncache (ncKey line s1.trCluster) with
      | none => .error (.miss line)
      | some true => .error (.done qPOISON aux)
      | some false => .ok (s1.ncUse line s1.trCluster, s1.peekBytes pa n)

/-- Reads n bytes after CheckAddr against NCAP. -/
def ncRead (s : State) (va n : Nat) (acc : Acc := .read) : Except TrStop (State × List Byte) :=
  match checkAddr s.tp.ncap va n pLOAD with
  | .error _ => .error (.done qCAPFAIL va)
  | .ok _ =>
    (linePieces va (n / 128 + 2) n).foldl
      (fun r p => match r with
        | .error e => .error e
        | .ok (s, bs) => match s.ncPiece acc p.1 p.2 with
          | .error e => .error e
          | .ok (s, b) => .ok (s, bs ++ b))
      (.ok (s, []))

/-- A stop from an engine access; cause 0 is a held line. -/
def stopOf (e : Nat × Nat × Nat) (acc : Acc) : TrStop := if e.2.1 = 0 then .later else .fault e.1 e.2.1 e.2.2 acc
/-- A write of a thread, checked with STORE. -/
def trWrite (s : State) (va : Nat) (bs : List Byte) : Except TrStop State :=
  match checkAddr s.tp.ncap va bs.length pSTORE with
  | .error _ => .error (.done qCAPFAIL va)
  | .ok _ =>
    match s.engWrite (some s.trCore) s.tp.ctx va bs with
    | (.error e, _) => .error (stopOf e .write)
    | (.ok (), s1) => .ok s1

/-! ### The end of a query (R229, R239, R241, R442) -/

/-- HITV with no hit (Table 11.1). -/
def noHit : List Word := [0x7F800000, 0xFFFFFFFF, 0, 0]
/-- The words of a completion record (Table 11.3). -/
def recordOf (p : QueryPart) (user : Nat) (hand : Bool) : List Quad :=
  let w := fun i => (p.hit.getD i 0).toNat
  [BitVec.ofNat 64 (w 1 * 2 ^ 32 + w 0), BitVec.ofNat 64 (w 3 * 2 ^ 32 + w 2),
   BitVec.ofNat 64 (user * 2 ^ 32 + p.status * 2 ^ 24 + hand.toNat * 2 ^ 23 + min p.nodes 0xFFFF), p.aux]

/-- Error statuses in the order of R241. -/
def errorOrder : List Nat := [3, 4, 6, 7, 5, 9, 8]
/-- The part of a HIT with the smallest THIT; a tie goes to the earlier part. -/
def nearestHit (ps : List QueryPart) : Option QueryPart :=
  (ps.filter fun p => p.status == qHIT).foldl (fun b p => match b with
    | none => some p
    | some q => if f32Lt (p.hit.getD 0 0) (q.hit.getD 0 0) then some p else some q) none
/-- R241: the origin's own part first, then the sub-queries in HANDOFF order. -/
def mergeParts (own : QueryPart) (subs : List QueryPart) : QueryPart :=
  let ps := own :: subs
  let nodes := min ((ps.map (·.nodes)).foldl (· + ·) 0) 0xFFFF
  let chosen := match errorOrder.findSome? fun e => ps.find? fun p => p.status == e with
    | some p => p
    | none => match nearestHit ps with
      | some p => p
      | none => own
  { chosen with nodes }

/-- The parts returned, in HANDOFF order. -/
def partsInOrder (t : Trp) : List QueryPart :=
  ((List.range t.sent).filterMap fun i => (t.parts.find? fun p => p.1 == i).map (·.2))

/-- A thread whose part has ended writes its record once every sub-query is back and its queue has room, and is free
again; a sub-query's result goes back over the link. -/
def finishQuery (s : State) : State :=
  let t := s.tp
  match t.own with
  | none => s
  | some own =>
    if !t.subs.isEmpty then s
    else
      let p := mergeParts own (partsInOrder t)
      match t.echo with
      | some e =>
        let s1 : State := { s with dev := { s.dev with peerOut := s.dev.peerOut ++ [recordOf p 0 false ++ [e, 0]] } }
        s1.setTrp s.thr {}
      | none =>
        let key := 4 * s.trCluster + qField t 7 0 2
        let q := Tbl.get [] s.cqs key
        if 256 ≤ q.length then s
        else
          let r : CqRec := { ctx := t.ctx, words := recordOf p (qField t 7 32 32) (t.sent != 0) }
          let s1 : State := { s with cqs := Tbl.set [] s.cqs key (q ++ [r]) }
          s1.setTrp s.thr {}

/-- The thread's own part ends. -/
def endQuery (s : State) (status aux : Nat) : State :=
  (s.updTp fun t =>
    let p : QueryPart := { status, aux := BitVec.ofNat 64 aux, hit := t.hit, nodes := t.nodes }
    { t with phase := .ended, own := some p }).finishQuery

/-- The thread waits for the resolve of a fault (R188, R237). -/
def trFault (s : State) (va cause level : Nat) (acc : Acc) : State :=
  let t := s.tp
  let s2 := s.postFault { va, cause, source := 3, access := acc.code, level, ctx := t.ctx, block := t.block,
                           card := s.cardField t.card, pcore := s.trCore, party := .trp s.thr }
  s2.updTp fun t => { t with phase := .fault, fltPage := some va }

/-- What a stop does to the thread; its word has had no effect, and its last translation is made again for what it logs
and counts. -/
def trStop (s : State) (e : TrStop) : State :=
  let again := fun (va : Nat) (acc : Acc) => s.translate (some s.trCore) s.tp.ctx va acc
  match e with
  | .done st aux => s.endQuery st aux
  | .bad aux va => (match again va .read with
    | (.ok _ pa, s1) => s1.logError pa
    | (.fault _ _, s1) => s1).endQuery qPOISON aux
  | .fault va c l acc => (again va acc).2.trFault va c l acc
  | .miss line => s.updTp fun t => { t with miss := some line }
  | .later => s

/-- A traversal word. -/
def word (s : State) (f : State → Except TrStop State) : Res :=
  .next (match f s with
    | .ok s1 => s1
    | .error e => s.trStop e)

/-! ### Starting a query (R225, R228) -/

def wordOf (q : Quad) (hi : Bool) : Word := q.extractLsb' (if hi then 32 else 0) 32
/-- Table 11.2's rules. -/
def queryOk (q : List Quad) : Bool :=
  let n := fun i => (q.getD i 0).toNat
  bitsOf (n 5) 57 7 == 0 && bitsOf (n 5) 0 2 == 0 && bitsOf (n 6) 57 7 ≤ 64 && bitsOf (n 6) 0 4 == 0 &&
    bitsOf (n 7) 10 6 == 0 && bitsOf (n 7) 2 6 == 0
/-- A thread's state at the start of a query. -/
def startState (q : List Quad) (ctx card block : Nat) (cap : Cap) : Trp :=
  let g := fun i => q.getD i (0 : Quad)
  { phase := .run, ctx, card, block, quads := q, ncap := cap, hit := noHit,
    t := Tbl.set 0 (Tbl.set 0 [] 0 (g 4)) 1 (BitVec.ofNat 64 (bitsOf (g 7).toNat 16 16)),
    pc := bitsOf (g 5).toNat 0 57, o := [wordOf (g 0) false, wordOf (g 0) true, wordOf (g 1) false],
    d := [wordOf (g 2) false, wordOf (g 2) true, wordOf (g 3) false], tmin := wordOf (g 1) true,
    tmax := wordOf (g 3) true }

end State

/-- R225, R227, R228. -/
def execQueryStart (core thread : Nat) (s0 : State) : Res :=
  let s : State := { s0 with issue := { s0.issue with thr := 64 * core + thread } }
  .next (if s.tp.phase != .free then s0
    else match Tbl.get [] s.ingress core with
      | [] => s0
      | r :: rest =>
        let s1 : State := { s with ingress := Tbl.set [] s.ingress core rest }
        let s2 := s1.setTrp s.thr { startState r.quads r.ctx r.card r.block r.cap with entered := r.entered }
        if queryOk r.quads then s2 else s2.endQuery qBADNODE r.va)

/-- R238, R242: a fill for the threads of a cluster that miss on the line. A counter line is never cached (R172): they read
it at its home. -/
def execNodeCacheFill (cluster line : Nat) (s : State) : Res :=
  .next (
    let waits := fun p : Nat × Trp => p.1 / 256 == cluster && p.2.miss == some line
    if !(s.trps.any waits) || !s.clusterOn cluster || s.lineHeld line then s
    else
      let s1 := if (s.dir line).ctr then s else (s.applyAllFar line).ncFill line cluster
      { s1 with trps := s1.trps.map fun p => if waits p then (p.1, { p.2 with miss := none }) else p })

/-! ### Sub-queries (R240, R241, R311, R378, R379, R459) -/

namespace State
/-- The message of Table 19.3. -/
def subMessage (s : State) (p : Quad) (idx : Nat) (ents : List (BitVec 128)) : List Quad :=
  let t := s.tp
  let q := fun i => t.quads.getD i (0 : Quad)
  let w := fun i => (t.hit.getD i 0)
  let rec_ := [q 0, q 1, q 2, t.tmax ++ wordOf (q 3) false, p, q 5, BitVec.ofNat 64 (qSF t),
    BitVec.ofNat 64 ((q 7).toNat / 4 * 4)]
  let hitv := [w 1 ++ w 0, w 3 ++ w 2]
  let cap := [t.ncap.bits.extractLsb' 0 64, t.ncap.bits.extractLsb' 64 64]
  let regs := (List.range 16).map s.treg
  let stk := (List.range 4).flatMap fun i =>
    let e := ents.getD i 0
    [e.extractLsb' 0 64, e.extractLsb' 64 64]
  let q36 := (s.ctx t.ctx).pairctx * 2 ^ 48 + s.trCore * 2 ^ 40 + s.thr % 64 * 2 ^ 32 + idx * 2 ^ 30 +
    ents.length * 2 ^ 16 + t.ncap.tag.toNat
  rec_ ++ hitv ++ cap ++ regs ++ stk ++ [BitVec.ofNat 64 q36, 0, 0, 0]

/-- Bit 63 cleared in a pointer or in an entry's PTR (R459). -/
def localPtr (q : Quad) : Quad := q &&& 0x7FFFFFFFFFFFFFFF
def localEntry (e : BitVec 128) : BitVec 128 := e.extractLsb' 64 64 ++ localPtr (e.extractLsb' 0 64)
/-- A result that no thread ran for; its AUX is not stated by the spec. -/
def refuseSub (s : State) (status : Nat) (hit : List Word) (q36 : Quad) : State :=
  let p : QueryPart := { status, aux := BitVec.ofNat 64 (s.freeNat 60), hit, nodes := 0 }
  ({ s with dev := { s.dev with peerOut := s.dev.peerOut ++ [recordOf p 0 false ++ [q36, 0]] } }).tick
end State

/-- R311, R379, R459: a free thread of a compute core takes a sub-query of the paired card. -/
def execSubqueryReceive (core thread sctx : Nat) (msg : List Quad) (s0 : State) : Res :=
  let s : State := { s0 with issue := { s0.issue with thr := 64 * core + thread } }
  let m := fun i => msg.getD i (0 : Quad)
  let q36 := (m 36).toNat
  let pair := bitsOf q36 48 16
  let hit := [wordOf (m 8) false, wordOf (m 8) true, wordOf (m 9) false, wordOf (m 9) true]
  let nent := bitsOf q36 16 3
  let c := s.ctx pair
  .next (
    if s.tp.phase != .free || !s.computeClusters.contains (core / 4) || 64 ≤ thread then s0
    else if pair = 0 || !c.exist || c.fw || c.pairctx != sctx then s0.refuseSub qPEERDOWN hit (m 36)
    else if bitsOf q36 38 2 != 0 || bitsOf q36 19 11 != 0 || bitsOf q36 1 15 != 0 || 4 < nent ||
        m 37 != 0 || m 38 != 0 || m 39 != 0 then s0.refuseSub qBADNODE hit (m 36)
    else if !queryOk (msg.take 8) then s0.refuseSub qBADNODE hit (m 36)
    else
      let cap : Cap := { bits := m 11 ++ m 10, tag := (m 36).getLsbD 0 }
      let t0 := startState (msg.take 8) pair 0 0 cap
      let regs := (List.range 16).foldl (fun t i =>
        Tbl.set 0 t i (if i = 0 then localPtr (m 4) else if i = 1 then Tbl.get 0 t0.t 1 else m (12 + i))) []
      let stk := (List.range nent).map fun i => localEntry (m (29 + 2 * i) ++ m (28 + 2 * i))
      let n := s.ids + 1
      (s.takeId n).setTrp s.thr
        { t0 with t := regs, hit, hitValid := hit != noHit, stk, echo := some (m 36), entered := n })

namespace State
/-- A part of the query of thread `k` has come back, or is lost. -/
def partBack (s : State) (k idx : Nat) (p : SubOut → QueryPart) : State :=
  let t := s.trpAt k
  match t.subs.find? fun x => x.idx == idx with
  | none => s
  | some x =>
    s.setTrp k { t with subs := t.subs.filter fun y => y.idx != idx, parts := t.parts ++ [(x.ord, p x)] }
end State

/-- The time of a sub-query is over (R240, R279). -/
def subLate (s : State) (x : SubOut) : Bool := x.sent + 2 ^ 24 < s.clock

/-- R378: the result is held for the merge; one that comes too late is not (R279). -/
def execSubqueryResult (thr idx : Nat) (r : SubResult) (s : State) : Res :=
  .next (if (s.trpAt thr).subs.any fun x => x.idx == idx && subLate s x then s
    else s.partBack thr idx fun _ =>
      { status := r.status, aux := r.aux, hit := [r.thit, r.prim, r.u, r.v], nodes := r.nodes })
/-- R240, R279: a sub-query that is lost ends the query with PEERDOWN, whatever its other parts report; of these only the
nodes still count. -/
def execSubqueryLost (thr idx : Nat) (s0 : State) : Res :=
  let s : State := { s0 with issue := { s0.issue with thr } }
  .next (match s.tp.subs.find? fun x => x.idx == idx with
    | none => s0
    | some x =>
      if !subLate s x then s0
      else
        let parts := s.tp.parts.map fun p => (p.1, { p.2 with status := qMISS })
        (s.updTp fun t => { t with subs := [], parts, miss := none, fltPage := none }).endQuery qPEERDOWN x.ptr.toNat)

/-! ### QLAUNCH and QTAKE -/

/-- R418; a release at DEVICE scope (R145). -/
def execQlaunch (o : DaOp) (s : State) : Res :=
  s.issuedC (.qlaunch o) fun s =>
    let lanes := if s.issue.replay then (s.sl.parked.getD {}).lanes.length else (lanesOf s.active).length
    let cap := fun (p : ParkedLane) =>
      ({ bits := BitVec.ofNat 128 (leNum (bytesOf (p.data.take 4))), tag := p.data.getD 4 0 != 0 } : Cap)
    let m : MemOp := {
      acc := .read, awaits := false, check := fun _ _ _ => none, size := 64, reads := true, ordered := true,
      perform := fun s p tgt pa =>
        let r := s.loadAt tgt pa 64
        let quads := (List.range 8).map fun i => BitVec.ofNat 64 (leNum ((r.2.drop (8 * i)).take 8))
        let n := r.1.ids + 1
        let q : QueryRec := { ctx := s.ctxId, card := s.b.card, block := s.b.no, va := p.va, quads, cap := cap p, entered := n }
        { r.1.takeId n with ingress := Tbl.upd [] r.1.ingress s.core fun l => l ++ [q] } }
    let room := (Tbl.get [] s.ingress s.core).length + lanes ≤ 256
    if s.issue.replay then
      if room then s.memRun m (s.sl.parked.getD {}).lanes id else s.waitIssued
    else s.acRelease fun s =>
      match s.laneAddrs false 64 (pLOAD + pNODE) o.sel 124 o.off o.ext s.active with
      | .error k => s.takeTrap k
      | .ok as =>
        match misaligned 64 as with
        | some (l, a) => s.takeTrap { code := 10, lane := l, info := a % 2 ^ 32 }
        | none =>
          if !room then s.waitIssued
          else
            let data := fun l =>
              let c := s.selCap o.sel l
              (List.range 4).map (fun i => c.bits.extractLsb' (32 * i) 32) ++ [if c.tag then (1 : Word) else 0]
            s.memRun m (as.map fun p => { lane := p.1, va := p.2, data := data p.1 }) id

/-- R420, R239; an acquire, at SYSTEM scope for a query handed off (R145). -/
def execQtake (v cq : Nat) (s : State) : Res :=
  s.issuedC (.qtake v cq) fun s =>
    let key := 4 * (s.core / 4) + cq
    let q := Tbl.get [] s.cqs key
    let ls := lanesOf s.active
    let mine := (q.filter fun r => r.ctx == s.ctxId).take ls.length
    let rest := mine.foldl (fun l r => l.erase r) q
    let s1 : State := { s with cqs := Tbl.set [] s.cqs key rest }
    let d := s.vname v
    let wordsAt := fun (j i : Nat) => match mine[j]? with
      | some r => wordOf (r.words.getD (i / 2) 0) (i % 2 == 1)
      | none => 0
    -- Table 20.1 places STATUS in v(V + 4) and USER in v(V + 5): the record's words in order
    let s2 := (ls.zipIdx).foldl (fun s p => s.putWords d p.1 ((List.range 8).map (wordsAt p.2))) s1
    let hand := mine.any fun r => bitsOf (r.words.getD 2 0).toNat 23 1 == 1
    let s3 := if mine.isEmpty then s2 else s2.observe s.gid (if hand then 4 else 3)
    s3.agnosticLanes d 8

end Sys2Proof.Machine
end

