-- ==== Sys2Proof/Machine/Ssu.lean ====
section
/-! DEFINITION. The sort and splat unit (12 R243 to R251, 05 R105): SPLAT and SELK (20 R432, R435), and the start and
completion of a command. -/

namespace Sys2Proof.Machine
open State

/-! ### Issue (R243, R432, R435) -/

/-- A command's descriptor address is checked and the command queued; 16 commands wait at most. -/
def State.ssuIssue (s : State) (o : DaOp) (isSplat : Bool) : State :=
  let l := (lowestLane s.active).getD 0
  let eo := s.effOff o.sel 124 o.off o.ext l
  match checkCap false (s.selCap o.sel l) eo 64 pLOAD with
  | .error sub => s.takeTrap { code := 9, sub, info := info32 eo }
  | .ok a =>
    if a % 64 != 0 then s.takeTrap { code := 10, info := a % 2 ^ 32 }
    else
      let q := Tbl.get [] s.ssus (s.core / 4)
      if 16 ≤ (q.filter fun c => !c.started).length then s.setOut .stay
      else
        let c : SsuCmd := { gid := s.gid, bid := s.bid, no := s.b.no, core := s.core, nbar := s.b.desc.nbar,
                            scrKib := s.b.desc.scr, ctx := s.ctxId, card := s.b.card, va := a, isSplat,
                            cap := s.selCap o.sel l, opthr := s.g.opthr }
        { s with ssus := Tbl.set [] s.ssus (s.core / 4) (q ++ [c]) }

def execSelk (o : DaOp) (s : State) : Res := s.issuedC (.selk o) fun s => s.ssuIssue o false
def execSplat (o : DaOp) (s : State) : Res := s.issuedC (.splat o) fun s => s.ssuIssue o true

/-! ### Descriptors (Tables 12.3, 12.4) -/

/-- Status codes of Table 12.1. -/
def sDONE : Nat := 0
def sOVFL : Nat := 1
def sBADDESC : Nat := 2
def sCAPFAIL : Nat := 3
def sPOISON : Nat := 4

structure SplatDesc where
  batch : Nat
  n : Nat
  ty0 : Nat
  tx0 : Nat
  th : Nat
  tw : Nat
  dst : Nat
  accum : Bool
  resv : Bool
  deriving DecidableEq, Repr
def SplatDesc.ofQuads (q : Nat → Nat) : SplatDesc :=
  { batch := bitsOf (q 0) 0 57, n := bitsOf (q 1) 0 32, ty0 := bitsOf (q 2) 48 16, tx0 := bitsOf (q 2) 32 16,
    th := bitsOf (q 2) 4 4 + 1, tw := bitsOf (q 2) 0 4 + 1, dst := bitsOf (q 3) 32 19, accum := bitsOf (q 4) 7 1 == 1,
    resv := bitsOf (q 0) 57 7 != 0 || bitsOf (q 1) 32 32 != 0 || bitsOf (q 2) 8 24 != 0 || bitsOf (q 3) 51 13 != 0 ||
      bitsOf (q 3) 19 13 != 0 || bitsOf (q 4) 8 56 != 0 || bitsOf (q 4) 6 1 != 0 || q 5 != 0 || q 6 != 0 || q 7 != 0 }

structure SelkDesc where
  src : Nat
  oidx : Nat
  oval : Nat
  k : Nat
  n : Nat
  desc : Bool
  type : Nat
  resv : Bool
  deriving DecidableEq, Repr
def SelkDesc.ofQuads (q : Nat → Nat) : SelkDesc :=
  { src := bitsOf (q 0) 0 57, oidx := bitsOf (q 1) 0 57, oval := bitsOf (q 2) 0 57, k := bitsOf (q 3) 32 32,
    n := bitsOf (q 3) 0 32, desc := bitsOf (q 4) 15 1 == 1, type := bitsOf (q 4) 12 3,
    resv := bitsOf (q 0) 57 7 != 0 || bitsOf (q 1) 57 7 != 0 || bitsOf (q 2) 57 7 != 0 || bitsOf (q 4) 16 48 != 0 ||
      bitsOf (q 4) 6 6 != 0 || bitsOf (q 5) 19 45 != 0 || q 6 != 0 || q 7 != 0 }

/-- Status record offset and barrier of a descriptor. -/
def ssuSts (isSplat : Bool) (q : Nat → Nat) : Nat := if isSplat then bitsOf (q 3) 0 19 else bitsOf (q 5) 0 19
def ssuBar (q : Nat → Nat) : Nat := bitsOf (q 4) 0 6

/-! ### Splats (R246 to R249) -/

/-- A splat record (Table 12.2). -/
structure Splat where
  mx : Word
  my : Word
  ca : Word
  cb : Word
  cc : Word
  key : Nat
  opa : Word
  col : List Word
  rad : Word
  deriving DecidableEq, Repr
/-- FP16 as FP32, exactly. -/
def halfWord (n : Nat) : Word := toF32 .rne (fp16.decode n)
def Splat.ofBytes (bs : List Byte) : Splat :=
  let w := fun i => leNum ((bs.drop (4 * i)).take 4)
  let q3 := leNum ((bs.drop 24).take 8)
  { mx := BitVec.ofNat 32 (w 0), my := BitVec.ofNat 32 (w 1), ca := BitVec.ofNat 32 (w 2), cb := BitVec.ofNat 32 (w 3),
    cc := BitVec.ofNat 32 (w 4), key := w 5, opa := halfWord (bitsOf q3 48 16),
    col := [halfWord (bitsOf q3 0 16), halfWord (bitsOf q3 16 16), halfWord (bitsOf q3 32 16)],
    rad := BitVec.ofNat 32 (w 8) }

/-- [m − r, m + r] meets [lo, hi], with exact ends; `open_` answers where an end is no number. -/
def spanMeets (m r : Word) (lo hi : Nat) (open_ : Bool) : Bool :=
  let a := (f32 m).add .rne (f32 r).neg
  let b := (f32 m).add .rne (f32 r)
  if a.isNan || b.isNan then open_
  else a.cmp (Num.ofInt hi) != .gt && b.cmp (Num.ofInt lo) != .lt
/-- R248. -/
def Splat.binned (x : Splat) (tx ty : Nat) (open_ : Bool) : Bool :=
  !(f32IsNan x.mx || f32IsNan x.my || f32IsNan x.rad || f32Lt x.rad 0) &&
    spanMeets x.mx x.rad (16 * tx) (16 * tx + 16) open_ && spanMeets x.my x.rad (16 * ty) (16 * ty + 16) open_

/-- One pixel on its way through its tile's records. -/
structure Pixel where
  c : List Word
  t : Word
  stopped : Bool := false
  deriving DecidableEq, Repr

/-- 0.5, 0.99, −0.5 and 2^−8 as R249 writes them, and log2 e. -/
def fHalf : Word := 0x3F000000
def fMaxAlpha : Word := 0x3F7D70A4
def fMinusHalf : Word := 0xBF000000
def fMinAlpha : Word := 0x3B800000
def fLog2e : Word := 0x3FB8AA3B
def fTwo : Word := 0x40000000

/-- The exponent pw of a record at a pixel (R249). -/
def splatPower (x : Splat) (px py : Nat) : Word :=
  let mul := f32Mul .rne
  let add := f32Add .rne
  let centre := fun n : Nat => add (toF32 .rne (Num.ofInt n)) fHalf
  let dx := f32Sub .rne (centre px) x.mx
  let dy := f32Sub .rne (centre py) x.my
  mul fMinusHalf (add (add (mul (mul x.ca dx) dx) (mul (mul x.cc dy) dy)) (mul (mul (mul fTwo x.cb) dx) dy))
/-- θ stops a pixel of transmittance t. -/
def stopsAt (θ t : Word) : Bool := !(f32 θ).isZero && !f32IsNan θ && f32Lt t θ
/-- One record at one pixel (R249). A NaN product leaves α a NaN, so that the record is passed over. -/
def visit (θ : Word) (px py : Nat) (p : Pixel) (x : Splat) : Pixel :=
  let mul := f32Mul .rne
  if p.stopped then p
  else if stopsAt θ p.t then { p with stopped := true }
  else
    let pw := splatPower x px py
    if f32IsNan pw || f32Lt 0 pw then p
    else
      let g := if (f32 pw).isZero then f32One else f32Ex2 (mul pw fLog2e)
      let og := mul x.opa g
      let α := if f32IsNan og then f32NaN else f32MinMax true og fMaxAlpha
      if f32IsNan α || f32Lt α fMinAlpha then p
      else
        { p with c := (p.c.zip x.col).map fun q => f32Add .rne q.1 (mul (mul p.t α) q.2),
                 t := mul p.t (f32Sub .rne f32One α) }

/-- The records of a tile in the order of R248, and whether some were dropped. -/
def tileRecords (rs : List Splat) (tx ty : Nat) (open_ : Nat → Bool) : List Splat × Bool :=
  let at_ := fun i => rs.getD i (Splat.ofBytes [])
  let idx := (List.range rs.length).filter fun i => (at_ i).binned tx ty (open_ i)
  let sorted := sortLanes (fun i => ((at_ i).key : Int)) idx
  ((sorted.take 16384).map at_, 16384 < sorted.length)

/-! ### Selection (R251, R105) -/

/-- The value of an element of TYPE. -/
def selkVal (type n : Nat) : Num :=
  match type with
  | 0 => decodeFmt .fp32 n
  | 1 => decodeFmt .int32 n
  | 2 => Num.ofInt n
  | 3 => decodeFmt .fp16 n
  | 4 => decodeFmt .bf16 n
  | _ => decodeFmt .t8 n
/-- Bytes of an element. -/
def selkBytes : Nat → Nat
  | 3 => 2
  | 4 => 2
  | 5 => 1
  | _ => 4
/-- a ranks below b: NaN stands above +∞. -/
def ranksBelow (a b : Num) : Bool := !a.isNan && (b.isNan || a.cmp b == .lt)
/-- Places index i, whose value `v i` ranks after equal values already placed. -/
def placeRank (before : Nat → Nat → Bool) (i : Nat) : List Nat → List Nat
  | [] => [i]
  | j :: r => if before i j then i :: j :: r else j :: placeRank before i r
/-- Every index in rank order; equal values stay in index order. -/
def rankAll (desc : Bool) (v : Nat → Num) (n : Nat) : List Nat :=
  let before := fun i j => if desc then ranksBelow (v j) (v i) else ranksBelow (v i) (v j)
  (List.range n).foldl (fun l i => placeRank before i l) []
/-- The exact sum converted once (R105). -/
def exactSum (vs : List Num) : Word := toF32 .rne (vs.foldl (Num.add .rne) (.fin false 0 0))

/-! ### The run of a command -/

namespace State

/-- Table 12.1. -/
def ssuRecord (status count : Nat) (lsum ssum : Word) : List Quad :=
  [BitVec.ofNat 64 (status * 2 ^ 56 + count), lsum ++ ssum]
/-- The end of a command that has written nothing else; the sums of a SELK that selects nothing are not stated. -/
def ssuFail (s : State) (c : SsuCmd) (status : Nat) : SsuCmd :=
  let f := fun k => BitVec.ofNat 32 (s.freeNat k)
  { c with started := true, record := if c.isSplat then ssuRecord status 0 0 0 else ssuRecord status 0 (f 1) (f 2) }

/-- What a range check needs: its address, size and permission. -/
def ssuRangesOk (c : SsuCmd) (rs : List (Nat × Nat × Nat)) : Bool :=
  rs.all fun r => match checkAddr c.cap r.1 r.2.1 r.2.2 with
    | .ok _ => true
    | .error _ => false

/-- The output of one tile: its bytes, and the pixels that stopped. -/
def tileOut (s : State) (c : SsuCmd) (d : SplatDesc) (rs : List Splat) (i : Nat) : List Byte × Nat :=
  let tx := d.tx0 + i % d.tw
  let ty := d.ty0 + i / d.tw
  let ps := (List.range 256).map fun k =>
    let old := s.scrBytes c.bid (d.dst + 4096 * i + 16 * k) 16
    let w := fun j => BitVec.ofNat 32 (leNum ((old.drop (4 * j)).take 4))
    let p0 : Pixel := if d.accum then { c := [w 0, w 1, w 2], t := w 3 } else { c := [0, 0, 0], t := f32One }
    rs.foldl (visit c.opthr (16 * tx + k % 16) (16 * ty + k / 16)) p0
  (bytesOf (ps.flatMap fun p => p.c ++ [p.t]), ps.countP (·.stopped))

/-- A SPLAT over its records. -/
def splatRun (s : State) (c : SsuCmd) (d : SplatDesc) (bs : List Byte) : SsuCmd :=
  let rs := (List.range d.n).map fun i => Splat.ofBytes ((bs.drop (48 * i)).take 48)
  let tiles := (List.range (d.tw * d.th)).map fun i =>
    (i, tileRecords rs (d.tx0 + i % d.tw) (d.ty0 + i / d.tw) fun k => s.freeBit k)
  let outs := tiles.map fun t => (d.dst + 4096 * t.1, s.tileOut c d t.2.1 t.1)
  let count := (outs.map (·.2.2)).foldl (· + ·) 0
  let words := outs.flatMap fun o => (List.range 1024).map fun k => (o.1 + 4 * k, (o.2.1.drop (4 * k)).take 4)
  { c with started := true, scr := words,
           record := ssuRecord (if tiles.any (·.2.2) then sOVFL else sDONE) count 0 0 }

/-- Two ranges overlap. -/
def meets (a n b m : Nat) : Bool := a < b + m && b < a + n

/-- A SELK over its elements; outputs that overlap the source or each other hold unspecified bytes. -/
def selkRun (s : State) (c : SsuCmd) (d : SelkDesc) (bs : List Byte) : SsuCmd :=
  let es := selkBytes d.type
  let raw := fun i => (bs.drop (es * i)).take es
  let v := fun i => selkVal d.type (leNum (raw i))
  let order := rankAll d.desc v d.n
  let sel := order.take d.k
  let idx := sel.flatMap fun i => toLe 4 i
  let val := sel.flatMap raw
  let over_ := meets d.oidx (4 * d.k) d.src (es * d.n) || meets d.oval (es * d.k) d.src (es * d.n) ||
    meets d.oidx (4 * d.k) d.oval (es * d.k)
  let any := fun (k : Nat) (l : List Byte) =>
    if over_ then (List.range l.length).map fun i => BitVec.ofNat 8 (s.freeNat (2 * i + k)) else l
  { c with started := true, glob := [(d.oidx, any 0 idx), (d.oval, any 1 val)],
           record := ssuRecord sDONE d.k (exactSum ((order.drop d.k).map v)) (exactSum (sel.map v)) }

/-- The fault record of an SSU access; the command waits for its resolve (R243). -/
def ssuFault (s : State) (cluster : Nat) (c : SsuCmd) (e : Nat × Nat × Nat) (acc : Acc) : State :=
  if e.2.1 = 0 then s
  else
    s.postFault { va := e.1, cause := e.2.1, source := 4, access := acc.code, level := e.2.2, ctx := c.ctx,
                  block := c.no, card := s.cardField c.card, pcore := c.core, group := c.gid % 32, party := .ssu cluster }
def ssuHeld (s : State) (cluster : Nat) : Bool := s.flt.open_.any fun r => r.party == .ssu cluster
def setHead (s : State) (cluster : Nat) (c : SsuCmd) : State :=
  { s with ssus := Tbl.upd [] s.ssus cluster fun l => c :: l.tail }

/-- Reads an operand range and goes on with its bytes; `scr` says that a scratchpad operand is in error. -/
def ssuRead (s : State) (cluster : Nat) (c : SsuCmd) (va n : Nat) (scr : Bool) (f : State → List Byte → SsuCmd) : State :=
  match s.engRead (some c.core) c.ctx va n with
  | (.error e, s1) => s1.ssuFault cluster c e .read
  | (.ok (bs, bad), s1) =>
    if bad || scr then (s1.logError (if bad then va else 0)).tick.setHead cluster (s1.ssuFail c sPOISON)
    else s1.tick.setHead cluster (f s1 bs)

/-- The whole run of the command at the head, once its descriptor is read (R245). -/
def ssuRunDesc (s : State) (cluster : Nat) (c0 : SsuCmd) (q : Nat → Nat) (bad : Bool) : State :=
  let sts := ssuSts c0.isSplat q
  let bar := ssuBar q
  let c := { c0 with sts, bar }
  let top := 1024 * c.scrKib
  let fail := fun (st : Nat) => s.tick.setHead cluster (s.ssuFail c st)
  if c.nbar ≤ bar || sts < 8 * c.nbar || top < sts + 16 then
    s.setHead cluster { c with started := true, report := true }
  else if bad then fail sPOISON
  else if c.isSplat then
    let d := SplatDesc.ofQuads q
    let len := 4096 * (d.tw * d.th)
    if d.resv || sts % 16 != 0 || d.batch % 16 != 0 || d.n = 0 || 65536 < d.n || 16 < d.tw * d.th || d.dst % 16 != 0 ||
        d.dst < 8 * c.nbar || top < d.dst + len || meets d.dst len sts 16 then fail sBADDESC
    else if !ssuRangesOk c [(d.batch, 48 * d.n, pLOAD)] then fail sCAPFAIL
    else
      let bad := d.accum && s.scrBadAt c.bid d.dst len
      s.ssuRead cluster c d.batch (48 * d.n) bad fun s bs => s.splatRun c d bs
  else
    let d := SelkDesc.ofQuads q
    let es := selkBytes d.type
    if d.resv || sts % 16 != 0 || 5 < d.type || d.k = 0 || d.n < d.k || 2 ^ 24 < d.n ||
        (65536 < d.k && !(d.k == d.n && d.n ≤ 2 ^ 22)) || d.src % es != 0 || d.oidx % 4 != 0 then fail sBADDESC
    else if !ssuRangesOk c [(d.src, es * d.n, pLOAD), (d.oidx, 4 * d.k, pSTORE), (d.oval, es * d.k, pSTORE)] then
      fail sCAPFAIL
    else s.ssuRead cluster c d.src (es * d.n) false fun s bs => s.selkRun c d bs

end State

/-- The command at the head of a cluster's queue starts, behind the writes that happen before it (R146): its descriptor and
operands are read and its results formed. -/
def execSsuCommandStart (cluster : Nat) (s : State) : Res :=
  .next (match Tbl.get [] s.ssus cluster with
    | [] => s
    | c :: _ =>
      let ahead := s.pending.any fun p => p.seen.contains c.gid
      if c.started || s.ssuHeld cluster || ahead then s
      else match (s.flushFar c.bid).engRead (some c.core) c.ctx c.va 64 with
        | (.error e, s1) => s1.ssuFault cluster c e .read
        | (.ok (bs, bad), s1) =>
          (if bad then s1.logError c.va else s1).ssuRunDesc cluster c
            (fun i => leNum ((bs.drop (8 * i)).take 8)) bad)

/-- The SSU's single write of one word of a SPLAT's output region, at some time while the command is outstanding
(R250). -/
def State.ssuWrite (s : State) (cluster i : Nat) : State :=
  match Tbl.get [] s.ssus cluster with
  | [] => s
  | c :: _ => match c.scr[i]? with
    | some w => (if Tbl.has s.blks c.bid then s.scrWrite c.bid w.1 w.2 else s).setHead cluster { c with scr := c.scr.eraseIdx i }
    | none => s

/-- Writes the global results of the head command in order, up to one that faults or whose line is held. -/
def State.ssuGlob (cluster : Nat) : Nat → State → State × Option (Nat × Nat × Nat)
  | 0, s => (s, none)
  | fuel + 1, s =>
    match Tbl.get [] s.ssus cluster with
    | c :: _ => (match c.glob with
      | [] => (s, none)
      | w :: ws => match s.engWrite (some c.core) c.ctx w.1 w.2 with
        | (.error e, s1) => (s1, some e)
        | (.ok (), s1) => ssuGlob cluster fuel (s1.setHead cluster { c with glob := ws }))
    | [] => (s, none)

/-- The command ends: the results not yet written, then the status record, then one arrival (R244); or the report of R245.
A command that outlives its block has no scratchpad to write to (R35; log 77). -/
def execSsuComplete (cluster : Nat) (s : State) : Res :=
  .next (match Tbl.get [] s.ssus cluster with
    | [] => s
    | c :: rest =>
      if !c.started || s.ssuHeld cluster then s
      else if c.report then
        let s1 := ({ s with ssus := Tbl.set [] s.ssus cluster rest }).postFault
          { va := c.va, cause := 7, source := 4, ctx := c.ctx, block := c.no, card := s.cardField c.card, pcore := c.core,
            group := c.gid % 32 }
        s1.updCard c.card fun k => { k with err := k.err.or (some (6, 0, 0)) }
      else
        match State.ssuGlob cluster c.glob.length s with
        | (s1, some e) => s1.ssuFault cluster c e .write
        | (s1, none) =>
          let done : State := { s1 with ssus := Tbl.set [] s1.ssus cluster rest }
          if !Tbl.has done.blks c.bid then done
          else
            let s2 := c.scr.foldl (fun s w => s.scrWrite c.bid w.1 w.2) done
            let s3 := s2.scrWrite c.bid c.sts (c.record.flatMap fun q => toLe 8 q.toNat)
            s3.arrive c.bid c.bar false (s3.rankOf c.bid))

end Sys2Proof.Machine
end

