-- ==== Sys2Proof/Machine/Tasks.lean ====
section
/-! DEFINITION. INBOX, COMMIT and JOBPOST (13 R265, R266, R268; 19 R385 to R387), and the posting of task records
(06 R125, R126; 13 R265). -/

namespace Sys2Proof.Machine
open State

namespace State

/-! ### INBOX and COMMIT -/

/-- Writes a record's quads 0 to 7 to s16 to s23, tags cleared. -/
def putRecord (s : State) (quads : List Quad) : State :=
  (List.range 8).foldl (fun s i => s.swrite (16 + i) (quads.getD i 0)) s

/-- A record that a block may take (R265, R266). -/
def forBlock (b : Block) (r : InboxRec) : Bool := r.ctx == b.ctx && r.descVa == b.descVa
/-- Splits of a core that wait in INBOX for such a record go on (R385). -/
def wakeInbox (s : State) (core ctx descVa : Nat) : State :=
  { s with grps := s.grps.map fun p =>
      let b := s.blk (bidOf p.1)
      if b.core == core && b.ctx == ctx && b.descVa == descVa then
        (p.1, { p.2 with slots := p.2.slots.map fun q =>
          if q.2.waitFor = .inbox then (q.1, { q.2 with wait := .ready, waitFor := .none }) else q })
      else p }

end State

/-- R385; the return of a record is an acquire at DEVICE scope (R147). -/
def execInbox (s : State) : Res :=
  s.issuedC .inbox fun s0 =>
    let s := s0.retireTask s0.gid
    let q := Tbl.get [] s.inbox s.core
    match q.find? (forBlock s.b) with
    | none => (s.updSl fun sl => { sl with wait := .long, waitFor := .inbox }).setOut .stay
    | some r =>
      let s1 : State := { s with inbox := Tbl.set [] s.inbox s.core (q.erase r) }
      let t : TaskState := { record := r.quads, pins := r.pins, card := r.card,
                             restart := BitVec.ofNat 54 (s.issue.addr / 8) }
      ((s1.putRecord r.quads).updGrp s.gid fun g => { g with task := some t }).observe s.gid 3

/-- R386. -/
def execCommit (s : State) : Res :=
  s.issuedC .commit fun s =>
    s.updGrp s.gid fun g => { g with task := g.task.map fun t => { t with committed := true } }

/-! ### JOBPOST -/

namespace State

/-- The entry that JOBPOST writes (Table 13.2). -/
def postEntry (cap : Cap) (va : Nat) : List Byte :=
  toLe 8 (2 ^ 63 + va) ++ toLe 16 cap.bits.toNat ++ toLe 8 0

/-- Appends an entry and advances HBX_QTAIL (R268). -/
def appendEntry (s : State) (q : Nat) (cap : Cap) (va : Nat) : State :=
  let qu := s.queue q
  let a := qu.entryAt qu.tail.toNat
  if s.blocked qu.tgt a 32 then s.setOut .stay
  else
    (s.engPut qu.tgt a (postEntry cap va)).updQueue q fun x =>
      { x with tail := BitVec.ofNat 16 ((x.tail.toNat + 1) % x.len) }

end State

/-- R268, R387; a release at DEVICE scope (R147). -/
def execJobpost (q : Nat) (o : DaOp) (s : State) : Res :=
  s.issuedC (.jobpost q o) fun s => s.release 3 fun s =>
    let l := (lowestLane s.active).getD 0
    let c := s.selCap o.sel l
    let eo := s.effOff o.sel 124 o.off o.ext l
    match checkCap false c eo 128 pLOAD with
    | .error sub => s.takeTrap { code := 9, sub, info := info32 eo }
    | .ok a =>
      let qu := s.queue q
      if a % 128 != 0 then s.takeTrap { code := 9, sub := subALIGN, info := info32 eo }
      else if !qu.en || !qu.devpost || qu.ctx != s.ctxId then s.takeTrap { code := 14, info := q }
      else if qu.full then (s.updSl fun sl => { sl with wait := .long, waitFor := .jobpost q }).setOut .stay
      else s.appendEntry q c a

/-- R468: the ring of a waiting JOBPOST has room, and the split goes on. -/
def execJobpostResume (gid slot : Nat) (s : State) : Res :=
  .next (match (s.slotAt gid slot).waitFor with
    | .jobpost q =>
      if (s.queue q).full then s else s.updSlot gid slot fun sl => { sl with wait := .ready, waitFor := .none }
    | _ => s)

/-! ### Posting records (R125, R265) -/

/-- A footprint of a record (Table 13.6). -/
structure Foot where
  pin : Bool
  base : Nat
  len : Nat
  soff : Nat
  deriving DecidableEq, Repr

/-- Footprint i of a record, if present. -/
def footOf (quads : List Quad) (i : Nat) : Option Foot :=
  let a := (quads.getD (4 + 2 * i) 0).toNat
  let b := (quads.getD (5 + 2 * i) 0).toNat
  if bitsOf a 63 1 = 1 then
    some { pin := bitsOf a 62 1 == 1, base := bitsOf a 0 57, len := 128 * (bitsOf b 32 9 + 1), soff := 128 * bitsOf b 0 12 }
  else none
def feet (quads : List Quad) : List Foot := (List.range 2).filterMap (footOf quads)

namespace State

/-- Lines pinned in one L1. -/
def pinned (s : State) (core : Nat) : List Nat :=
  (s.lines.filter fun p => p.1 % 256 == core && p.2.pins != 0).map fun p => p.1 / 256
/-- The pins of `ls` keep within 1,024 lines and 4 ways of a set in each L1 that takes them. -/
def pinsFit (s : State) (core : Nat) (ls : List Nat) : Bool :=
  (List.range 152).all fun c =>
    let mine := ls.filter fun l => s.l1Core core l == c
    let all := mine.foldl (fun a l => if a.contains l then a else a ++ [l]) (if mine.isEmpty then [] else s.pinned c)
    all.length ≤ 1024 && all.all fun l => (all.filter fun m => s.l1Set c m == s.l1Set c l).length ≤ 4

/-- A core that had left powers up its L1 and joins again, with no line (R166). -/
def joinCore (s : State) (core : Nat) : State := { s with left := Tbl.erase s.left core }
/-- Brings a line into the receiving L1, shared, and pins it. -/
def pinLine (s : State) (core line : Nat) : State :=
  let s1 := ((s.joinCore (s.l1Core core line)).applyAllFar line).shareLine core line
  let c := s1.l1Core core line
  let l := s1.l1 c line
  s1.setL1 c line { l with pins := l.pins + 1 }
/-- The device lines of a range, or its first fault; no lines for a target that no L1 caches. -/
def rangeLines (s : State) (ctx va n : Nat) : Except (Nat × Nat × Nat) (List Nat) × State :=
  (pieces va n).foldl (fun r p => match r with
    | (.error e, s) => (.error e, s)
    | (.ok l, s) => match s.translate none ctx p.1 .read with
      | (.fault c lv, s) => (.error (p.1, c, lv), s)
      | (.ok tgt pa, s) => (.ok (if tgt = 0 then l ++ linesOf pa p.2 else l), s)) (.ok [], s)

/-- The blocks of a card's descriptor that are RESIDENT on a core (R265, 02 Table 2.4). -/
def loopBlocks (s : State) (ctx descVa core : Nat) : List Nat :=
  (s.blks.filter fun p => p.2.core == core && p.2.ctx == ctx && p.2.descVa == descVa && !p.2.stopped &&
    p.2.phase == .resident).map (·.1)
/-- Physical core of a %core. -/
def physCore (s : State) (n : Nat) : Nat := 4 * ((s.computeClusters)[n / 4]?.getD 0) + n % 4
/-- Compute cores in increasing %core. -/
def computeCores (s : State) : List Nat := s.computeClusters.flatMap fun c => (List.range 4).map (4 * c + ·)
/-- The core that takes a card's next record: the first after the last one that holds a resident block and has room. -/
def postCore (s : State) (k : Card) (descVa : Nat) : Option Nat :=
  let cs := s.computeCores
  let start := match k.lastCore with
    | some c => cs.findIdx (· == c) + 1
    | none => 0
  (cs.drop start ++ cs.take start).find? fun c =>
    !(s.loopBlocks k.ctx descVa c).isEmpty && (Tbl.get [] s.inbox c).length < 16

/-- Performs a COPY footprint into block `bid`; sectors in error are copied as zero (Table 15.3). -/
def footCopy (s : State) (ctx bid : Nat) (f : Foot) : Except (Nat × Nat × Nat) State :=
  match s.engRead none ctx f.base f.len with
  | (.error e, _) => .error e
  | (.ok (bs, bad), s1) =>
    if !bad then .ok (s1.scrWrite bid f.soff bs)
    else
      let piece := fun (r : State × List Byte) (p : Nat × Nat) =>
        match r.1.translate none ctx p.1 .read with
        | (.ok tgt pa, s2) =>
          let x := s2.cpeBytes tgt pa p.2
          (x.2.foldl logError s2, r.2 ++ x.1)
        | (.fault _ _, s2) => (s2, r.2)
      let r := (pieces f.base f.len).foldl piece (s1, [])
      .ok ((r.1.scrWrite bid f.soff r.2).asyncError bid)

/-- Pins a PIN footprint on a core: the lines pinned, or the first fault; cause 0 is a held line. -/
def footPin (s : State) (ctx core : Nat) (f : Foot) : Except (Nat × Nat × Nat) (State × List Nat) :=
  match s.rangeLines ctx f.base f.len with
  | (.error e, _) => .error e
  | (.ok ls, s1) => if ls.any s1.lineHeld then .error (0, 0, 0) else .ok (ls.foldl (fun s l => s.pinLine core l) s1, ls)
/-- The footprints of a record on a core: the state and its pins, or the first fault. Where several resident blocks share
the descriptor, the spec does not say whose scratchpad receives a COPY, so one is chosen freely. -/
def doFeet (s : State) (ctx core bid : Nat) (fs : List Foot) : Except (Nat × Nat × Nat) (State × List Nat) :=
  fs.foldl (fun r f => match r with
    | .error e => .error e
    | .ok (s, pins) =>
      if f.pin then (s.footPin ctx core f).map fun x => (x.1, pins ++ x.2)
      else (s.footCopy ctx bid f).map fun s1 => (s1, pins)) (.ok (s, []))
/-- The lines a record would pin, where they translate. -/
def footLines (s : State) (ctx : Nat) (fs : List Foot) : List Nat :=
  (fs.filter (·.pin)).flatMap fun f => match (s.rangeLines ctx f.base f.len).1 with
    | .ok ls => ls
    | .error _ => []

/-- Address of the descriptor that a card names. -/
def descOf (k : Card) : Nat := bitsOf (k.quads.getD 3 0).toNat 0 57
/-- Records that were to go to a core go back, ahead of those without a core (R265). -/
def unassign (core : Nat) (k : Card) : Card :=
  { k with assigned := k.assigned.filter (·.1 != core),
           unposted := ((k.assigned.filter (·.1 == core)).map (·.2)) ++ k.unposted }
/-- A record's pins keep within the limits of its core (R125). -/
def recordFits (s : State) (k : Card) (core : Nat) (quads : List Quad) : Bool :=
  s.pinsFit core (s.footLines k.ctx (feet quads))
/-- Posts a record to the core that it is assigned to; a fault of its footprints holds it. -/
def postTo (s : State) (c core : Nat) (quads : List Quad) : State :=
  let k := s.card c
  let bid := (s.choose 50 (s.loopBlocks k.ctx (descOf k) core)).getD 0
  match s.tick.doFeet k.ctx core bid (feet quads) with
  | .error e => (s.translate none k.ctx e.1 .read).2.cardFault c e 0
  | .ok (s1, pins) =>
    let r : InboxRec := { ctx := k.ctx, descVa := descOf k, card := c, quads, pins }
    let s2 : State := { s1 with inbox := Tbl.upd [] s1.inbox core fun l => l ++ [r] }
    let s3 := s2.updCard c fun k => { k with assigned := k.assigned.erase (core, quads), posted := k.posted + 1 }
    s3.wakeInbox core k.ctx (descOf k)
/-- Posts one record of a card. One whose pins would pass a limit of its core waits for that core, and the records behind it
go on (R125, R265). -/
def postRecord (s : State) (c : Nat) : State :=
  let k := s.card c
  let takes := fun (a : Nat × List Quad) =>
    !(s.loopBlocks k.ctx (descOf k) a.1).isEmpty && (Tbl.get [] s.inbox a.1).length < 16 && s.recordFits k a.1 a.2
  match k.assigned.find? takes with
  | some a => s.postTo c a.1 a.2
  | none =>
    match k.unposted, s.postCore k (descOf k) with
    | quads :: rest, some core =>
      let s1 := s.updCard c fun k =>
        { k with unposted := rest, assigned := k.assigned ++ [(core, quads)], lastCore := some core }
      if s1.recordFits k core quads then s1.postTo c core quads else s1
    | _, _ => s

/-- A record goes back to its card, ahead of those not yet posted; its pins are released (R265, R267). -/
def repost (s : State) (core card : Nat) (quads : List Quad) (pins : List Nat) : State :=
  (s.unpin core pins).updCard card fun k => { k with unposted := quads :: k.unposted, posted := k.posted - 1 }

end State

/-- TASK_POST for card `c` (R265). -/
def execTaskPost (c : Nat) (s : State) : Res :=
  .next (
    let k := s.card c
    let posts := k.desc.isSome && k.succ.isNone &&
      (k.phase == .ready || k.phase == .tokens || k.phase == .running)
    if !posts || k.fltWait || (k.unposted.isEmpty && k.assigned.isEmpty) || (s.ctx k.ctx).suspended then s else s.postRecord c)

end Sys2Proof.Machine
end

