-- ==== Sys2Proof/Machine/Cards.lean ====
section
/-! DEFINITION. Job cards (13 R256 to R259, R263), kernel descriptors (02 R26, R27) and task records (13 R262, 06 R124) as
the Headbox reads and checks them. -/

namespace Sys2Proof.Machine
open State

/-! ### CRC-32C (R256) -/

/-- One bit of the reflected CRC. -/
def crcBit (c : Word) : Word := if c.getLsbD 0 then (c >>> 1) ^^^ 0x82F63B78 else c >>> 1
def crcByte (c : Word) (b : Byte) : Word :=
  (List.range 8).foldl (fun c _ => crcBit c) (c ^^^ b.zeroExtend 32)
def crc32c (bs : List Byte) : Word := bs.foldl crcByte 0xFFFFFFFF ^^^ 0xFFFFFFFF

/-! ### The card (Tables 13.3, 13.4) -/

/-- Quads of 8 bytes each. -/
def quadsOf (bs : List Byte) : List Quad :=
  (List.range (bs.length / 8)).map fun i => BitVec.ofNat 64 (leNum ((bs.drop (8 * i)).take 8))

/-- VALID is set and the CRC matches (R258). -/
def cardOk (bs : List Byte) : Bool :=
  let q := quadsOf bs
  (q.getD 0 0).getLsbD 63 && crc32c (bs.take 8 ++ (bs.drop 16).take 88) == BitVec.ofNat 32 ((q.getD 13 0).toNat % 2 ^ 32)

/-- Fields of a card by quad. -/
def cq_ (q : List Quad) (i lo n : Nat) : Nat := bitsOf (q.getD i 0).toNat lo n
def cardKind (q : List Quad) : Nat := cq_ q 0 56 4
def cardQsel (q : List Quad) : Nat := cq_ q 0 48 5
def cardIrq (q : List Quad) : Bool := cq_ q 0 47 1 == 1
def cardCont (q : List Quad) : Bool := cq_ q 0 46 1 == 1
def kGRID : Nat := 1
def kTASK : Nat := 2
def kCOPY : Nat := 3
def kSIGNAL : Nat := 4
def kWATCH : Nat := 5
def kCHAIN : Nat := 6

/-- Every one of the quads is zero. -/
def zeroQuads (q : List Quad) (is : List Nat) : Bool := is.all fun i => q.getD i 0 == 0
/-- The body quads 3 to 12 keep their reserved bits at zero (Table 13.4). -/
def bodyOk (q : List Quad) : Bool :=
  let z := fun i lo n => cq_ q i lo n == 0
  match cardKind q with
  | 1 => z 3 57 7 && z 4 32 32 && zeroQuads q [7, 8, 9, 10, 11, 12]
  | 2 => z 3 57 7 && z 4 13 50 && z 7 57 7 && z 10 16 48 && zeroQuads q [11, 12]
  | 3 => z 3 57 7 && z 4 57 7 && z 5 48 16 && zeroQuads q [6, 7, 8, 9, 10, 11, 12] && q.getD 5 0 != 0
  | 4 => z 3 57 7 && zeroQuads q [5, 6, 7, 8, 9, 10, 11, 12] && z 3 0 3
  | 5 => z 3 57 7 && z 5 32 32 && zeroQuads q [6, 7, 8, 9, 10, 11, 12] && z 3 0 3
  | 6 => (List.range 10).all fun i => z (3 + i) 57 7
  | _ => false
/-- A card that passes VALID and CRC but completes with BADCARD (R258); `same` says that QSEL names a queue of the card's
context. -/
def badCard (q : List Quad) (same : Bool) : Bool :=
  cq_ q 0 60 3 != 0 || cq_ q 0 53 3 != 0 || cq_ q 0 0 46 != 0 || cq_ q 1 32 32 != 0 || cq_ q 2 57 7 != 0 ||
    cq_ q 13 32 32 != 0 || cq_ q 14 32 16 != 0 || !bodyOk q || !same

/-- The successors that a card releases: NEXT and, for CHAIN, each SUCCn that is not zero (R257). -/
def successors (q : List Quad) : List Nat :=
  ((cq_ q 2 0 57) :: (if cardKind q = kCHAIN then (List.range 10).map fun i => cq_ q (3 + i) 0 57 else [])).filter (· != 0)

/-! ### The kernel descriptor (Table 2.2) -/

def Desc.ofQuads (q : List Quad) : Desc :=
  { entry := cq_ q 0 0 57, tok := cq_ q 1 29 6, mxs := cq_ q 1 28 1 == 1, fuse := cq_ q 1 27 1 == 1,
    gang := cq_ q 1 25 2, nbar := cq_ q 1 18 7, scr := cq_ q 1 9 9, nreg := cq_ q 1 5 4, ngrp := cq_ q 1 0 5,
    stream := cq_ q 2 0 57, roles := q.getD 3 0, fmt := BitVec.ofNat 32 (cq_ q 4 0 32) }
/-- Role code of group g. -/
def Desc.roleOf (d : Desc) (g : Nat) : Nat := bitsOf d.roles.toNat (2 * g) 2
/-- R27, for the descriptor; %fmt's reserved bits are checked too (05). -/
def descBad (q : List Quad) (d : Desc) : Bool :=
  cq_ q 0 57 7 != 0 || cq_ q 1 35 29 != 0 || cq_ q 2 57 7 != 0 || cq_ q 4 32 32 != 0 || !zeroQuads q [5, 6, 7] ||
    32 < d.tok || 64 < d.nbar || 384 < d.scr || d.nreg == 0 || ((List.range 32).any fun g => d.roleOf g == 3) ||
    d.fmt &&& ~~~State.fmtMask != 0 ||
    d.entry % 8 != 0 || d.stream % 8 != 0 || 1024 * d.scr < 8 * d.nbar || (d.fuse && d.gang != 3) ||
    (!d.mxs && (d.stream != 0 || d.tok != 0 || d.roles != 0)) || (d.mxs && d.tok == 0) ||
    (d.mxs && (!((List.range 32).any fun g => d.roleOf g == 1) ||
      (List.range 32).any fun g => d.ngrp < g && d.roleOf g != 0))

/-- Blocks per gang. -/
def Desc.gangSize (d : Desc) : Nat := d.gang + 1

/-! ### Capabilities of a card (R263) -/

/-- The launch capability, or none where the card completes with LAUNCHCFG. -/
def launchCap (k : Card) : Option Cap :=
  let bits := k.quads.getD 6 0 ++ k.quads.getD 5 0
  let c : Cap := { bits, tag := true }
  match k.dev with
  | some d => if bits = 0 then some d else none
  | none => if c.resv = 0 && c.exp ≤ 47 then some c else none
/-- The check of a COPY card of a DEV entry. -/
def copyCapOk (k : Card) : Bool :=
  match k.dev with
  | none => true
  | some d =>
    let len := cq_ k.quads 5 0 48
    let ok := fun (a perm : Nat) => match checkAddr d a len perm with
      | .ok _ => true
      | .error _ => false
    ok (cq_ k.quads 3 0 57) pCOPYSRC && ok (cq_ k.quads 4 0 57) pCOPYDST

/-! ### Task records (Table 13.6, R124, R262) -/

/-- One footprint of a record obeys Table 13.6 and R124. -/
def footOk (q : List Quad) (i : Nat) (d : Desc) (cap : Cap) : Bool :=
  let a := (q.getD (4 + 2 * i) 0).toNat
  let b := (q.getD (5 + 2 * i) 0).toNat
  bitsOf a 57 5 == 0 && bitsOf b 41 23 == 0 && bitsOf b 12 20 == 0 &&
    (match footOf q i with
      | none => a == 0 && b == 0
      | some f =>
        f.base % 128 == 0 &&
          (match checkAddr cap f.base f.len pLOAD with
            | .ok _ => true
            | .error _ => false) &&
          (f.pin || (8 * d.nbar ≤ f.soff && f.soff + f.len ≤ 1024 * d.scr)))
def recordOk (q : List Quad) (d : Desc) (cap : Cap) : Bool := footOk q 0 d cap && footOk q 1 d cap

end Sys2Proof.Machine
end

