-- ==== Sys2Proof/Machine/Coherence.lean ====
section
/-! DEFINITION. The messages between the home and the caching agents (08 R157 to R168), one by one: requests, invalidations,
acknowledgements and recalls. An access of a core makes the same transactions whole (Machine/Mem.lean) when no request is in
progress on its line. -/

namespace Sys2Proof.Machine
open State

namespace State

/-- An agent discards its copy, if it holds one (R161). -/
def discard (s : State) (ag line : Nat) : State :=
  if ag < 152 then s.dropCopy ag line
  else { s with ncache := Tbl.erase s.ncache (ncKey line (ag - 152)), ncUsed := Tbl.erase s.ncUsed (ncKey line (ag - 152)) }
/-- The agent may hold the line: it is in service (R10, R166), and on a fused cluster an L1 is the one that R116 names. -/
def mayHold (s : State) (ag line : Nat) : Bool := s.agentOn ag && (152 ≤ ag || s.l1Core ag line == ag)

end State

/-- R160, R162. -/
def execReadRequest (ag line : Nat) (s : State) : Res := .next (if s.mayHold ag line then s.request line (.read ag) else s)
/-- R160, R161. -/
def execOwnRequest (core line : Nat) (data : Bool) (s : State) : Res :=
  .next (if core < 152 && s.mayHold core line then s.request line (.own core data) else s)
/-- R160, R163: the home's data joins the invalid words of an owned line. -/
def execFillRequest (core line : Nat) (s : State) : Res :=
  .next (if core < 152 && s.mayHold core line && (s.l1 core line).owned then s.request line (.fill core) else s)

/-- A recipient discards its copy and acknowledges to the requester. -/
def execInvalidationReceipt (ag line : Nat) (s : State) : Res :=
  .next (match s.txns.lookup line with
    | none => s
    | some x =>
      match x.msgs.find? fun m => match m with
          | .inv a _ => a == ag
          | _ => false with
      | some (.inv a dst) =>
        (s.discard ag line).setTxn line { x with msgs := x.msgs.erase (.inv a dst) ++ [.ack a dst] }
      | _ => s)

/-- The requester counts an acknowledgement. With the grant and exactly ACKN of them it owns the line, once its set has a way,
and may write (R161 step 3); then it sends its completion. -/
def execAcknowledgement (core line : Nat) (s : State) : Res :=
  .next (match s.txns.lookup line with
    | none => s
    | some x =>
      let ack := x.msgs.find? fun m => match m with
        | .ack _ d => d == core
        | _ => false
      let x1 : Txn := match ack with
        | some m => { x with msgs := x.msgs.erase m, acks := x.acks + 1 }
        | none => x
      match x.kind with
      | .own c data =>
        if c != core || !x1.granted || x1.acks != x1.ackn then s.setTxn line x1
        else if s.completing core line then
          s.setTxn line (if x1.msgs.contains (.completion core) then x1 else { x1 with msgs := x1.msgs ++ [.completion core] })
        else if s.hasRoom core line then
          let s1 := s.makeRoom core line
          let l := s1.l1 core line
          let l1 : L1Line := { l with owned := true, valid := if data then -1 else l.valid }
          ((s1.setL1 core line l1).useL1 core line).setTxn line x1
        else s.setTxn line x1
      | _ => s)

/-- The completion reaches the home: the entry names the new owner, and the next request is served. -/
def execOwnCompletion (line : Nat) (s : State) : Res :=
  .next (match s.txns.lookup line with
    | none => s
    | some x =>
      match x.kind with
      | .own core _ =>
        if x.msgs.contains (.completion core) then
          let d := { s.dir line with st := .x, coarse := false, cpe := false, shr := 0, ptrs := [core] }
          serveQueue line x.queue (s.setDir line d)
        else s
      | _ => s)

/-- The owner answers a recall with its dirty words, or with "evicted" when it no longer holds the line (Table 8.3). -/
def execRecallLine (line : Nat) (s : State) : Res :=
  .next (match s.txns.lookup line with
    | none => s
    | some x =>
      match x.msgs.find? fun m => match m with
          | .recall _ _ => true
          | _ => false with
      | some (.recall owner down) =>
        (match x.kind with
        | .read ag => serveQueue line x.queue (s.grantRead ag line)
        | _ =>
          let s1 := if down then s.cleanLine line else (s.cleanLine line).discard owner line
          let s2 := s1.setDir line { s1.dir line with st := .i, coarse := false, cpe := false, ptrs := [], shr := 0 }
          s2.setTxn line { x with msgs := x.msgs.erase (.recall owner down), granted := true })
      | _ => s)

/-- R164: the dirty words of a line are merged at the home. -/
def execWriteBack (line : Nat) (s : State) : Res := .next (if s.lineBusy line then s else s.cleanLine line)

/-- R165: an L1 or a node cache drops a line and its notice is resolved at the home. A pinned line is never dropped. -/
def execEvictionNotice (core line : Nat) (s : State) : Res :=
  .next (
    if 152 ≤ core then (if s.lineBusy line then s.discard core line else s.ncDrop line (core - 152))
    else if (s.l1 core line).pins != 0 || s.completing core line then s
    else s.evictLine core line)

/-- R168: the i-th reduction sent enters its line's queue. -/
def execFarReductionAccept (i : Nat) (s : State) : Res := .next (s.acceptFar i)
/-- R168: the home applies the oldest reduction of a line, after the recall or invalidation that it needs; the requests that
waited for the last one are then served. -/
def execFarReductionApply (line : Nat) (s : State) : Res :=
  .next (
    let d := s.dir line
    let busy := (s.txns.lookup line).any fun x => x.kind != .idle || x.queue.head?.any (·.1 == 0)
    if (d.st == .x && d.cpe) || busy then s else (s.applyFar line).serveFreed line)

end Sys2Proof.Machine
end

