-- ==== Sys2Proof/Machine/Faults.lean ====
section
/-! DEFINITION. The fault unit (09 R187, R190 to R193, 08 R170): records written to the ring, resolves, invalidations,
replays and page walks. -/

namespace Sys2Proof.Machine
open State

namespace State

/-- Boot is complete: BAR2 and every BAR0 block are served (R300). -/
def served (s : State) : Bool := s.dev.bootDone

/-! ### Posted writes of the host (07 R153) -/

/-- One posted write becomes visible: at or above U, and in the firmware region, it is discarded (R109, R299). -/
def showWrite (s : State) (a : Nat) (bs : List Byte) : State :=
  let lo := min bs.length (s.fwEnd - a)
  let s1 := if lo = 0 then s else s.countRefusal
  let top := s.usable
  let kept := (bs.take (top - a)).drop lo
  s1.engPut 0 (a + lo) kept

/-- The first posted write that may become visible now: none of its requester stands before it unless its Relaxed
Ordering attribute is set, and its lines are free. -/
def nextPosted (s : State) : List (Nat × Bool × Nat × List (BitVec 8)) → List Nat → Option (Nat × Bool × Nat × List (BitVec 8))
  | [], _ => none
  | w :: rest, reqs =>
    if (w.2.1 || !reqs.contains w.1) && !s.blocked 0 w.2.2.1 w.2.2.2.length then some w
    else s.nextPosted rest (w.1 :: reqs)
/-- Makes visible every posted write that may be. -/
def drainFuel : Nat → State → State
  | 0, s => s
  | fuel + 1, s =>
    match s.nextPosted s.dev.posted [] with
    | none => s
    | some w => drainFuel fuel ({ s with dev := { s.dev with posted := s.dev.posted.erase w } }.showWrite w.2.2.1 w.2.2.2)
def drainPosted (s : State) : State := drainFuel s.dev.posted.length s
/-- Some posted write of a requester is not yet visible. -/
def awaitsPosted (s : State) (req : Nat) : Bool := s.dev.posted.any fun w => w.1 == req

/-! ### The ring (R191, R192) -/

/-- The 32 bytes of a record (Table 9.4). -/
def recordBytes (r : FaultRec) : List Byte :=
  toLe 8 (r.va % 2 ^ 57) ++
    toLe 8 (r.cause * 2 ^ 56 + r.source * 2 ^ 52 + r.access * 2 ^ 50 + r.level * 2 ^ 47 + r.ctx * 2 ^ 16 + r.fid) ++
    toLe 8 (r.block * 2 ^ 32 + r.card) ++
    toLe 8 (r.pcore * 2 ^ 56 + r.group * 2 ^ 51 + r.slot * 2 ^ 49 + r.unf.toNat)
/-- log2 of the ring's length. -/
def fltBits (s : State) : Nat :=
  let k := s.flt.ringsize.toNat
  if 6 ≤ k && k ≤ 16 then k else 6

end State

/-- The oldest record held is written at FLT_TAIL, unless the ring is full. -/
def execFaultRecord (s : State) : Res :=
  .next (match s.flt.held with
    | [] => s
    | r :: rest =>
      let n := 2 ^ s.fltBits
      let tail := s.flt.tail.toNat % n
      let head := s.flt.head.toNat % n
      let tgt := if s.flt.ringbase.getLsbD 63 then 1 else 0
      let a := bitsOf s.flt.ringbase.toNat 12 45 * 4096 + 32 * tail
      if (tail + 1) % n = head || s.blocked tgt a 32 then s
      else
        let s1 := s.engPut tgt a (recordBytes r)
        let s2 : State := { s1 with flt := { s1.flt with held := rest, tail := BitVec.ofNat 64 ((tail + 1) % n) } }
        if tail = head then s2.postMsi 0 else s2)

/-- The host driver advances FLT_HEAD. -/
def execFltHeadWrite (v : BitVec 64) (s : State) : Res :=
  .next (if s.served then { s with flt := { s.flt with head := v } } else s)

/-! ### Resolve (R193) -/

namespace State

/-- One fault fewer in the frame of a swapped block. -/
def lowerNflt (s : State) (bid : Nat) : State :=
  if (s.blk bid).phase = .swapped then
    let n := (s.blk bid).nflt - 1
    let s1 := s.updBlk bid fun b => { b with nflt := n }
    match s1.frameAt bid with
    | some a => s1.homeWrite (a + 28) (toLe 1 n)
    | none => s1
  else s
/-- The split's page is there: it may issue again once some lane can go on. -/
def resolveSplit (s : State) (gid slot : Nat) : State :=
  let s1 := s.updSlot gid slot fun sl =>
    match sl.parked with
    | none => sl
    | some p =>
      let p1 : Parked := { p with pages := [] }
      { sl with wait := .ready, parked := some { p1 with resolved := p1.fetch || Parked.canGo p1 } }
  s1.lowerNflt (bidOf gid)
/-- The same for the matrix sequencer. -/
def resolveSeq (s : State) (bid : Nat) : State :=
  let s1 := s.updSeq bid fun q => { q with st := if q.st = .fetchWait then .run else q.st, fltPage := none }
  s1.lowerNflt bid
/-- The SSU tries again by itself, no record of its being open; a TRP thread goes on if it waits on that record; a copy replays
the ranges of its fix-up list that hold the segment (R194). -/
def resolveParty (s : State) (r : FaultRec) : State :=
  match r.party with
  | .split gid slot => s.resolveSplit gid slot
  | .seq bid => s.resolveSeq bid
  | .trp thr =>
    let t := s.trpAt thr
    if t.phase = .fault && t.fltPage = some r.va && t.ctx = r.ctx then s.setTrp thr { t with phase := .run, fltPage := none } else s
  | .headbox c => s.updCard c fun k => { k with fltWait := false }
  | .copy cid => s.dueRanges cid r
  | .ssu _ | .none => s

end State

/-- R193: after the requester's earlier posted writes. -/
def execResolve (req : Nat) (v : BitVec 64) (s : State) : Res :=
  let s0 := s.drainPosted
  .next (if !s.served then s
    else if s0.awaitsPosted req then s0
    else
      let ctx := bitsOf v.toNat 16 16
      let code := bitsOf v.toNat 0 3
      let base := bitsOf s0.flt.resva.toNat 12 45 * 4096
      let hit := s0.flt.open_.filter fun r => r.ctx == ctx && rangeCovers code base r.va
      let s1 : State := { s0 with flt := { s0.flt with open_ := s0.flt.open_.filter fun r => !hit.contains r } }
      hit.foldl resolveParty s1)

/-! ### Invalidation (R187) -/

/-- A write to FLT_INVCTL: the covered entries are removed from every TLB, and BUSY is set. Every walk of the model is whole,
so that none is under way. -/
def execInvalidation (v : BitVec 64) (s : State) : Res :=
  .next (if !s.served then s
    else
      let ctx := bitsOf v.toNat 16 16
      let code := bitsOf v.toNat 0 3
      let base := bitsOf s.flt.invva.toNat 12 45 * 4096
      let pages := s.coveredPages ctx code base
      let s1 := s.invalidateTlbs ctx code base
      { s1 with flt := { s1.flt with invctl := BitVec.ofNat 64 (2 ^ 63 + ctx * 2 ^ 16 + code),
                                     invalidating := s1.flt.invalidating ++ [(ctx, code, base, pages)] } })
/-- An invalidation is complete once every access translated through a removed entry has performed; BUSY clears with the
last. The old pages may then be used again. -/
def execInvalidationComplete (s : State) : Res :=
  let waits := fun (x : Nat × Nat × Nat × List (Nat × Nat)) => s.translatedLeft x.1 x.2.1 x.2.2.1 x.2.2.2
  let left := s.flt.invalidating.filter waits
  let s1 := (s.flt.invalidating.filter fun x => !waits x).foldl (fun s x => s.noteMoved x.1) s
  .next { s1 with flt := { s.flt with
    invalidating := left, invctl := if left.isEmpty then s.flt.invctl &&& 0x7FFFFFFFFFFFFFFF else s.flt.invctl } }

/-! ### The reduction fault count (R170) -/

/-- A write of 0 clears the count of the context that FLT_RFSEL names and releases its held splits. -/
def execFltRfcountClear (v : BitVec 64) (s : State) : Res :=
  .next (if !s.served || v != 0 then s
    else
      let c := bitsOf s.flt.rfsel.toNat 0 16
      let s1 := if Tbl.has s.ctxs c then s.updCtx c fun k => { k with rfcount := 0 } else s
      let free := fun (p : Nat × Slot) =>
        if p.2.parked.any (·.rflog) then (p.1, { p.2 with wait := .ready, parked := none }) else p
      { s1 with grps := s1.grps.map fun p =>
          if (s1.blk (bidOf p.1)).ctx == c then (p.1, { p.2 with slots := p.2.slots.map free }) else p })

/-! ### Replay (R190) -/

/-- The memory C-words that can park, by their meanings. -/
def memExec (i : Instr) (s : State) : Res :=
  match i with
  | .ld sz o => execLd sz o s
  | .ldInv sz o => execLdInv sz o s
  | .st sz o => execSt sz o s
  | .ldc o => execLdc o s
  | .ldcSpair o => execLdcSpair o s
  | .stc o => execStc o s
  | .atom op z o => execAtom op z o s
  | .sLd sz o => execSLd sz o s
  | .mwatch o => execMwatch o s
  | .mwait o => execMwait o s
  | .acInit o => execAcInit o s
  | .acTake o => execAcTake o s
  | .acGive o => execAcGive o s
  | .acRead o => execAcRead o s
  | .acDrop o => execAcDrop o s
  | .qlaunch o => execQlaunch o s
  | .lds sz o => execLds sz o s
  | .sts sz o => execSts sz o s
  | .atoms op o => execAtoms op o s
  | .cacheCln o => execCacheCln o s
  | .cacheInv o => execCacheInv o s
  | _ => .next s

/-- A split whose park is resolved replays its instruction for the lanes in UNF, on a port of its partition that no other
split's chain holds. -/
def execReplay (gid slot : Nat) (s : State) : Res :=
  let sl := s.slotAt gid slot
  let b := s.blk (bidOf gid)
  let part := s.partOf gid
  let goes := sl.again.isSome && sl.parked.isSome && ready sl && issues b && !s.gatedPart b.core part
  let free := fun (k : Nat) =>
    let p : Port := Tbl.get {} s.ports (portKey b.core part k)
    p.owner.toList.all (· == (gid, slot))
  match if goes then (List.range 2).find? free else none with
  | some k => issueBundle memExec (portKey b.core part k) gid slot false 0 s
  | none => .next s

/-! ### Page walks (R183, R185) -/

/-- A walk begun by some access of a core ends: a permitted leaf is cached; a fault caches nothing. -/
def execPageWalk (core ctx va : Nat) (s : State) : Res :=
  .next (match s.walk ctx va with
    | .ok t =>
      let s1 := if t.size = 16 then s.tick else s
      if s1.fwRefused ctx t va then s1 else s1.cacheTlb core t
    | .error (c, l, a) => (if l = 0 && s.has64 ctx a then s.tick else s).walkFailed ctx c a)

end Sys2Proof.Machine
end

