-- ==== Sys2Proof/Machine/Place.lean ====
section
/-! DEFINITION. Resources of cores, placement and the start state of blocks (02 R28 to R32, 06 R116), what a stopped block
still has under way (09 R196), and retirement (02 R35, R36). -/

namespace Sys2Proof.Machine.State

/-! ### Resources (Table 2.3, R29) -/

/-- Groups that a block places in partition p (R28). -/
def groupsIn (d : Desc) (p0 p : Nat) : Nat := ((List.range (d.ngrp + 1)).filter fun g => (p0 + g) % 4 == p).length
/-- Blocks that hold resources of a core. -/
def onCore (s : State) (core : Nat) : List (Nat × Block) := s.blks.filter fun p => resident p.2 && p.2.core == core
/-- Free group slots and register rows of a partition, and free scratchpad in KiB. -/
def freeGroups (s : State) (core p : Nat) : Nat :=
  128 - ((s.onCore core).map fun b => groupsIn b.2.desc b.2.p0 p).foldl (· + ·) 0
def freeRows (s : State) (core p : Nat) : Nat :=
  6144 - ((s.onCore core).map fun b => groupsIn b.2.desc b.2.p0 p * b.2.desc.nreg * 8).foldl (· + ·) 0
def freeScr (s : State) (core : Nat) : Nat := 384 - ((s.onCore core).map fun b => b.2.desc.scr).foldl (· + ·) 0
/-- Free slots of a core over its partitions. -/
def freeSum (s : State) (core : Nat) : Nat := ((List.range 4).map (s.freeGroups core)).foldl (· + ·) 0

/-- The first element with the greatest value of f. -/
def bestOf (f : Nat → Nat) : List Nat → Option Nat
  | [] => none
  | a :: r =>
    match bestOf f r with
    | none => some a
    | some b => if f a < f b then some b else some a

/-- p0 of R30. -/
def firstPart (s : State) (core : Nat) : Nat := (bestOf (s.freeGroups core) (List.range 4)).getD 0
/-- R29, for a block whose gang has the blocks `own`. -/
def fits (s : State) (d : Desc) (core : Nat) (own : List Nat) : Bool :=
  let p0 := s.firstPart core
  ((List.range 4).all fun p =>
    groupsIn d p0 p ≤ s.freeGroups core p && groupsIn d p0 p * d.nreg * 8 ≤ s.freeRows core p) &&
    d.scr ≤ s.freeScr core && !(d.mxs && (s.onCore core).any fun b => b.2.desc.mxs) &&
    !(s.blks.any fun b => resident b.2 && b.2.desc.fuse && b.2.core / 4 == core / 4 && !own.contains b.1)
/-- The cores of a cluster that fit. -/
def fitting (s : State) (d : Desc) (cluster : Nat) (own : List Nat) : List Nat :=
  ((List.range 4).map (4 * cluster + ·)).filter fun c => s.fits d c own
/-- n blocks of a gang fit a cluster. -/
def gangFits (s : State) (d : Desc) (n cluster : Nat) (own : List Nat) : Bool :=
  n ≤ (s.fitting d cluster own).length &&
    !(d.fuse && s.blks.any fun b => resident b.2 && b.2.core / 4 == cluster && !own.contains b.1)
/-- The cores that a block or the n blocks of a gang go to (R30, R31), in order of rank; `only` names the core of a task
loop's block. -/
def placeOf (s : State) (d : Desc) (n : Nat) (own : List Nat) (only : Option Nat) : Option (List Nat) :=
  match only with
  | some c => if s.fits d c own then some [c] else none
  | none =>
    if d.gang = 0 then
      (bestOf s.freeSum ((s.computeCores).filter fun c => s.fits d c own)).map fun c => [c]
    else
      let room := fun k => (((List.range 4).map (4 * k + ·)).map s.freeSum).foldl (· + ·) 0
      (bestOf room ((s.computeClusters).filter fun k => s.gangFits d n k own)).map fun k =>
        (s.fitting d k own).take n

/-! ### Fusion (R116, R36) -/

/-- Cleans and invalidates an L1; `keep` says that its pins stay. -/
def flushL1 (s : State) (core : Nat) (keep : Bool) : State :=
  let ls := (s.lines.filter fun p => p.1 % 256 == core).map fun p => p.1 / 256
  ls.foldl (fun s line =>
    let pins := if keep then (s.l1 core line).pins else 0
    let s1 := (s.setL1 core line { s.l1 core line with pins := 0 }).evictLine core line
    if pins = 0 then s1 else s1.setL1 core line { s1.l1 core line with pins }) s
def flushCluster (s : State) (cluster : Nat) : State :=
  (List.range 4).foldl (fun s k => s.flushL1 (4 * cluster + k) false) s

/-! ### Leaving (08 R166) -/

def partAt (s : State) (core part : Nat) : Part := Tbl.get {} s.parts (4 * core + part)
/-- The units that a core has sent reach their homes ahead of its leave. -/
def deliverGives (s : State) (core : Nat) : State :=
  let mine := fun (m : CtrMsg) => m.core == core && m.kind == .give
  (s.ctrMsgs.filter mine).foldl (fun s m => s.homeUnits m.pa m.units) { s with ctrMsgs := s.ctrMsgs.filter fun m => !mine m }
/-- Steps 1 to 4 of R166 for a core; one in a fused cluster, or with a take or a recall response on the way, does not
leave yet. -/
def leaveCore (s : State) (core : Nat) : State :=
  if (Tbl.get none s.fused (core / 4)).isSome || s.ctrMsgs.any (fun m => m.core == core && m.kind != .give) then s
  else
    let s0 := s.withdrawAsks (· == core)
    let s1 := (s0.allowsOf core).foldl (fun s p => s.returnAllow (p.1 / 256 * 64) core) s0
    let s2 := (s1.deliverGives core).flushL1 core true
    { s2 with left := Tbl.set false s2.left core true }
/-- A core whose four partitions are power-gated leaves. -/
def maybeLeave (s : State) (core : Nat) : State :=
  if !Tbl.get false s.left core && (List.range 4).all fun p => (s.partAt core p).gate == .power then s.leaveCore core else s
/-- A cluster leaves fusion: its L1s are cleaned, invalidated and split (R36, R116). -/
def splitCluster (s : State) (cluster : Nat) : State :=
  let s1 := (s.withdrawAsks fun a => a < 152 && a / 4 == cluster).flushCluster cluster
  (List.range 4).foldl (fun s k => s.maybeLeave (4 * cluster + k)) { s1 with fused := Tbl.set none s1.fused cluster none }
/-- Before a block of `card` is placed: the cluster is fused for a gang with FUSE = 1 unless it is already for the same
grid, and otherwise split. A fused L1 is in use in all four cores (R166). -/
def prepareCluster (s : State) (cluster : Nat) (fuse : Bool) (card : Nat) : State :=
  let now := Tbl.get none s.fused cluster
  if fuse then
    if now = some card then s
    else
      let s0 := (s.withdrawAsks fun a => a < 152 && a / 4 == cluster).flushCluster cluster
      let s1 := (List.range 4).foldl (fun s k => s.joinCore (4 * cluster + k)) s0
      { s1 with fused := Tbl.set none s1.fused cluster (some card) }
  else if now.isNone then s
  else s.splitCluster cluster

/-! ### The start of a block (R32) -/

/-- Group slots of a partition that no other resident group holds; of the group's own block only the groups before it
count. -/
def freeGslots (s : State) (gid : Nat) : List Nat :=
  let core := (s.blk (bidOf gid)).core
  let part := s.partOf gid
  let used := (s.grps.filter fun p =>
    let b := s.blk (bidOf p.1)
    resident b && b.core == core && s.partOf p.1 == part && (bidOf p.1 != bidOf gid || p.1 < gid)).map fun p => p.2.gslot
  (List.range 128).filter fun k => !used.contains k
/-- Each group of a block takes a free group slot of its partition; the spec does not say which. -/
def seatGroups (s : State) (bid : Nat) : State :=
  (s.groupsOf bid).foldl (fun s g =>
    let k := (s.choose 42 (s.freeGslots g)).getD 0
    s.tick.updGrp g fun x => { x with gslot := k }) s
/-- A group at dispatch. DESIGN CHOICE (log 66): its split's age stamp is 0. -/
def startGroup (d : Desc) (cap : Cap) : Group :=
  { sregs := Tbl.set 0 (Tbl.set 0 [] 0 (cap.bits.extractLsb' 0 64)) 1 (cap.bits.extractLsb' 64 64),
    stags := Tbl.set false [] 0 true,
    slots := [(0, { occ := true, pc := BitVec.ofNat 54 (d.entry / 8), run := -1, fmt := d.fmt })] }
/-- One block of a card on a core. -/
def startBlock (s : State) (bid : Nat) (b : Block) (cap : Cap) : State :=
  let b1 : Block := { b with phase := .resident, p0 := s.firstPart b.core, lastIssue := s.clock, hangFrom := s.clock,
                             mx := if b.desc.mxs then { seq := { pc := b.desc.stream } } else {} }
  let s1 : State := { s with blks := Tbl.insert bid b1 (Tbl.erase s.blks bid) }
  let s2 := (List.range (b.desc.ngrp + 1)).foldl (fun s g =>
    { s with grps := Tbl.insert (32 * bid + g) (startGroup b.desc cap) (Tbl.erase s.grps (32 * bid + g)) }) s1
  s2.seatGroups bid
/-- Dispatches a block or gang of card `c`, blocks `no` on, to its cores. -/
def startBlocks (s : State) (c no : Nat) (d : Desc) (cores : List Nat) : State :=
  let k := s.card c
  let base := s.freshId s.blks
  let ids := (List.range cores.length).map (base + ·)
  let s1 := (s.takeId (base + cores.length)).prepareCluster (cores.headD 0 / 4) d.fuse c
  let s2 := (cores.zipIdx).foldl (fun s p =>
    s.startBlock (base + p.2)
      { no := no + p.2, gangIds := ids, ctx := k.ctx, card := c, descVa := cq_ k.quads 3 0 57, desc := d, core := p.1,
        tokens := d.tok } k.lcap) s1
  -- the groups come after what was released towards the card (R147)
  let s3 := (ids.flatMap s2.groupsOf).foldl (fun s g => s.observe g 3) s2
  -- the values that device words hold from the first dispatch on may be read by LD.INV (R128)
  s3.updCard c fun k => { k with live := k.live + cores.length, tokens := 0, since := k.since.or (some s.hist.length) }

/-! ### What a stopped block still has under way (R196, R211) -/

/-- Occupied slots of the groups of a block. -/
def slotsOf (s : State) (bid : Nat) : List Slot :=
  (s.groupsOf bid).flatMap fun g => ((s.grp g).slots.map (·.2)).filter (·.occ)
/-- What an AC.* word of a block has sent is on its way, or its take is being decided. -/
def takeMoves (s : State) (bid : Nat) : Bool :=
  (s.ctrMsgs.any fun m => match m.kind with
    | .take _ g _ _ | .sent g _ _ => bidOf g == bid
    | _ => false) || s.txns.any fun p => match p.2.kind with
    | .counter _ _ _ g _ _ _ _ => bidOf g == bid
    | _ => false
/-- What the block had issued has performed or parked; a chain whose split waits is not running. -/
def drained (s : State) (bid : Nat) : Bool :=
  let runs := fun (g k : Nat) =>
    let sl := s.slotAt g k
    ready sl && s.finishes g k sl || s.mayGoOn g k || sl.waitFor == .memory
  !((s.groupsOf bid).any fun g => (List.range 4).any (runs g)) &&
    !(s.pending.any fun p => bidOf p.gid == bid && p.write.isNone && p.red.isNone) &&
    !s.takeMoves bid && !s.redsLeft bid && (s.seq bid).step == 0

/-! ### Retirement (R35, R36, R211) -/

/-- The conditions of R35. After a sequencer fault only the last holds, once what had issued has performed or parked. -/
def mayRetire (s : State) (bid : Nat) : Bool :=
  let b := s.blk bid
  !s.redsLeft bid && resident b &&
    (if b.poisoned then s.drained bid
     else ((s.groupsOf bid).all fun g => (s.grp g).ended == -1) && (!b.desc.mxs || b.mx.seq.st == .done) &&
       !(s.copies.any fun p => p.2.bid == some bid) && !b.swapping && !b.restoring)
/-- A release of every group of a block (R36, R151). -/
def publishBlock (s : State) (bid scope : Nat) : State := (s.groupsOf bid).foldl (fun s g => s.publish g scope) s
/-- A block leaves for good after a release at DEVICE scope (R36), and counts towards its card. -/
def retireBlock (s : State) (bid : Nat) : State :=
  let c := (s.blk bid).card
  let s1 := (s.groupsOf bid).foldl (fun s g => s.retireTask g) (s.publishBlock bid 3)
  let s2 := (s1.dropBlock bid).updCard c fun k => { k with live := k.live - 1 }
  { s2 with flt := { s2.flt with open_ := s2.flt.open_.filter fun r => match r.party with
      | .split g _ => bidOf g != bid
      | .seq b => b != bid
      | _ => true } }

end Sys2Proof.Machine.State

namespace Sys2Proof.Machine
open State

/-- A block whose retirement conditions hold retires. -/
def execRetirement (bid : Nat) (s : State) : Res :=
  .next (if Tbl.has s.blks bid && s.mayRetire bid then s.retireBlock bid else s)

/-- The head of Deckle's waiting list is granted. -/
def execTokenGrant (s : State) : Res := .next (s.serveWaiting deckleAt)

end Sys2Proof.Machine
end

