-- ==== Sys2Proof/Machine/Frame.lean ====
section
/-! DEFINITION. Swap frames (09 R197 to R200, Tables 9.6 to 9.8; 10 R206, R210): the bytes and tags a block is saved as, and
a block as read back from them. A frame is a table of its bytes that are not zero, by offset. -/

namespace Sys2Proof.Machine
open State

/-- Little-endian number of n bytes at offset o of a frame. -/
def fld (f : Tbl Byte) (o n : Nat) : Nat := leNum ((List.range n).map fun i => Tbl.get 0 f (o + i))
def fldQ (f : Tbl Byte) (o : Nat) : Quad := BitVec.ofNat 64 (fld f o 8)
def fldW (f : Tbl Byte) (o : Nat) : Word := BitVec.ofNat 32 (fld f o 4)
def putN (f : Tbl Byte) (o n v : Nat) : Tbl Byte := putBytes f o (toLe n v)

/-! ### Where the sections stand (Table 9.7) -/

def ctlAt (g : Nat) : Nat := 256 + 1024 * g
def regsAt (d : Desc) (g : Nat) : Nat := 256 + 1024 * (d.ngrp + 1) + 1024 * d.nreg * g
def scrAt (d : Desc) : Nat := 256 + 1024 * (d.ngrp + 1) * (1 + d.nreg)
def mxAt (d : Desc) : Nat := scrAt d + 1024 * d.scr
def copyAt (d : Desc) : Nat := State.copySection d
def logAt (d : Desc) : Nat := copyAt d + 8192
def frameSize (d : Desc) : Nat := logAt d + 16384

/-! ### Group control records (Table 9.8) -/

def Wait.code : Wait → Nat
  | .ready => 0 | .parked => 1 | .barrier => 2 | .long => 3

def putSlot (f : Tbl Byte) (o : Nat) (sl : Slot) : Tbl Byte :=
  let ctl := sl.occ.toNat + 2 * Wait.code sl.wait + 8 * sl.act.toNat + 16 * sl.idx + 128 * sl.pass
  let f := putN (putN f o 8 (8 * sl.pc.toNat)) (o + 8) 4 sl.run.toNat
  let f := putN (putN f (o + 12) 4 sl.fmt.toNat) (o + 16) 4 sl.unf.toNat
  putN (putN (putN f (o + 20) 4 ctl) (o + 24) 4 sl.fid.toNat) (o + 28) 4 sl.age
/-- A slot as restored: what the frame does not hold stays as it was saved. -/
def getSlot (f : Tbl Byte) (o : Nat) (old : Slot) : Slot :=
  let ctl := fld f (o + 20) 4
  { old with
    pc := BitVec.ofNat 54 (fld f o 8 / 8), run := fldW f (o + 8), fmt := fldW f (o + 12), unf := fldW f (o + 16),
    occ := bitsOf ctl 0 1 == 1, act := bitsOf ctl 3 1 == 1, idx := bitsOf ctl 4 3, pass := bitsOf ctl 7 8,
    fid := BitVec.ofNat 16 (fld f (o + 24) 2), age := fld f (o + 28) 4,
    wait := match bitsOf ctl 1 2 with
      | 0 => .ready
      | 1 => old.wait
      | 2 => .barrier
      | _ => .long }

/-- A join register (03 Table 3.2). -/
def putJoin (f : Tbl Byte) (o : Nat) (j : JoinReg) : Tbl Byte :=
  putN f o 16 (j.armed.toNat * 2 ^ 127 + j.dpc.toNat % 2 ^ 28 * 2 ^ 99 + j.rank % 8 * 2 ^ 96 + j.fmt.toNat * 2 ^ 64 +
    j.expected.toNat * 2 ^ 32 + j.arrived.toNat)
def getJoin (f : Tbl Byte) (o dpch : Nat) : JoinReg :=
  let v := fld f o 16
  { armed := bitsOf v 127 1 == 1, dpc := BitVec.ofNat 54 (dpch * 2 ^ 28 + bitsOf v 99 28), rank := bitsOf v 96 3,
    fmt := BitVec.ofNat 32 (bitsOf v 64 32), expected := BitVec.ofNat 32 (bitsOf v 32 32),
    arrived := BitVec.ofNat 32 (bitsOf v 0 32) }

def putDefer (f : Tbl Byte) (o : Nat) (d : Deferral) : Tbl Byte :=
  let q := 2 ^ 63 + d.owner * 2 ^ 61 + d.wt * 2 ^ 59 + d.p.toNat * 2 ^ 58 + 8 * d.pc.toNat
  putN (putN (putN f o 8 q) (o + 8) 4 d.mask.toNat) (o + 12) 4 d.fmt.toNat
def getDefer (f : Tbl Byte) (o bar : Nat) : Option Deferral :=
  let q := fld f o 8
  if bitsOf q 63 1 = 1 then
    some { owner := bitsOf q 61 2, wt := bitsOf q 59 2, p := bitsOf q 58 1 == 1, pc := BitVec.ofNat 54 (bitsOf q 3 54),
           mask := fldW f (o + 8), fmt := fldW f (o + 12), bar }
  else none

def putPartial (f : Tbl Byte) (o : Nat) : Option Partial → Tbl Byte
  | none => f
  | some p =>
    putN f o 8 ((p.rem.map fun k => k * 2 ^ 39 + 2 ^ 38).getD 0 + p.bar * 2 ^ 32 + p.mask.toNat)
def getPartial (f : Tbl Byte) (o : Nat) : Option Partial :=
  let v := fld f o 8
  if bitsOf v 0 32 = 0 then none
  else some { bar := bitsOf v 32 6, mask := BitVec.ofNat 32 (bitsOf v 0 32),
              rem := if bitsOf v 38 1 = 1 then some (bitsOf v 39 2) else none }

def putGroup (f : Tbl Byte) (o : Nat) (g : Group) : Tbl Byte :=
  let f := (List.range 4).foldl (fun f k => putSlot f (o + 32 * k) (Tbl.get {} g.slots k)) f
  let f := (List.range 8).foldl (fun f k => putJoin f (o + 128 + 16 * k) (Tbl.get {} g.joins k)) f
  let f := (g.defer.zipIdx).foldl (fun f p => putDefer f (o + 256 + 16 * p.2) p.1) f
  let f := putPartial f (o + 752) g.par
  let f := putN (putN f (o + 760) 8 g.gstat.toNat) (o + 768) 8 g.epc.toNat
  let f := putN (putN f (o + 776) 8 g.cause.toNat) (o + 784) 8 g.satf.toNat
  let f := (List.range 24).foldl (fun f k => putN f (o + 800 + 8 * k) 8 (Tbl.get 0 g.sregs k).toNat) f
  let dpch := (List.range 8).foldl (fun n k => n + (Tbl.get ({} : JoinReg) g.joins k).dpc.toNat / 2 ^ 28 * 2 ^ (26 * k)) 0
  putN f (o + 992) 32 dpch

/-- Every slot, join and deferral entry of a table or list of restored items that is not the unlisted one. -/
def tblOf {α : Type} [DecidableEq α] (d : α) (n : Nat) (f : Nat → α) : Tbl α :=
  (List.range n).foldl (fun t k => Tbl.set d t k (f k)) []

/-- A group as restored; `tag` gives the tag of the granule at an offset. Lanes that are nowhere have ended (R42). -/
def getGroup (f : Tbl Byte) (tag : Nat → Bool) (o : Nat) (old : Group) : Group :=
  let slots := tblOf {} 4 fun k => getSlot f (o + 32 * k) (Tbl.get {} old.slots k)
  let dpch := fld f (o + 992) 32
  let joins := tblOf {} 8 fun k => getJoin f (o + 128 + 16 * k) (bitsOf dpch (26 * k) 26)
  let defer := (List.range 31).filterMap fun i =>
    getDefer f (o + 256 + 16 * i) ((old.defer[i]?.map (·.bar)).getD 0)
  let lanes := (slots.foldl (fun m p => m ||| p.2.run) 0) ||| (defer.foldl (fun m d => m ||| d.mask) 0) |||
    (joins.foldl (fun m p => m ||| (if p.2.armed then p.2.arrived else 0)) 0)
  { old with
    slots, joins, defer, par := getPartial f (o + 752), gstat := fldQ f (o + 760), epc := fldQ f (o + 768),
    cause := fldQ f (o + 776), satf := fld f (o + 784) 8 % 2 == 1, ended := ~~~lanes,
    sregs := tblOf 0 24 fun k => fldQ f (o + 800 + 8 * k),
    stags := tblOf false 12 fun p => tag (o + 800 + 16 * p) }

/-! ### Vector registers (R199) -/

/-- Place of a register in the saved quads, and back. -/
def savedAt (nreg r : Nat) : Nat := if 117 ≤ r then 4 * (2 * nreg - 1) + (r - 116) else r
def savedReg (nreg q i : Nat) : Nat := if q = 2 * nreg - 1 && i != 0 then 116 + i else 4 * q + i
/-- Offset of a register lane in its group's section. -/
def cellAt (nreg r lane : Nat) : Nat :=
  let p := savedAt nreg r
  512 * (p / 4) + 16 * lane + 4 * (p % 4)

def putRegs (f : Tbl Byte) (o nreg : Nat) (t : Tbl VCell) : Tbl Byte :=
  t.foldl (fun f p => putN f (o + cellAt nreg (p.1 / 32) (p.1 % 32)) 4 p.2.val.toNat) f
/-- Offsets of the granules of tagged quads. -/
def regTags (o nreg : Nat) (t : Tbl VCell) : List Nat :=
  (List.range (2 * nreg)).flatMap fun q => lanes.filterMap fun l =>
    if (List.range 4).all fun i => (Tbl.get ({} : VCell) t (32 * savedReg nreg q i + l)).tag then some (o + 512 * q + 16 * l)
    else none
def getRegs (f : Tbl Byte) (tag : Nat → Bool) (o nreg : Nat) : Tbl VCell :=
  (List.range (2 * nreg)).foldl (fun t q => lanes.foldl (fun t l => (List.range 4).foldl (fun t i =>
    let a := o + 512 * q + 16 * l
    Tbl.set {} t (32 * savedReg nreg q i + l) { val := fldW f (a + 4 * i), tag := tag a }) t) t) []

/-! ### Matrix memories and the sequencer (Tables 10.3, 10.5) -/

def SlotState.code : SlotState → Nat
  | .empty => 0 | .claimed => 1 | .filled => 2
def SlotState.ofCode (n : Nat) : SlotState := if n = 1 then .claimed else if n = 2 then .filled else .empty
def SeqState.code : SeqState → Nat
  | .run => 0 | .waitBar => 1 | .fetchWait => 2 | .done => 3 | .fault => 4
def SeqState.ofCode : Nat → SeqState
  | 1 => .waitBar | 2 => .fetchWait | 3 => .done | 4 => .fault | _ => .run

def putSeq (f : Tbl Byte) (o : Nat) (q : Seq) : Tbl Byte :=
  let f := putN f o 8 (SeqState.code q.st * 2 ^ 61 + q.pc)
  let f := putN f (o + 8) 8 (q.fcode * 2 ^ 56 + q.wbar * 2 ^ 50 + q.sbase * 2 ^ 45)
  let f := putN (putN f (o + 16) 8 q.ep.toNat) (o + 24) 8 q.prog.toNat
  (List.range 4).foldl (fun f k =>
    let l : LoopCtr := Tbl.get {} q.lc k
    putN f (o + 32 + 8 * k) 8 (l.arm.toNat * 2 ^ 63 + l.rem)) f
def getSeq (f : Tbl Byte) (o : Nat) (old : Seq) : Seq :=
  let a := fld f o 8
  let b := fld f (o + 8) 8
  let st := SeqState.ofCode (bitsOf a 61 3)
  { old with
    st := if st = .fetchWait && old.fltPage.isNone then .run else st, pc := bitsOf a 0 57, fcode := bitsOf b 56 8,
    wbar := bitsOf b 50 6, sbase := bitsOf b 45 5, ep := fldQ f (o + 16), prog := BitVec.ofNat 56 (fld f (o + 24) 7),
    lc := tblOf {} 4 fun k => { arm := bitsOf (fld f (o + 32 + 8 * k) 8) 63 1 == 1, rem := fld f (o + 32 + 8 * k) 2 },
    word := none, step := 0 }

def putMx (f : Tbl Byte) (o : Nat) (m : Matrix) : Tbl Byte :=
  let f := m.opmem.foldl (fun f p => putN f (o + p.1) 1 p.2.toNat) f
  let hdr := fun (h : SlotHdr) => SlotState.code h.st * 2 ^ 62 + h.stamp.toNat * 2 ^ 61 + h.fmt * 2 ^ 16 + h.swz * 2 ^ 12
  let f := m.hdrs.foldl (fun f p => putN f (o + 262144 + 16 * p.1) 8 (hdr p.2)) f
  let f := m.acc.foldl (fun f p => putN f (o + 262656 + 4 * p.1) 4 p.2.toNat) f
  let f := m.scale.foldl (fun f p => putN f (o + 655872 + 4 * p.1) 4 p.2.toNat) f
  putSeq f (o + 672256) m.seq
/-- The bytes of a frame in [o, o + n), by offset from o. -/
def sliceOf (f : Tbl Byte) (o n : Nat) : Tbl Byte :=
  (f.filter fun p => o ≤ p.1 && p.1 < o + n).map fun p => (p.1 - o, p.2)
/-- Words from bytes. -/
def wordsIn (f : Tbl Byte) : Tbl Word :=
  f.foldl (fun t p => Tbl.upd 0 t (p.1 / 4) fun w => w ||| BitVec.ofNat 32 (p.2.toNat * 2 ^ (8 * (p.1 % 4)))) []
def getMx (f : Tbl Byte) (o : Nat) (old : Matrix) : Matrix :=
  { opmem := sliceOf f o 262144,
    hdrs := tblOf {} 32 fun k =>
      let v := fld f (o + 262144 + 16 * k) 8
      { st := SlotState.ofCode (bitsOf v 62 2), stamp := bitsOf v 61 1 == 1, fmt := bitsOf v 16 4, swz := bitsOf v 12 4 },
    acc := wordsIn (sliceOf f (o + 262656) 393216),
    scale := (wordsIn (sliceOf f (o + 655872) 16384)).foldl (fun t p => Tbl.set 0 t p.1 (p.2.extractLsb' 0 20)) [],
    seq := getSeq f (o + 672256) old.seq }

/-! ### Copy records (R200) -/

def putCopy (f : Tbl Byte) (o : Nat) (k : Copy) : Tbl Byte :=
  let f := (k.quads.zipIdx).foldl (fun f p => putN f (o + 8 * p.2) 8 p.1.toNat) f
  let f := putN f (o + 64) 8 ((if k.withdrawn then 2 else 1) * 2 ^ 62 + k.core * 2 ^ 48 + k.cslot * 2 ^ 40 +
    k.fix.length * 2 ^ 32 + k.next)
  (k.fix.zipIdx).foldl (fun f p => putN f (o + 80 + 8 * p.2) 8 (p.1.first * 2 ^ 32 + p.1.count)) f

/-! ### The whole frame -/

namespace State

/-- The header (Table 9.6) with a STATE. -/
def headerOf (s : State) (bid st : Nat) : Tbl Byte :=
  let b := s.blk bid
  let d := b.desc
  let rank := b.gangIds.findIdx (· == bid)
  let q3 := b.ncopy * 2 ^ 40 + b.nflt * 2 ^ 32 + b.absLog.length * 2 ^ 16 + rank * 64 + d.gang * 16 + d.mxs.toNat * 8 +
    d.fuse.toNat * 4 + b.aerr.toNat * 2
  let f := putN [] 0 8 (st * 2 ^ 62 + b.ctx * 2 ^ 32 + b.no)
  let f := putN (putN f 8 8 (s.card b.card).va) 16 8 b.descVa
  putN (putN f 24 8 q3) 32 8 b.tsusp

/-- A block as its frame holds it. DESIGN CHOICE (log 78): Tables 9.6 to 9.8 give the roles of R39 no field, so they keep
their places in the block's descriptor and stand nowhere in the frame. -/
def frameOf (s : State) (bid st : Nat) : Tbl Byte :=
  let b := s.blk bid
  let d := b.desc
  let gs := List.range (d.ngrp + 1)
  let f := s.headerOf bid st
  let f := gs.foldl (fun f g => putGroup f (ctlAt g) (s.grp (32 * bid + g))) f
  let f := gs.foldl (fun f g => putRegs f (regsAt d g) d.nreg (s.grp (32 * bid + g)).vregs) f
  let f := b.scratch.foldl (fun f p => putN f (scrAt d + p.1) 1 p.2.toNat) f
  let f := if d.mxs then putMx f (mxAt d) b.mx else f
  let ks := (s.copies.filter fun p => p.2.bid == some bid).map (·.2)
  let f := (ks.zipIdx).foldl (fun f p => putCopy f (copyAt d + 128 * p.2) p.1) f
  putBytes f (logAt d) (b.absLog.flatMap logBytes)
/-- Offsets of its tagged granules. -/
def frameTags (s : State) (bid : Nat) : List Nat :=
  let d := (s.blk bid).desc
  (List.range (d.ngrp + 1)).flatMap fun g =>
    let x := s.grp (32 * bid + g)
    ((List.range 12).filter fun p => Tbl.get false x.stags p).map (fun p => ctlAt g + 800 + 16 * p) ++
      regTags (regsAt d g) d.nreg x.vregs

/-- Replaces n bytes at `pa` by a table of bytes with tagged granules: every copy of the range is recalled, and errors of
whole sectors are cleared. -/
def homeReplace (s : State) (pa n : Nat) (f : Tbl Byte) (tags : List Nat) : State :=
  let mine := fun (line : Nat) => decide (lineOf pa ≤ line) && decide (line ≤ lineOf (pa + n - 1))
  let ls : List Nat :=
    (s.lines.keys.map (· / 256) ++ s.dirs.keys ++ s.ncache.keys.map (· / 64)).filter mine
  let s1 := ls.foldl (fun (s : State) l =>
    let s1 := s.invalidate none l
    s1.setDir l { s1.dir l with st := .i, coarse := false, cpe := false, ptrs := [], shr := 0 }) s
  let mem := f.foldl (fun t p => Tbl.set 0 t (pa + p.1) p.2) (s1.mem.filter fun p => p.1 < pa || pa + n ≤ p.1)
  let s2 : State := { s1 with
    mem, mtags := s1.mtags.filter fun p => 16 * p.1 + 16 ≤ pa || pa + n ≤ 16 * p.1,
    poison := s1.poison.filter fun p => 32 * p.1 < pa || pa + n < 32 * p.1 + 32 }
  tags.foldl (fun s o => s.setMemTag (pa + o) true) s2

/-- Writes a block's frame with a STATE (R196 step 5). -/
def saveFrame (s : State) (bid st : Nat) : State :=
  match s.frameAt bid with
  | none => s
  | some a => s.homeReplace a (frameSize (s.blk bid).desc) (s.frameOf bid st) (s.frameTags bid)
/-- Writes the STATE of a block's frame. -/
def frameState (s : State) (bid st : Nat) : State :=
  match s.frameAt bid with
  | none => s
  | some a => s.homeWrite a (toLe 8 (st * 2 ^ 62 + (s.blk bid).ctx * 2 ^ 32 + (s.blk bid).no))

/-- The first sector in error of a block's frame. -/
def frameError (s : State) (bid : Nat) : Option Nat :=
  (s.frameAt bid).bind fun a =>
    ((s.poison.map (·.1)).find? fun q => a < 32 * q + 32 && 32 * q < a + frameSize (s.blk bid).desc && s.sectorBad q).map (32 * ·)
/-- A frame as it lies in memory, and the tag of each granule; none where a sector of it is in error. -/
def readFrame (s : State) (bid : Nat) : Option (Tbl Byte × (Nat → Bool)) :=
  match s.frameAt bid with
  | none => none
  | some a =>
    let n := frameSize (s.blk bid).desc
    let cells := s.mem.filter fun p => a ≤ p.1 && p.1 < a + n
    let dirty := s.lines.foldl (fun (t : Tbl Byte) p => p.2.data.foldl (fun t q =>
      let x := 128 * (p.1 / 256) + q.1
      if a ≤ x && x < a + n && p.2.dirty.getLsbD (q.1 / 4) then Tbl.set 0 t x q.2 else t) t) cells
    if (s.frameError bid).isSome then none
    else some (dirty.map fun p => (p.1 - a, p.2), fun o => s.memTag (a + o))

/-- The header keeps its reserved bits at zero and agrees with the block (R202). -/
def headerOk (s : State) (bid : Nat) (f : Tbl Byte) : Bool :=
  let want := s.headerOf bid 2
  ((List.range 5).all fun i => fld f (8 * i) 8 == fld want (8 * i) 8) && f.all fun p => p.1 < 40 || 256 ≤ p.1

/-- A block with its groups as read from its frame. -/
def loadFrame (s : State) (bid : Nat) (f : Tbl Byte) (tag : Nat → Bool) : State :=
  let d := (s.blk bid).desc
  let s1 := s.updBlk bid fun b =>
    { b with scratch := sliceOf f (scrAt d) (1024 * d.scr), mx := if d.mxs then getMx f (mxAt d) b.mx else b.mx,
             aerr := bitsOf (fld f 24 8) 1 1 == 1 }
  (List.range (d.ngrp + 1)).foldl (fun s g => s.updGrp (32 * bid + g) fun old =>
    { getGroup f tag (ctlAt g) old with vregs := getRegs f tag (regsAt d g) d.nreg }) s1

end State
end Sys2Proof.Machine
end

