-- ==== Sys2Proof/Machine/Swap.lean ====
section
/-! DEFINITION. Swap-out, save, re-admission and yield of blocks and gangs (09 R195 to R202, 02 R31, R34, R41, 13 R267),
and the release of lost joins (03 R53 to R55). -/

namespace Sys2Proof.Machine
open State

namespace State

/-! ### When a block or gang is swapped out (R195) -/

/-- The blocks of a block's gang that have not retired. -/
def gangOf (s : State) (bid : Nat) : List Nat := (s.blk bid).gangIds.filter fun b => Tbl.has s.blks b
/-- %swapthresh as it acts. -/
def swapThresh (s : State) (bid : Nat) : Nat := max 1500 (s.ctx (s.blk bid).ctx).swapt
/-- Some split, or the sequencer, has waited on a fault for n clocks. -/
def faultedFor (s : State) (bid n : Nat) : Bool :=
  ((s.slotsOf bid).any fun sl => match sl.parked with
    | some p => !p.pages.isEmpty && p.since + n ≤ s.clock
    | none => false) ||
    ((s.seq bid).fltPage.isSome && (s.seq bid).fltSince + n ≤ s.clock)
/-- Every occupied slot waits. -/
def allWait (s : State) (bid : Nat) : Bool := (s.slotsOf bid).all fun sl => sl.wait != .ready
/-- Some copy of the block waits on a fix-up segment. -/
def copyParked (s : State) (bid : Nat) : Bool := s.copies.any fun p => p.2.bid == some bid && !p.2.fix.isEmpty
/-- The block drains, and each of its copies has had some fix-up segment wait for n clocks. -/
def copiesStuck (s : State) (bid n : Nat) : Bool :=
  let ks := (s.copies.filter fun p => p.2.bid == some bid).map (·.2)
  (s.blk bid).phase == .draining && !ks.isEmpty && ks.all fun k => k.fix.any fun f => f.since + n ≤ s.clock
/-- An SSU command of a block is outstanding. -/
def ssuBusy (s : State) (bid : Nat) : Bool := s.ssus.any fun p => p.2.any fun c => c.bid == bid
/-- RESIDENT, or DRAINING with a copy parked on a fault (02 Table 2.4); not stopping, and not ended by a fault. -/
def swappable (s : State) (ids : List Nat) : Bool :=
  !ids.isEmpty && ids.all fun b =>
    let k := s.blk b
    (k.phase == .resident || (k.phase == .draining && s.copyParked b)) && !k.stopped && !k.poisoned && !s.ssuBusy b
/-- Cases 1 to 3 of R195, and SUSPEND (15 R295). -/
def swapCause (s : State) (ids : List Nat) : Bool :=
  let n := s.swapThresh (ids.headD 0)
  s.swappable ids &&
    ((s.ctx (s.blk (ids.headD 0)).ctx).suspended ||
      (ids.all s.allWait && ids.any fun b => s.faultedFor b n) ||
      (ids.any fun b => s.faultedFor b 300000) ||
      ids.all fun b => s.copiesStuck b n)

/-! ### The stop (R196 step 1, R197) -/

/-- The lowest free frames of a context's pool. -/
def freeFrames (s : State) (c : Nat) : List Nat :=
  (List.range (s.ctx c).nframe).filter fun f => !(s.ctx c).frames.contains f
/-- Stops a gang, or posts one NOFRAME record where frames are missing. `waiter` is the swapped gang in whose place it leaves
(R41). -/
def stopGang (s : State) (ids : List Nat) (waiter : Option Nat) : State :=
  let h := ids.headD 0
  let b0 := s.blk h
  let fr := (s.freeFrames b0.ctx).take ids.length
  if fr.length < ids.length then
    let s1 := if b0.noframe then s
      else s.postFault { cause := 6, source := 5, ctx := b0.ctx, block := b0.no, card := s.cardField b0.card, pcore := b0.core }
    s1.updBlk h fun b => { b with noframe := true, yieldTo := waiter, tsusp := s.clock }
  else
    let s1 := (ids.zip fr).foldl (fun s p => s.updBlk p.1 fun b =>
      { b with stopped := true, swapping := true, noframe := false, yieldTo := none, tsusp := s.clock, frame := some p.2 }) s
    let s2 := s1.updCtx b0.ctx fun c => { c with frames := c.frames ++ fr }
    if waiter.isSome then { s2 with hbx := { s2.hbx with yieldFor := waiter } } else s2

/-! ### Which gangs wait for a place (R31, R41, R202) -/

/-- Whether a swapped block or gang waits only for tokens and room. -/
def eligible (s : State) (ids : List Nat) : Bool :=
  let c := s.ctx (s.blk (ids.headD 0)).ctx
  !ids.isEmpty && !c.suspended && !c.ended &&
    ids.all fun b => (s.blk b).phase == .swapped && (s.blk b).nflt == 0
/-- Tokens that a gang needs, and whether it holds them. -/
def tokensFor (s : State) (ids : List Nat) : Nat := (ids.map fun b => (s.blk b).desc.tok).foldl (· + ·) 0
def hasTokens (s : State) (ids : List Nat) : Bool := s.tokensFor ids ≤ (s.blk (ids.headD 0)).tokens
/-- Room for the blocks of a gang. -/
def roomFor (s : State) (ids : List Nat) : Option (List Nat) :=
  s.placeOf (s.blk (ids.headD 0)).desc ids.length ids none
/-- The swapped gang that takes the place of one being swapped out (R41): nothing else is placed before it. -/
def yielding (s : State) : Option Nat := s.hbx.yieldFor.filter fun h => s.eligible (s.gangOf h)
/-- The priority of a block's queue; 0 is the highest. -/
def prioOf (s : State) (bid : Nat) : Nat := (s.queue (s.card (s.blk bid).card).queue).prio
/-- The gangs of the device. -/
def gangs (s : State) : List (List Nat) := (s.blks.map fun b => s.gangOf b.1).dedup

/-! ### Yield (R41) -/

/-- The sequencer of a yield candidate waits or has ended. -/
def seqWaits (s : State) (bid : Nat) : Bool :=
  !(s.blk bid).desc.mxs || (s.seq bid).st == .waitBar || (s.seq bid).st == .fetchWait || (s.seq bid).st == .done
/-- Candidates for a gang at priority P, all RESIDENT (02 Table 2.4), whose swap-out would let it fit. -/
def yieldGangs (s : State) (ids : List Nat) : List (List Nat) :=
  let p := s.prioOf (ids.headD 0)
  s.gangs.filter fun g =>
    s.swappable g && (g.all fun b => (s.blk b).phase == .resident && p ≤ s.prioOf b && s.allWait b && s.seqWaits b) &&
      ({ s with blks := s.blks.filter fun b => !g.contains b.1 }.roomFor ids).isSome
/-- The most recent issue of a gang. -/
def gangIssue (s : State) (g : List Nat) : Nat := g.foldl (fun m b => max m (s.blk b).lastIssue) 0
/-- The candidate whose most recent issue is oldest; of several, the spec does not say which. -/
def yieldChoice (s : State) (gs : List (List Nat)) : Option (List Nat) :=
  let least := gs.filter fun g => gs.all fun h => s.gangIssue g ≤ s.gangIssue h
  s.choose 71 least
/-- A gang has found no room for HBX_YIELD clocks and finds none now, and no yield is under way. -/
def yieldDue (s : State) (ids : List Nat) : Bool :=
  s.eligible ids && s.yielding.isNone && (s.roomFor ids).isNone &&
    (s.blk (ids.headD 0)).eligibleFrom.any fun t => t + s.hbx.yield_.toNat ≤ s.clock

end State

/-- A swapped block or gang that has found no room for HBX_YIELD clocks. -/
def execYield (bid : Nat) (s : State) : Res :=
  .next (
    let ids := s.gangOf bid
    let h := ids.headD 0
    if !s.yieldDue ids then s
    else
      let s1 := s.tick.updBlk h fun b => { b with eligibleFrom := some s.clock }
      match s.yieldChoice (s.yieldGangs ids) with
      | some g => if (s.blk (g.headD 0)).noframe then s1 else s1.stopGang g (some h)
      | none => s1)

/-- R195, R196 step 1. -/
def execSwapOut (bid : Nat) (s : State) : Res :=
  .next (
    let ids := s.gangOf bid
    if s.swapCause ids && !(s.blk (ids.headD 0)).noframe then s.stopGang ids none else s)

/-- R197: every 10,000 clocks. A gang that was chosen under R41 is still chosen while it is a candidate. -/
def execNoframeRetest (bid : Nat) (s : State) : Res :=
  .next (
    let ids := s.gangOf bid
    let b := s.blk (ids.headD 0)
    let waiter := b.yieldTo.filter fun h => s.eligible (s.gangOf h) && (s.yieldGangs (s.gangOf h)).contains ids
    if !b.noframe || s.clock < b.tsusp + 10000 then s
    else if s.swapCause ids || waiter.isSome then s.stopGang ids waiter
    else s.updBlk (ids.headD 0) fun b => { b with noframe := false, yieldTo := none })

/-! ### The save (R196 steps 2 to 6) -/

namespace State

/-- R267 for one group: an uncommitted task goes back. The spec names no %fmt for a slot 0 that was free. -/
def discardTask (s : State) (gid : Nat) : State :=
  let g := s.grp gid
  match g.task with
  | none => s
  | some t =>
    if t.committed then s
    else
      let old := s.slotAt gid 0
      let fmt := if old.occ then old.fmt else BitVec.ofNat 32 (s.freeNat 70) &&& fmtMask
      let sl : Slot := { occ := true, pc := t.restart, run := ~~~g.ended, fmt, age := old.age }
      let s1 := s.tick.updGrp gid fun g =>
        { g with task := none, slots := Tbl.set {} [] 0 sl, joins := [], defer := [], par := none }
      let open_ := s1.flt.open_.filter fun r => match r.party with
        | .split g' _ => g' != gid
        | _ => true
      ({ s1 with flt := { s1.flt with open_ } }).repost (s.blk (bidOf gid)).core t.card t.record t.pins

/-- Cancels the waits of a slot: its word is issued again at re-admission (R196 step 3). MWAIT then returns (R171). -/
def cancelWait (sl : Slot) : Slot :=
  let sl1 := { sl with monitor := {}, acTicket := none, cont := false }
  match sl.waitFor with
  | .mwait | .take | .inbox | .jobpost _ => { sl1 with wait := .ready, waitFor := .none }
  | _ => sl1
/-- The copies into a block's scratchpad or matrix memories stop at their segment boundary (R196 step 4). DESIGN CHOICE
(log 80): scale memory is saved like operand memory, so an SCL.CPY stops as well. -/
def withdraw (s : State) (bid : Nat) : State :=
  { s with copies := s.copies.map fun p =>
      if p.2.dst.kind != 0 && p.2.bid == some bid then (p.1, { p.2 with withdrawn := true }) else p }
/-- Untaken records of a descriptor with no resident block left on the core go back to their cards (R265). -/
def withdrawRecords (s : State) (core ctx descVa : Nat) : State :=
  if !(s.loopBlocks ctx descVa core).isEmpty then s
  else
    let q := Tbl.get [] s.inbox core
    let mine := q.filter fun r => r.ctx == ctx && r.descVa == descVa
    let rest := q.filter fun r => !(r.ctx == ctx && r.descVa == descVa)
    let cards := s.cards.map fun p => if p.2.ctx == ctx && descOf p.2 == descVa then (p.1, unassign core p.2) else p
    mine.foldr (fun r s => s.repost core r.card r.quads r.pins) { s with cards, inbox := Tbl.set [] s.inbox core rest }
/-- Watch bits of an L1 that no monitor needs any more are cleared. -/
def trimWatch (s : State) (core : Nat) : State :=
  let ls := s.lines.map fun p : Nat × L1Line =>
    if p.2.watch && p.1 % 256 / 4 == core / 4 && !s.watched (p.1 % 256) (p.1 / 256) then (p.1, { p.2 with watch := false })
    else p
  { s with lines := ls.filter fun p => p.2 != {} }
/-- Parked splits and the sequencer that wait on faults (Table 9.6). -/
def faultCount (s : State) (bid : Nat) : Nat :=
  ((s.slotsOf bid).countP fun sl => match sl.parked with
    | some p => !p.pages.isEmpty
    | none => false) + if (s.seq bid).fltPage.isSome then 1 else 0
/-- The ports forget a block's splits. -/
def leavePorts (s : State) (bid : Nat) : State :=
  let mine := fun (o : Nat × Nat) => bidOf o.1 == bid
  { s with ports := s.ports.filter fun p => !p.2.owner.any mine }

/-- Steps 3 to 5 of R196 for a drained block: its frame is written with STATE 1. -/
def saveBlock (s : State) (bid : Nat) : State :=
  let gs := s.groupsOf bid
  let s1 := (gs.foldl discardTask s).cancelTakes fun g => bidOf g == bid
  let s2 := gs.foldl (fun s g => s.updGrp g fun x => { x with slots := x.slots.map fun p => (p.1, cancelWait p.2) }) s1
  let s3 := (s2.withdraw bid).leavePorts bid
  let ncopy := (s3.copies.filter fun p => p.2.bid == some bid).length
  (s3.updBlk bid fun b => { b with nflt := s3.faultCount bid, ncopy, saved := true }).saveFrame bid 1
/-- STATE 2 and step 6 of R196 for a block whose frame is written: a release at DEVICE scope (R151), its pins and tokens
go back, and its resources are free. -/
def leaveBlock (s : State) (bid : Nat) : State :=
  let b := s.blk bid
  let gs := s.groupsOf bid
  let ncopy := (s.copies.filter fun p => p.2.bid == some bid).length
  let s1 := (s.updBlk bid fun b => { b with nflt := s.faultCount bid, ncopy }).saveFrame bid 2
  let s2 := gs.foldl (fun s g =>
    (s.unpinTask g).updGrp g fun x => { x with task := x.task.map fun t => { t with pins := [] } }) (s1.publishBlock bid 3)
  (s2.updBlk bid fun b =>
    { b with phase := .swapped, stopped := false, swapping := false, saved := false, tokens := 0,
             leftCore := b.core }).giveTokens b.tokens
/-- A gang leaves its cores together (R34); its records are withdrawn, and a fused L1 is split. -/
def leaveGang (s : State) (ids : List Nat) : State :=
  let b0 := s.blk (ids.headD 0)
  let s1 := ids.foldl leaveBlock s
  let s2 := ids.foldl (fun s b =>
    let k := s.blk b
    (s.withdrawRecords k.core k.ctx k.descVa).trimWatch k.core) s1
  (if b0.desc.fuse then s2.splitCluster (b0.core / 4) else s2).leftOut b0.ctx

end State

/-- R196 steps 2 to 6: once the whole gang has drained, and the SSU has ended a command that its last chains gave it (R195), its
frames are written; then it leaves. -/
def execSwapSave (bid : Nat) (s : State) : Res :=
  .next (
    let ids := s.gangOf bid
    let s1 := ids.foldl flushFar s
    if ids.isEmpty || !ids.all fun b => (s1.blk b).swapping && !(s1.blk b).poisoned then s
    else if ids.all fun b => (s1.blk b).saved then s1.leaveGang ids
    else if ids.all fun b => s1.drained b && !s1.ssuBusy b then ids.foldl saveBlock s1
    else s1)

/-! ### Re-admission (R202) -/

namespace State

/-- Frees a block's frame: its STATE becomes 0. -/
def freeFrame (s : State) (bid : Nat) : State :=
  let b := s.blk bid
  match b.frame with
  | some f =>
    ((s.frameState bid 0).updBlk bid fun b => { b with frame := none }).updCtx b.ctx fun c =>
      { c with frames := c.frames.filter (· != f) }
  | none => s
/-- FRAMEBAD: the gang is dropped, and its card dispatches no more; an error met in a frame is logged (15 Table 15.3). -/
def dropGang (s : State) (ids : List Nat) : State :=
  let c := (s.blk (ids.headD 0)).card
  let s0 := (ids.filterMap s.frameError).foldl logError s
  let ks := (s0.copies.filter fun p => p.2.bid.any ids.contains).map (·.1)
  let s1 := ks.foldl dropCopyOf s0
  let s2 := ids.foldl (fun s b => (s.freeFrame b).retireBlock b) s1
  s2.updCard c fun k => { k with err := k.err.or (some (5, 0, 0)), noMore := true }
/-- Applies a log entry. -/
def applyEntry (bid : Nat) (s : State) (e : LogEntry) : State :=
  if e.charge then s.charge bid e.bar e.src e.bytes
  else (List.range e.count).foldl (fun s _ => s.arrive bid e.bar (e.bytes != 0) e.src) s
/-- Withdrawn copies go on from the block's new core, and replay their fix-up ranges (R202). -/
def resumeCopies (s : State) (bid : Nat) : State :=
  let core := (s.blk bid).core
  (s.copies.filter fun p => p.2.bid == some bid && p.2.withdrawn).foldl (fun s p =>
    let used := (s.copies.filter fun q => q.2.bid.isSome && q.2.core == core && !q.2.withdrawn).map fun q => q.2.cslot
    s.setCopy p.1 { p.2 with withdrawn := false, core, cslot := freshOf used,
                                 fix := p.2.fix.map fun f => { f with since := s.clock, due := some 0 } }) s

/-- What came of making the pins of a re-admitted gang's tasks again (R126). -/
inductive Pinned where
  | ok (s : State)
  /-- A fault of a card's footprint, with its address, cause and level: it is recorded, and the card waits (R188). -/
  | fault (card : Nat) (e : Nat × Nat × Nat)
  /-- A line is held, or the pins would pass a limit of R125; DESIGN CHOICE (log 79): re-admission then waits as posting does. -/
  | later
  deriving DecidableEq, Repr
/-- The pins of one group's task on a core, over its footprints' virtual ranges. -/
def pinTask (s : State) (gid core : Nat) : Pinned :=
  match (s.grp gid).task with
  | none => .ok s
  | some t =>
    let c := (s.blk (bidOf gid)).ctx
    let fs := (feet t.record).filter (·.pin)
    if (s.card t.card).fltWait || !s.pinsFit core (s.footLines c fs) then .later
    else
      match s.doFeet c core (bidOf gid) fs with
      | .error e =>
        if e.2.1 = 0 then .later else .fault t.card e
      | .ok (s1, pins) => .ok (s1.updGrp gid fun x => { x with task := some { t with pins } })
/-- The pins of a gang's tasks, block by block and group by group. -/
def pinGang (s : State) (places : List (Nat × Nat)) : Pinned :=
  (places.flatMap fun p => (s.groupsOf p.1).map fun g => (g, p.2)).foldl (fun r x => match r with
    | .ok s => s.pinTask x.1 x.2
    | o => o) (.ok s)

/-- Step 1 of R202 for one block: STATE 3, and it is loaded on a core. -/
def restoreBlock (s : State) (bid core : Nat) (f : Tbl Byte) (tag : Nat → Bool) : State :=
  let p0 := s.firstPart core
  let d := (s.blk bid).desc
  let s1 := (s.frameState bid 3).loadFrame bid f tag
  let done := (s1.groupsOf bid).all fun g => (s1.grp g).ended == -1
  (s1.updBlk bid fun b =>
    { b with phase := if done then .draining else .resident, core, p0, tokens := d.tok, stopped := true, restoring := true,
             lastIssue := s.clock, hangFrom := s.clock, eligibleFrom := none, nflt := 0 }).seatGroups bid
/-- Scope of the acquire of a re-admission (R151). -/
def returnScope (b : Block) : Nat := if b.core = b.leftCore then 1 else if b.core / 4 = b.leftCore / 4 then 2 else 3
/-- Steps 2 to 4 of R202 for one block. -/
def resumeBlock (s : State) (bid : Nat) : State :=
  let b := s.blk bid
  let s1 := s.updBlk bid fun b =>
    { b with stopped := false, restoring := false, absLog := [], heldLog := [], lastIssue := s.clock, hangFrom := s.clock }
  let s2 := (((b.absLog ++ b.heldLog).foldl (applyEntry bid) s1).resumeCopies bid).freeFrame bid
  (s2.groupsOf bid).foldl (fun s g => s.observe g (returnScope b)) s2

/-- Places an eligible gang that has its tokens. -/
def readmit (s : State) (ids : List Nat) : State :=
  let b0 := s.blk (ids.headD 0)
  match s.roomFor ids with
  | none => s.updBlk (ids.headD 0) fun b => { b with eligibleFrom := b.eligibleFrom.or (some s.clock) }
  | some cores =>
    -- there is room, so that the time without it is over (R41); pins that cannot all be made are not made at all
    let roomy := s.updBlk (ids.headD 0) fun b => { b with eligibleFrom := none }
    let frames := ids.filterMap fun b => (s.readFrame b).map fun f => (b, f)
    let s0 : State := { s with hbx := { s.hbx with yieldFor := s.hbx.yieldFor.filter (· != ids.headD 0) } }
    if frames.length < ids.length || (frames.any fun p => !s.headerOk p.1 p.2.1) then s0.dropGang ids
    else
      match (s0.prepareCluster (cores.headD 0 / 4) b0.desc.fuse b0.card).pinGang (ids.zip cores) with
      | .later => roomy
      | .fault c e => (roomy.translate none b0.ctx e.1 .read).2.cardFault c e 0
      | .ok s1 => (frames.zip cores).foldl (fun s p => s.restoreBlock p.1.1 p.2 p.1.2.1 p.1.2.2) s1
/-- A gang whose blocks are loaded goes on. -/
def resumeGang (s : State) (ids : List Nat) : State :=
  ids.foldl (fun s b =>
    let k := s.blk b
    (s.resumeBlock b).wakeInbox k.core k.ctx k.descVa) s

end State

/-- R202: tokens first, then room, then the restore; then the log, the copies and the rest. -/
def execReadmission (bid : Nat) (s : State) : Res :=
  .next (
    let ids := s.gangOf bid
    let h := ids.headD 0
    if !ids.isEmpty && ids.all fun b => (s.blk b).restoring then s.resumeGang ids
    else if !s.eligible ids || s.yielding.any (· != h) then s
    else if s.hasTokens ids then s.readmit ids
    else if s.takeWaits (.block h) then s
    else match s.takeTokens (.block h) (s.tokensFor ids) with
      | (s1, true) => (s1.updBlk h fun b => { b with tokens := s.tokensFor ids }).readmit ids
      | (s1, false) => s1)

/-! ### Lost joins (R53 to R55) -/

namespace State

/-- Armed registers with lanes waiting, and their numbers. -/
def heldJoins (s : State) (gid : Nat) : List (Nat × JoinReg) :=
  (s.grp gid).joins.filter fun p => p.2.armed && p.2.arrived != 0
/-- The group's arrival on barrier `b` is incomplete because lanes wait at join registers: they miss from the open record,
and every other missing lane is deferred or in a slot that waits behind the record. -/
def needsJoins (s : State) (gid b : Nat) : Bool :=
  let g := s.grp gid
  match g.par with
  | none => false
  | some r =>
    let missing := ~~~(r.mask ||| g.ended)
    let joins := (s.heldJoins gid).foldl (fun m p => m ||| p.2.arrived) 0
    let defer := g.defer.foldl (fun m d => m ||| d.mask) 0
    let behind := (s.occupied gid).foldl (fun m k =>
      let sl := s.slotAt gid k
      if sl.waitFor = .record then m ||| sl.run else m) 0
    r.bar == b && r.rem.isNone && missing &&& joins != 0 && missing &&& ~~~(joins ||| defer ||| behind) == 0
/-- R53. -/
def stuck (s : State) (gid : Nat) : Bool :=
  !(s.heldJoins gid).isEmpty && (s.occupied gid).all fun k =>
    let sl := s.slotAt gid k
    sl.wait == .barrier && (match sl.waitFor with
      | .record => true
      | .arw b => s.needsJoins gid b
      | .bar b _ => s.needsJoins gid b
      | _ => false)

/-- R54: the split of the lowest occupied slot becomes that slot's newest deferral entry. -/
def freeLowest (s : State) (gid : Nat) : State :=
  match s.occupied gid with
  | [] => s
  | k :: _ =>
    let sl := s.slotAt gid k
    let d : Deferral := match sl.waitFor with
      | .bar b p => { owner := k, pc := sl.pc, mask := sl.run, fmt := sl.fmt, wt := 1, p, bar := b }
      | .arw b => { owner := k, pc := sl.pc, mask := sl.run, fmt := sl.fmt, wt := 2, bar := b }
      | _ => { owner := k, pc := sl.pc, mask := sl.run, fmt := sl.fmt }
    ((s.updGrp gid fun g => { g with defer := g.defer ++ [d] }).setSlot gid k (s.slotBase gid k)).endChain gid k

end State

/-- The device releases the register of the lowest rank that holds lanes. -/
def execLostJoinRelease (gid : Nat) (s : State) : Res :=
  .next (
    if !Tbl.has s.grps gid || !issues (s.blk (bidOf gid)) || !s.stuck gid then s
    else
      let js := s.heldJoins gid
      match js.find? fun p => js.all fun q => p.2.rank ≤ q.2.rank with
      | none => s
      | some (j, _) =>
        let s1 := if (s.freeSlots gid).isEmpty then s.freeLowest gid else s
        let s2 := s1.completeJoin gid j ((s1.freeSlots gid).headD 0) 0
        s2.updGrp gid fun g =>
          { g with gstat := g.gstat &&& 0xFFFFFFFFFFFFFF8E ||| BitVec.ofNat 64 (j * 16 + 1) })

end Sys2Proof.Machine
end

