-- ==== Sys2Proof/Machine/Headbox.lean ====
section
/-! DEFINITION. The Headbox: fetching and checking cards (13 R254 to R259), dispatch (R260, 02 R26 to R31), the kinds of
card (13 R261 to R264), completion (R257), queue registers and context switches (15 R295). -/

namespace Sys2Proof.Machine
open State

namespace State

/-! ### Accesses for a card -/

/-- A read for card `c`: the bytes and whether a sector was in error, or the state after a fault (R188) or while a line is
held. `acc` is the record's ACCESS. -/
def hbxRead (s : State) (c va n : Nat) (acc : Nat := 0) : Except State (List Byte × Bool × State) :=
  match s.engRead none (s.card c).ctx va n with
  | (.error e, s1) => .error (s1.cardFault c e acc)
  | (.ok (bs, bad), s1) => .ok (bs, bad, if bad then s1.logError va else s1)
/-- A write for card `c`. -/
def hbxWrite (s : State) (c va : Nat) (bs : List Byte) (acc : Nat := 1) : Except State State :=
  match s.engWrite none (s.card c).ctx va bs with
  | (.error e, s1) => .error (s1.cardFault c e acc)
  | (.ok (), s1) => .ok s1
/-- The card ends with an error status once its work has left (Table 13.5). -/
def failCard (s : State) (c : Nat) (e : Nat × Nat × Nat) : State :=
  s.updCard c fun k => { k with err := k.err.or (some e), phase := .running }

/-! ### Queues -/

/-- The queue serves card `c` no more, and releases that wait for its ready list join it while there is room. -/
def advanceQueue (s : State) (q c : Nat) : State :=
  s.updQueue q fun x =>
    let n := 64 - x.ready.length
    { x with card := x.card.filter (· != c), rel := x.rel.filter (· != c), ready := x.ready ++ x.waiting.take n,
             waiting := x.waiting.drop n }
/-- A queue is stopped, and its message is posted. -/
def stopQueue (s : State) (q : Nat) (f : Queue → Queue) : State := (s.updQueue q f).postMsi (3 + q)
/-- A context whose cards may be dispatched. -/
def dispatches (s : State) (c : Nat) : Bool :=
  Tbl.has s.ctxs c && !(s.ctx c).suspended && !(s.ctx c).ended && !(s.ctx c).fw

/-! ### Fetch (R255, R258, R259) -/

/-- A failed read: again 3,000 clocks later; after the fourth the queue is torn. A card of the ring is then taken up anew from
its entry, and a released one stays at the head of the ready list. -/
def failedRead (s : State) (q c : Nat) : State :=
  let k := s.card c
  if 3 ≤ k.fails then
    let s1 := if k.fromRing then { s with cards := Tbl.erase s.cards c }.advanceQueue q c
      else (s.updCard c fun k => { k with fails := 0, rereadAt := none }).updQueue q fun x => { x with cur := BitVec.ofNat 57 k.va }
    s1.stopQueue q fun x => { x with torn := true }
  else s.updCard c fun k => { k with fails := k.fails + 1, rereadAt := some (s.clock + 3000) }
/-- The queue moves past the place of a card that has been read. -/
def passHead (s : State) (q : Nat) (fromRing : Bool) : State :=
  s.updQueue q fun x => if fromRing then x.pastHead else { x with ready := x.ready.drop 1 }
/-- Reads and checks the card at the head of a queue. A card of the ring has SEEN set, and is passed over while
predecessors are left. -/
def tryCard (s : State) (q c : Nat) : State :=
  let k := s.card c
  match s.hbxRead c k.va 128 with
  | .error s1 => s1
  | .ok (bs, bad, s1) =>
    if bad || !cardOk bs then s1.failedRead q c
    else
      let quads := quadsOf bs
      let fine := !badCard quads ((s1.queue (cardQsel quads)).ctx == k.ctx)
      let s2 := s1.updCard c fun k => { k with quads, phase := .ready, fails := 0, rereadAt := none }
      if !fine then (s2.passHead q k.fromRing).failCard c (2, 0, 0)
      else if !k.fromRing then s2.passHead q false
      else
        let w := leNum ((bs.drop 8).take 4)
        let set := w % 2 ^ 31 + 2 ^ 31
        match s1.hbxWrite c (k.va + 8) (toLe 4 set) 2 with
        | .error s3 => s3
        | .ok s3 =>
          let s4 := (s3.updCard c fun k => { k with quads, phase := .ready, fails := 0, rereadAt := none }).passHead q true
          if w % 2 ^ 31 = 0 then s4
          else
            -- passed over: it keeps the capability of its entry until a predecessor releases it
            let s5 := s4.updQueue q fun x => { x with passed := x.passed ++ [(k.va, k.dev, quads.getD 0 0)] }
            ({ s5 with cards := Tbl.erase s5.cards c }).advanceQueue q c
/-- Takes up a card, of which `fails` reads have failed. -/
def beginCard (s : State) (q ctx va : Nat) (dev : Option Cap) (fromRing : Bool) (fails : Nat := 0) : State :=
  let c := s.freshId s.cards
  let s1 := (s.takeId c).setCard c { phase := .fetch, ctx, va, queue := q, dev, fromRing, fails }
  let s2 := s1.updQueue q fun x =>
    { x with card := if fromRing then some c else x.card, rel := if fromRing then x.rel else some c, cur := BitVec.ofNat 57 va }
  s2.tryCard q c
/-- The capability of a released card's ring entry, if it stood on a ring of its context with DEV = 1 (R263), which no queue
keeps any longer. -/
def takePassed (s : State) (ctx va : Nat) : Option Cap × State :=
  match (List.range 32).find? fun q => (s.queue q).ctx == ctx && (s.queue q).passed.any fun p => p.1 == va with
  | none => (none, s)
  | some q => ((s.queue q).passed.lookup va |>.bind (·.1),
      s.updQueue q fun x => { x with passed := x.passed.eraseP fun p => p.1 == va })
/-- The entry breaks R255. -/
def badEntry (e : List Quad) : Bool :=
  (e.getD 0 0).toNat / 2 ^ 57 != 0 || (e.getD 0 0).toNat % 128 != 0 || !zeroQuads e [1, 2, 3]
/-- The entry at the head of a ring, of which `fails` reads have failed, and its card. -/
def ringCard (s : State) (q : Nat) (fails : Nat := 0) : State :=
  let x := s.queue q
  let a := x.entryAt x.head.toNat
  if x.empty || s.blocked x.tgt a 32 || s.releasedAhead x.tgt a 32 then s
  else
    let s0 := s.settleHome x.tgt a 32
    let e := quadsOf (s0.tgtBytes x.tgt a 32)
    let va := (e.getD 0 0).toNat % 2 ^ 57
    let cap : Cap := { bits := e.getD 2 0 ++ e.getD 1 0, tag := true }
    if s0.tgtBad x.tgt a 32 then
      -- a failed read (15 Table 15.3); the card's address is not known, and the entry is what is read again
      let c := s0.freshId s0.cards
      let s1 := (s0.takeId c).setCard c { phase := .entry, ctx := x.ctx, queue := q, fromRing := true, fails }
      ((s1.updQueue q fun x => { x with card := some c }).logError a).failedRead q c
    else if !x.devpost && badEntry e then s0.stopQueue q fun x => { x.pastHead with badent := true }
    else s0.beginCard q x.ctx va (if (e.getD 0 0).getLsbD 63 then some cap else none) true fails
/-- The next card of a queue: the head of its ready list is taken up first; then one taken up before is read again; then the
ring's head is taken up. -/
def nextCard (s : State) (q : Nat) : State :=
  let x := s.queue q
  match x.rel, x.ready with
  | none, (ctx, va) :: _ =>
    let r := s.takePassed ctx va
    r.2.beginCard q ctx va r.1 false
  | _, _ =>
    let tries := fun (c : Nat) => (s.card c).phase == .fetch && !(s.card c).fltWait && (s.card c).rereadAt.isNone
    match (x.rel.toList ++ x.card.toList).find? tries with
    | some c => s.tryCard q c
    | none => if x.card.isNone then s.ringCard q else s

/-- The queue may be read. -/
def readable (s : State) (q : Nat) : Bool :=
  let x := s.queue q
  q < 32 && x.en && !x.torn && !x.badent && s.dispatches x.ctx

end State

/-- R258: the head of an enabled queue is read; a read that a fault held is made again. The cards of a queue whose context
has ended are read to be aborted (R292 step 3). -/
def execCardFetch (q : Nat) (s : State) : Res :=
  .next (
    let x := s.queue q
    if q < 32 && (s.ctx x.ctx).ended then (s.abortRing q 65536).abortAll x.ctx
    else if !s.readable q then s
    else s.nextCard q)

/-- The re-reads of R258: the same card again, or the entry where that was in error. -/
def execCardReread (q : Nat) (s : State) : Res :=
  .next (
    let x := s.queue q
    let due := fun (c : Nat) => !(s.card c).fltWait && (s.card c).rereadAt.any (· ≤ s.clock)
    match if s.readable q then (x.rel.toList ++ x.card.toList).find? due else none with
    | some c =>
      if (s.card c).phase = .entry then
        ({ s with cards := Tbl.erase s.cards c }.advanceQueue q c).ringCard q (s.card c).fails
      else (s.updCard c fun k => { k with rereadAt := none }).tryCard q c
    | none => s)

/-- The host clears TORN: the check starts again with three re-reads. -/
def execTornClear (q : Nat) (s : State) : Res :=
  .next (if s.served && q < 32 then s.updQueue q fun x => { x with torn := false } else s)
/-- The host clears BADENT: the queue goes on at the next entry. -/
def execBadentClear (q : Nat) (s : State) : Res :=
  .next (if s.served && q < 32 then s.updQueue q fun x => { x with badent := false } else s)

/-- R254: after the requester's earlier posted writes; ignored on a queue fed by JOBPOST. -/
def execHbxQtailWrite (req q : Nat) (v : BitVec 64) (s : State) : Res :=
  let s0 := s.drainPosted
  .next (if !s.served || 32 ≤ q then s
    else if s0.awaitsPosted req then s0
    else if (s0.queue q).devpost then s0
    else s0.updQueue q fun x => { x with tail := v.extractLsb' 0 16 })

/-! ### Descriptors -/

namespace State

/-- Reads the descriptor and builds the launch capability (R26, R27, R263). -/
def readDesc (s : State) (c : Nat) (blocksBad : Desc → Bool) (check : Bool) : State :=
  let k := s.card c
  match s.hbxRead c (cq_ k.quads 3 0 57) 64 with
  | .error s1 => s1
  | .ok (_, true, s1) => s1.failCard c (2, 0, 0)
  | .ok (bs, false, s1) =>
    let q := quadsOf bs
    let d := Desc.ofQuads q
    match launchCap k with
    | none => s1.failCard c (3, 0, 0)
    | some lcap =>
      if (check && descBad q d) || blocksBad d then s1.failCard c (3, 0, 0)
      else s1.updCard c fun k => { k with desc := some d, lcap }

/-! ### Blocks -/

/-- The cores of CORESET, in increasing %core. -/
def coreSet (q : List Quad) : List Nat :=
  (List.range 144).filter fun n => (q.getD (8 + n / 64) 0).getLsbD (n % 64)
/-- The core that a TASK card's next loop block goes to. -/
def loopCore (s : State) (k : Card) : Option Nat :=
  if cardKind k.quads = kTASK then some (s.physCore ((coreSet k.quads).getD k.nextBlk 0)) else none
/-- Blocks that a card launches. -/
def blockCount (k : Card) : Nat :=
  if cardKind k.quads = kTASK then (if cq_ k.quads 4 63 1 = 1 then (coreSet k.quads).length else 0)
  else cq_ k.quads 4 0 32
/-- No new block of a priority is placed: a swapped gang of the same priority that has its tokens goes first (R31, R40), and
while one is swapped out for another, that one (R41). DESIGN CHOICE (log 81): a gang that waits for tokens holds no block back. -/
def placeHeld (s : State) (prio : Nat) : Bool :=
  s.yielding.isSome || s.gangs.any fun g => s.eligible g && s.hasTokens g && s.prioOf (g.headD 0) == prio
/-- Room for the next block or gang of a card with descriptor d. -/
def cardRoom (s : State) (k : Card) (d : Desc) : Option (List Nat) :=
  if s.placeHeld (s.queue k.queue).prio then none else s.placeOf d d.gangSize [] (s.loopCore k)
/-- Dispatches the next block or gang (R260): its tokens first, then room. -/
def dispatchNext (s : State) (c : Nat) (d : Desc) : State :=
  let k := s.card c
  let place := fun (s : State) =>
    match s.cardRoom (s.card c) d with
    | none => s
    | some cores =>
      let s1 := s.startBlocks c k.nextBlk d cores
      let s2 := s1.updCard c fun k => { k with nextBlk := k.nextBlk + cores.length }
      if blockCount k ≤ k.nextBlk + cores.length then
        (s2.updCard c fun k => { k with phase := .running }).advanceQueue k.queue c
      else s2
  let need := d.gangSize * d.tok
  if need ≤ k.tokens then place s
  else match s.takeTokens (.headbox c) need with
    | (s1, true) => place (s1.updCard c fun k => { k with tokens := need })
    | (s1, false) => s1.updCard c fun k => { k with phase := .tokens }

/-! ### The kinds of card -/

/-- A GRID card: its descriptor once, then one block or gang a step. -/
def runGrid (s : State) (c : Nat) : State :=
  let k := s.card c
  let n := blockCount k
  let s1 := if k.desc.isSome then s
    else s.readDesc c (fun d => n == 0 || n % d.gangSize != 0) true
  match (s1.card c).desc with
  | some d => s1.dispatchNext c d
  | none => s1

/-- Reads and checks the records of a TASK card (R124, R262); its descriptor is not read again (R26). -/
def readRecords (s : State) (c : Nat) (d : Desc) : State :=
  let k := s.card c
  let n := cq_ k.quads 4 0 13
  let a := cq_ k.quads 7 0 57
  if 4096 < n || a % 64 != 0 then s.failCard c (3, 0, 0)
  else
    match s.hbxRead c a (64 * n) with
    | .error s1 => s1
    | .ok (_, true, s1) => s1.failCard c (2, 0, 0)
    | .ok (bs, false, s1) =>
      let q := quadsOf bs
      let rs := (List.range n).map fun i => (q.drop (8 * i)).take 8
      if rs.all fun r => recordOk r d k.lcap then s1.updCard c fun k => { k with unposted := rs, recsRead := true }
      else s1.failCard c (3, 0, 0)
/-- A TASK card: its records once, then its loop blocks one a step (R264). -/
def runTask (s : State) (c : Nat) : State :=
  let k := s.card c
  let launch := cq_ k.quads 4 63 1 == 1
  let cs := coreSet k.quads
  let badCores := cs.isEmpty || cs.any fun n => s.computeClusters.length * 4 ≤ n
  let s1 := if k.desc.isSome then s
    else s.readDesc c (fun d => launch && (d.gang != 0 || d.fuse || badCores)) launch
  match (s1.card c).desc with
  | none => s1
  | some d =>
    let s2 := if k.recsRead then s1 else s1.readRecords c d
    if !(s2.card c).recsRead then s2
    else if launch then s2.dispatchNext c d
    else (s2.updCard c fun k => { k with phase := .running }).advanceQueue k.queue c

/-- Copy channels in use. -/
def channelsUsed (s : State) : List Nat := (s.copies.filter fun p => p.2.bid.isNone).map fun p => p.2.cslot
/-- A COPY card starts on a channel. -/
def runCopy (s : State) (c : Nat) : State :=
  let k := s.card c
  if !copyCapOk k then s.failCard c (8, 0, 0)
  else
    let cid := s.freshId s.copies
    let side := fun (i : Nat) => ({ kind := 0, start := cq_ k.quads i 0 57, bids := [] } : CopySide)
    let x : Copy := { bid := none, gid := 0, slot := 0, core := 0, cslot := freshOf s.channelsUsed, ctx := k.ctx, card := c,
                      quads := [], src := side 3, dst := side 4, rowb := cq_ k.quads 5 0 48, nrow := 1 }
    (((s.takeId cid).setCopy cid x).updCard c fun k => { k with copy := some cid, phase := .running }).advanceQueue k.queue c

/-- SIGNAL writes its word. -/
def runSignal (s : State) (c : Nat) : State :=
  let k := s.card c
  match s.hbxWrite c (cq_ k.quads 3 0 57) (toLe 8 (k.quads.getD 4 0).toNat) with
  | .error s1 => s1
  | .ok s1 => (s1.updCard c fun k => { k with phase := .running }).advanceQueue k.queue c
/-- CHAIN has no work of its own. -/
def runChain (s : State) (c : Nat) : State :=
  (s.updCard c fun k => { k with phase := .running }).advanceQueue (s.card c).queue c

/-- Cards armed. -/
def armedCount (s : State) : Nat := s.cards.countP fun p => p.2.phase == .armed
/-- Reads a WATCH card's word: on a match the card ends with DONE, else `other` follows. -/
def readWatch (s : State) (c : Nat) (other : State → State) : State :=
  let k := s.card c
  match s.hbxRead c (cq_ k.quads 3 0 57) 8 with
  | .error s1 => s1
  | .ok (bs, bad, s1) =>
    let v := leNum bs
    let seq := (k.quads.getD 4 0).toNat
    if !bad && (v + 2 ^ 64 - seq) % 2 ^ 64 < 2 ^ 63 then s1.failCard c (1, if v = seq then 0 else 1, v % 2 ^ 32)
    else other s1
/-- WATCH: a match, or the card is armed while fewer than 32 are; a 33rd waits, its word read once. -/
def runWatch (s : State) (c : Nat) : State :=
  let q := (s.card c).queue
  let s1 := s.readWatch c fun s =>
    if s.armedCount < 32 then
      s.updCard c fun k => { k with phase := .armed, armedAt := s.clock, lastRead := s.clock }
    else s.updCard c fun k => { k with lastRead := max 1 s.clock }
  if (s1.card c).phase = .ready then s1 else s1.advanceQueue q c

/-- Runs one step of the card. -/
def serveCard (s : State) (c : Nat) : State :=
  match cardKind (s.card c).quads with
  | 1 => s.runGrid c
  | 2 => s.runTask c
  | 3 => s.runCopy c
  | 4 => s.runSignal c
  | 5 => s.runWatch c
  | _ => s.runChain c

/-! ### Arbitration (R260) -/

/-- A card that its queue has taken up can be served now. -/
def cardReady (s : State) (c : Nat) : Bool :=
  let k := s.card c
  let launches := cardKind k.quads = kGRID || (cardKind k.quads = kTASK && cq_ k.quads 4 63 1 = 1)
  k.phase == .ready && !k.noMore && !k.fltWait && s.dispatches k.ctx &&
    (!launches || ((s.ctx k.ctx).rfcount == 0 && (match k.desc with
      | some d => k.tokens < d.gangSize * d.tok || (s.cardRoom k d).isSome
      | none => true))) &&
    (cardKind k.quads != kCOPY || !copyCapOk k || s.channelsUsed.length < 8) &&
    (cardKind k.quads != kSIGNAL || !s.unansweredReleased) &&
    (cardKind k.quads != kWATCH || s.armedCount < 32 || k.lastRead == 0)
/-- The card that a queue has to serve now: that of its ready list, or else that of its ring (R259, R260). -/
def servedCard (s : State) (q : Nat) : Option Nat :=
  let x := s.queue q
  if !s.readable q || (x.rel.isNone && !x.ready.isEmpty) then none
  else (x.rel.toList ++ x.card.toList).find? s.cardReady
/-- A card at the head of a queue can be served now. -/
def dispatchable (s : State) (q : Nat) : Bool := (s.servedCard q).isSome
/-- The queue that a dispatch step serves. -/
def chooseQueue (s : State) : Option Nat :=
  let order := (List.range 32).map fun i => (s.hbx.lastServed + 1 + i) % 32
  let qs := order.filter s.dispatchable
  qs.find? fun q => qs.all fun r => (s.queue q).prio ≤ (s.queue r).prio
/-- The pins of a gang that has room at `cores` can be made, or fault. -/
def pinsReady (s : State) (ids cores : List Nat) : Bool :=
  let b0 := s.blk (ids.headD 0)
  match (s.prepareCluster (cores.headD 0 / 4) b0.desc.fuse b0.card).pinGang (ids.zip cores) with
  | .later => false
  | _ => true
/-- A dispatch step has something to do for a swapped gang: to take its tokens, to place it, or to go on with its restore. -/
def gangReady (s : State) (g : List Nat) : Bool :=
  let h := g.headD 0
  (!g.isEmpty && g.all fun b => (s.blk b).restoring) ||
    (s.eligible g && s.yielding.all (· == h) &&
      (if s.hasTokens g then (s.roomFor g).any (s.pinsReady g) else !s.takeWaits (.block h)))
/-- The gangs of the highest priority, p or above, that a dispatch step can serve. -/
def readyGangs (s : State) (p : Nat) : List Nat :=
  let hs := (s.gangs.filter s.gangReady).map fun g => g.headD 0
  hs.filter fun h => s.prioOf h ≤ p && hs.all fun k => s.prioOf h ≤ s.prioOf k
/-- A gang of priority p or above for which a yield is due. -/
def dueGang (s : State) (p : Nat) : Option Nat :=
  (s.gangs.find? fun g => s.yieldDue g && s.prioOf (g.headD 0) ≤ p).map fun g => g.headD 0
/-- Gangs that have their tokens and find no room wait from now on; those that find room wait no longer (R41). -/
def noteWaiting (s : State) : State :=
  (s.gangs.filter fun g => s.eligible g && s.hasTokens g).foldl (fun s g =>
    let room := (s.roomFor g).isSome
    s.updBlk (g.headD 0) fun b => { b with eligibleFrom := if room then none else b.eligibleFrom.or (some s.clock) }) s
/-- The priority that a dispatch step serves. -/
def stepPrio (s : State) : Nat := match s.chooseQueue with
  | some q => (s.queue q).prio
  | none => 3
/-- Serves a queue's card. -/
def serveQueueCard (s : State) (q c : Nat) : State :=
  { s with hbx := { s.hbx with lastServed := q } }.serveCard c
/-- Card c is the one that a dispatch step would serve, and has the kind. -/
def isServed (s : State) (c kind : Nat) : Bool :=
  (match s.chooseQueue with
    | some q => s.servedCard q == some c && (s.readyGangs s.stepPrio).isEmpty && (s.dueGang s.stepPrio).isNone
    | none => false) && cardKind (s.card c).quads == kind

end State

/-- R260: a swapped block or a yield request of the same or a higher priority first, then one step of the card chosen. Which
of several gangs of one priority goes first is not specified. -/
def execDispatchStep (s0 : State) : Res :=
  let s := s0.noteWaiting
  match s.choose 72 (s.readyGangs s.stepPrio), s.dueGang s.stepPrio with
  | some h, _ => execReadmission h s.tick
  | none, some h => execYield h s
  | none, none => .next (match s.chooseQueue with
    | some q => (match s.servedCard q with
      | some c => s.serveQueueCard q c
      | none => s)
    | none => s)

/-- A dispatch step that runs a SIGNAL card. -/
def execSignal (c : Nat) (s : State) : Res :=
  .next (if s.isServed c kSIGNAL then s.serveQueueCard (s.card c).queue c else s)
/-- A dispatch step that runs a CHAIN card. -/
def execChain (c : Nat) (s : State) : Res :=
  .next (if s.isServed c kCHAIN then s.serveQueueCard (s.card c).queue c else s)
/-- A dispatch step that starts a COPY card. -/
def execCopy (c : Nat) (s : State) : Res :=
  .next (if s.isServed c kCOPY then s.serveQueueCard (s.card c).queue c else s)
/-- A dispatch step that runs a WATCH card. -/
def execWatch (c : Nat) (s : State) : Res :=
  .next (if s.isServed c kWATCH then s.serveQueueCard (s.card c).queue c else s)
/-- A dispatch step that runs a TASK card. -/
def execTask (c : Nat) (s : State) : Res :=
  .next (if s.isServed c kTASK then s.serveQueueCard (s.card c).queue c else s)

/-- R261: an armed word in device memory is read again after writes to it, another one every 1,024 clocks. -/
def execWatchReread (c : Nat) (s : State) : Res :=
  .next (
    let k := s.card c
    let device := match (s.translate none k.ctx (cq_ k.quads 3 0 57) .read).1 with
      | .ok t _ => t == 0
      | .fault _ _ => true
    if k.phase != .armed || k.fltWait || !(device || k.lastRead + 1024 ≤ s.clock) then s
    else s.readWatch c fun s => s.updCard c fun k => { k with lastRead := s.clock })
/-- R261: TMO × 1,024 clocks without a match. -/
def execTimeout (c : Nat) (s : State) : Res :=
  .next (
    let k := s.card c
    let tmo := cq_ k.quads 5 0 32
    if k.phase = .armed && tmo != 0 && k.armedAt + 1024 * tmo ≤ s.clock then s.failCard c (7, 0, 0) else s)

/-! ### Completion (R257, R259) -/

namespace State

/-- Status, detail and information of a card whose work has ended. -/
def finished (s : State) (k : Card) : Option (Nat × Nat × Nat) :=
  let copying := match k.copy with
    | some cid => (s.copy cid).isSome
    | none => false
  let records := cardKind k.quads = kTASK && cq_ k.quads 4 63 1 = 0 && !(k.unposted.isEmpty && k.assigned.isEmpty && k.posted == 0)
  if k.succ.isSome || k.live != 0 || copying then none
  else match k.phase with
    | .running => if records then none else some (k.err.getD (1, 0, 0))
    | .ready | .tokens => if k.noMore then k.err else none
    | _ => none
/-- What the card's blocks have read with LD.INV is discarded (R128); with no card running no old value is kept. -/
def endInvariants (s : State) (c : Nat) : State :=
  let s1 := s.updCard c fun k => { k with since := none, invs := [] }
  if s1.cards.any fun p => p.2.since.isSome then s1 else { s1 with hist := [] }
/-- Steps 1 and 2 of R257; the card's invariant copies are discarded first (R128). -/
def completeCard (s : State) (c : Nat) (e : Nat × Nat × Nat) : State :=
  let k := s.card c
  match (s.endInvariants c).hbxWrite c (k.va + 112) (s.statusBytes e) with
  | .error s1 => s1
  | .ok s1 =>
    let s2 := if cardIrq k.quads then s1.postMsi (3 + k.queue) else s1
    let s4 := (s2.giveTokens k.tokens).dropTakes fun w => w == .headbox c
    let s5 := s4.advanceQueue k.queue c
    let next := if e.1 = 1 || (cardCont k.quads && e.1 != 9) then successors k.quads else []
    s5.updCard c fun k => { k with succ := some next, tokens := 0 }
/-- Releases one successor (R259); where its card is in error, it is read again 3,000 clocks later (log 99). -/
def releaseCard (s : State) (c va : Nat) (rest : List Nat) : State :=
  match s.hbxRead c va 16 2 with
  | .error s1 => s1
  | .ok (_, true, s1) => s1.updCard c fun k => { k with rereadAt := some (s.clock + 3000) }
  | .ok (bs, false, s1) =>
    let w := leNum ((bs.drop 8).take 4)
    let n := (w % 2 ^ 31 + 2 ^ 31 - 1) % 2 ^ 31
    match s1.hbxWrite c (va + 8) (toLe 4 (w / 2 ^ 31 * 2 ^ 31 + n)) 2 with
    | .error s2 => s2
    | .ok s2 =>
      let s3 := s2.updCard c fun k => { k with succ := some rest, rereadAt := none }
      if n = 0 && w / 2 ^ 31 = 1 then
        s3.updQueue (cardQsel (quadsOf bs)) fun x =>
          let e := ((s.card c).ctx, va)
          if x.ready.length < 64 then { x with ready := x.ready ++ [e] } else { x with waiting := x.waiting ++ [e] }
      else s3

end State

/-- A card whose work has ended completes, after the releases before it (R147); its successors are released one by one. A
card of an ended context completes with ABORTED. -/
def execCardComplete (c : Nat) (s : State) : Res :=
  .next (
    let k := s.card c
    if !Tbl.has s.cards c || k.fltWait || s.unansweredReleased || k.succ.isSome && k.rereadAt.any (s.clock < ·) then s
    else if k.phase = .abort then s.abortCard c
    else match k.succ with
      | some (va :: rest) => s.releaseCard c va rest
      | some [] => s.setCard c { ctx := k.ctx, va := k.va }
      | none => match s.finished k with
        | some e => s.completeCard c e
        | none => s)

/-! ### Context switches (15 R295) -/

namespace State

/-- The write that starts an operation of HBX_CTXCTL; while BUSY = 1 it does nothing. -/
def ctxctlStart (s : State) (c op : Nat) (f : State → State) : State :=
  if !s.served || s.hbx.ctl.getLsbD 63 then s
  else f { s with hbx := { s.hbx with ctl := BitVec.ofNat 64 (2 ^ 63 + c % 2 ^ 16 * 2 ^ 16 + op) } }
/-- A context of the host driver, which Ifeic's own is not. -/
def userCtx (s : State) (c : Nat) : Bool := Tbl.has s.ctxs c && !(s.ctx c).fw
/-- Every card of an ended context has completed with ABORTED, and its rings are empty (R292 step 3). -/
def allAborted (s : State) (c : Nat) : Bool :=
  !(s.cards.any fun p => p.2.ctx == c && p.2.phase == .abort) &&
    (List.range 32).all fun q => (s.queue q).ctx != c || Queue.empty (s.queue q)

end State

def execSuspend (ctx : Nat) (s : State) : Res :=
  .next (s.ctxctlStart ctx 1 fun s => if s.userCtx ctx then s.suspendCtx ctx else s)
/-- END: EndContext with reason HOST. -/
def execEndCtx (ctx : Nat) (s : State) : Res :=
  .next (s.ctxctlStart ctx 2 fun s =>
    if s.userCtx ctx then s.endContext ctx .host {} else s)
/-- After a firmware error a reset is the only recovery (R306). -/
def execResume (ctx : Nat) (s : State) : Res :=
  .next (s.ctxctlStart ctx 3 fun s =>
    if s.userCtx ctx && !(s.ctx ctx).ended && !s.dev.fwerr then s.updCtx ctx fun k => { k with suspended := false } else s)
/-- BUSY clears once the operation is complete: SUSPEND when every block has left, after which allowances go back. -/
def execCtxctlComplete (s : State) : Res :=
  .next (
    let v := s.hbx.ctl.toNat
    let c := bitsOf v 16 16
    let done := fun (s : State) => { s with hbx := { s.hbx with ctl := s.hbx.ctl &&& 0x7FFFFFFFFFFFFFFF } }
    if !s.hbx.ctl.getLsbD 63 then s
    else if v % 4 = 1 then (if s.ctxOut c then done (s.returnAllows c) else s)
    else if v % 4 = 2 && s.userCtx c then
      (if s.allAborted c then done (s.updCtx c fun k => { k with endDone := true }) else s)
    else done s)

end Sys2Proof.Machine
end

