-- ==== Sys2Proof/Machine/System.lean ====
section
/-! DEFINITION. Reset and boot (16 R300, R301, 01 R18, R20), the host link and BAR0 (R298, R299), the firmware mailbox
(R302 to R312), the peer link (R310) and firmware errors (R306). -/

namespace Sys2Proof.Machine
open State

/-! ### Reset and boot -/

/-- Fields of the configuration table (Table 16.3). -/
structure BootTable where
  minver : Nat
  f : Nat
  c : Nat
  wide : Bool
  fwcol : Nat
  rolemap : Nat
  deriving DecidableEq, Repr

def BootTable.ofQuads (q : List Quad) : BootTable :=
  { minver := cq_ q 0 0 32, f := cq_ q 1 19 10, c := cq_ q 1 9 10, wide := cq_ q 1 8 1 == 1, fwcol := cq_ q 1 0 5,
    rolemap := cq_ q 2 0 32 }
/-- The cores that ROLEMAP covers and their roles. -/
def BootTable.roles (t : BootTable) : List Nat := (List.range 8).map fun i => bitsOf t.rolemap (2 * i) 2
/-- The limits of Table 16.3 (R301, R465). -/
def BootTable.ok (t : BootTable) (q : List Quad) (clmask : BitVec 38) : Bool :=
  let cols := if t.wide then [t.fwcol, t.fwcol + 1] else [t.fwcol]
  cq_ q 0 32 32 == 0x5A4C3943 && 2 ≤ t.c && t.c ≤ 512 && 1 ≤ t.f && t.f < t.c && t.fwcol ≤ 18 &&
    !(t.wide && t.fwcol == 18) && (cols.all fun k => clmask.getLsbD (2 * k) && clmask.getLsbD (2 * k + 1)) &&
    ((List.range 4).all fun r => t.roles.contains r)

/-- The 32 bytes of a digest. -/
def digestBytes (d : BitVec 256) : List Byte := toLe 32 d.toNat

namespace State

/-- A boot step fails (R300). -/
def bootFail (s : State) (code : Nat) : State :=
  { s with dev := { s.dev with boot := .failed, fail := true, code } }
/-- Step 5: granules 0 to C − 1 are zeroed with their tags. -/
def zeroCarve (s : State) : State :=
  let e := s.carveEnd
  { s with mem := s.mem.filter fun p => e ≤ p.1, mtags := s.mtags.filter fun p => e ≤ 16 * p.1,
           poison := s.poison.filter fun p => e ≤ 32 * p.1 }
/-- Deckle at reset (R270): a counter line in the firmware region with CAP = 0 (08 R180). -/
def startDeckle (s : State) : State :=
  let t := if s.dev.sku120 then 2688 else 3200
  let s1 : State := { s with hbx := { s.hbx with dklTarget := t, dklMax := 32 * s.computeCores.length, dklMin := 128 } }
  (((s1.allocate (lineOf deckleAt)).setCq deckleAt 0 t).setCq deckleAt 1 (2 ^ 63)).setDir (lineOf deckleAt) { ctr := true }

/-- Ifeic's own context. DESIGN CHOICE (log 83): its number is the first that no user context can have (Table 16.6). -/
def fwCtx : Nat := 4096
/-- Ifeic starts on the firmware column with its context (R290, R300 step 6). -/
def startIfeic (s : State) : State :=
  s.setCtx fwCtx { exist := true, fw := true, ptroot := Config.fwRoot, tvec := Config.fwVector }

/-- Step 1 of R300: the fuses are read. Configuration requests are answered from its end on. -/
def bootFuses (s : State) (b : BootInput) : State :=
  let clmask : BitVec 38 := if b.sku120 then b.clMask else -1
  { s with dev := { s.dev with boot := .loading, sku120 := b.sku120, clmask } }
/-- Steps 2 to 6 of R300. -/
def bootLoad (s1 : State) (b : BootInput) : State :=
  let chfuse : BitVec 16 := if b.sku120 then b.chFuse else -1
  let q := quadsOf b.table
  let t := BootTable.ofQuads q
  if !b.tableSigOk || b.table.length != 64 || !t.ok q s1.dev.clmask then s1.bootFail 1
  else
    let s2 : State := { s1 with dev := { s1.dev with
      minver := BitVec.ofNat 32 t.minver, f := t.f, c := t.c, wide := t.wide, fwcol := t.fwcol,
      rolemap := BitVec.ofNat 32 t.rolemap } }
    if !b.imageSigOk || b.imageVer.toNat < t.minver then s2.bootFail 2
    else
      let m2 := Config.sha256 b.image
      let m3 := Config.sha256 (List.replicate 32 0 ++ digestBytes m2)
      let s3 : State := { s2 with dev := { s2.dev with
        wmk := [Config.sha256 b.rom, Config.sha256 b.table, m2, m3], wmkVer := b.imageVer } }
      let chmask := chfuse &&& b.trained
      if chmask = 0 then s3.bootFail 3
      else
        let s4 := ({ s3 with dev := { s3.dev with chmask } }).zeroCarve
        if !b.carveOk then s4.bootFail 4
        else
          let s5 : State := { s4 with dev := { s4.dev with boot := .done, bootDone := true, firewall := true } }
          s5.startDeckle.startIfeic.postMsi 1
/-- The boot sequencer goes on (R300): through step 1, then through steps 2 to 6. -/
def bootStep (s : State) : State :=
  match s.dev.boot, s.dev.bootIn with
  | .booting, some b => s.bootFuses b
  | .loading, some b => { s with dev := { s.dev with bootIn := none } }.bootLoad b
  | _, _ => s

/-- What a reset leaves: the memories keep their contents, and the model's own fields go on. -/
def hardReset (s : State) : State :=
  { reset with mem := s.mem, mtags := s.mtags, poison := s.poison, hostMem := s.hostMem, peerMem := s.peerMem, peerBad := s.peerBad,
               agenda := s.agenda, free := s.free }

end State

/-- R300: the boot sequencer starts. -/
def execPerstDeassert (b : BootInput) (s : State) : Res :=
  .next (if s.dev.boot = .held then { s with dev := { s.dev with boot := .booting, bootAt := s.clock, bootIn := some b } } else s)
/-- Everything but the memories goes back to its state at reset. -/
def execPerstAssert (s : State) : Res := .next s.hardReset

/-- R300: Request Retry Status until step 1 ends; nothing answers before the deassertion. -/
def execConfigRequest (s : State) : Res :=
  .next (if s.dev.boot = .held then s
    else
      let r : Reply := if s.dev.boot = .booting then { kind := .retry } else { data := Config.configSpace }
      { s with dev := { s.dev with replies := s.dev.replies ++ [r] } })

/-! ### BAR2 (R298, R299, R109, 07 R153) -/

namespace State

def reply (s : State) (kind : ReplyKind) (data : List Byte) : State :=
  { s with dev := { s.dev with replies := s.dev.replies ++ [{ kind, data : Reply }] } }
/-- The bytes that a host read returns: zero in the firmware region and at or above U. -/
def hostBytes (s : State) (a n : Nat) : List Byte :=
  (List.range n).map fun i => if a + i < s.fwEnd || s.usable ≤ a + i then 0 else s.peek (a + i)

end State

/-- A posted write is received, and becomes visible when its turn comes. -/
def execBar2PostedWrite (req : Nat) (relaxed : Bool) (addr : Nat) (data : List (BitVec 8)) (s : State) : Res :=
  .next (if !s.served then s
    else { s with dev := { s.dev with posted := s.dev.posted ++ [(req, relaxed, addr, data)] } }.drainPosted)
/-- A read returns after the requester's earlier posted writes. -/
def execBar2Read (req addr len : Nat) (s : State) : Res :=
  .next (if !s.served then s.reply .ok (List.replicate len 0)
    else
      let s1 := s.drainPosted
      if s1.awaitsPosted req || s1.blocked 0 addr len then s1
      else
        let s2 := s1.settleHome 0 addr len
        let err := (List.range len).any fun i =>
          s2.fwEnd ≤ addr + i && addr + i < s2.usable && s2.bad (addr + i) 1
        let s3 := if err then (s2.logError addr).logPoison addr else s2
        let s4 := if addr < s3.fwEnd && len != 0 then s3.countRefusal else s3
        s4.reply (if err then .bad else .ok) (s4.hostBytes addr len))

/-- The meaning of a PCIe AtomicOp as an operation of Table 18.2. -/
def PcieOp.atom : PcieOp → AtomOp
  | .fetchAdd => .add | .swap => .xchg | .cas => .cas

namespace State

/-- A read-modify-write at the home for the host or the peer: the old value, or an error that performs nothing. -/
def homeAtomic (s : State) (op : AtomOp) (size8 : Bool) (a : Nat) (x cmp : Quad) : State :=
  let n := atomBytes size8
  match (s.settleHome 0 a n).homeRmw a n fun old => (atomApply op size8 .rne (BitVec.ofNat 64 old) x cmp).toNat with
  | .error s1 => s1.reply .bad []
  | .ok (s1, old) => s1.reply .ok (toLe n old)

end State

/-- R298. A misaligned request performs nothing and is answered with an error. -/
def execBar2AtomicOp (op : PcieOp) (size8 : Bool) (addr : Nat) (x cmp : BitVec 64) (s : State) : Res :=
  let n := atomBytes size8
  .next (if !s.served then s.reply .ok (List.replicate n 0)
    else
      let s1 := s.drainPosted
      if addr % n != 0 then s1.reply .bad []
      else if addr < s1.fwEnd then (s1.countRefusal).reply .ok (List.replicate n 0)
      else if s1.usable ≤ addr then s1.reply .ok (List.replicate n 0)
      else if s1.blocked 0 addr n then s1
      else s1.homeAtomic (PcieOp.atom op) size8 addr x cmp)

/-! ### The mailbox (R302 to R309) -/

def mOK : Nat := 0
def mREFUSED : Nat := 1
def mBADARG : Nat := 2
def mBADSIG : Nat := 3

namespace State

/-- What a command's work comes to: the state and the status that it will complete with, or none while a line that it
needs is held. -/
abbrev Work := Option (State × Nat)

/-- The work of the command in progress is done, or left for later. -/
def doWork (s : State) (f : State → Work) : State :=
  match f s with
  | some (s1, st) => { s1 with dev := { s1.dev with mbox := some (some st) } }
  | none => s
/-- OP and BUSY of FWC_CMD are written; STATUS stands until a command completes (R302). -/
def setCmd (s : State) (op : Nat) (busy : Bool) : State :=
  { s with dev := { s.dev with cmd := BitVec.ofNat 64 (busy.toNat * 2 ^ 63 + bitsOf s.dev.cmd.toNat 40 8 * 2 ^ 40 + op % 256) } }
/-- Accepts a command. After a firmware error only ERRLOG is accepted (R306). -/
def mailbox (s : State) (op : Nat) (disp : Option DisplayCmd) (f : State → Work) : State :=
  if !s.served || s.dev.mbox.isSome || (s.dev.fwerr && op != 8) then s
  else
    let s1 := s.setCmd op true
    ({ s1 with dev := { s1.dev with mbox := some none, mboxDisp := disp } }).doWork f

/-- n bytes of device memory that Ifeic reads for a command. DESIGN CHOICE (log 82): a range that leaves device memory, or
holds an error, gives BADARG. -/
def fwRead (s : State) (a n : Nat) (f : List Byte → State → Work) : Work :=
  if s.usable < a + n then some (s, mBADARG)
  else if s.blocked 0 a n then none
  else
    let s1 := s.settleHome 0 a n
    if s1.bad a n then some (s1.logError a, mBADARG) else f (s1.peekBytes a n) s1
/-- A write of Ifeic, which the command completes with. -/
def fwWrite (s : State) (a : Nat) (bs : List Byte) : Work :=
  if s.usable < a + bs.length then some (s, mBADARG)
  else if s.blocked 0 a bs.length then none
  else some (s.engPut 0 a bs, mOK)

/-- The descriptor breaks R303. -/
def badCtxDesc (s : State) (q : List Quad) : Bool :=
  let n := fun i lo k => cq_ q i lo k
  let inside := fun a len : Nat => s.fwEnd ≤ a && a + len ≤ s.carveEnd
  n 0 16 48 != 0 || n 1 57 7 != 0 || n 2 57 7 != 0 || n 4 57 7 != 0 || n 5 57 7 != 0 || n 6 57 7 != 0 || n 7 32 32 != 0 ||
    n 8 16 48 != 0 || !zeroQuads q [9, 10, 11, 12, 13, 14, 15] ||
    n 1 0 12 != 0 || n 2 0 12 != 0 || n 4 0 13 != 0 || n 6 0 12 != 0 || n 5 0 3 != 0 ||
    n 3 32 32 < 1024 || n 3 0 32 == 0 || n 0 0 16 == 0 || 4095 < n 0 0 16 ||
    !inside (n 2 0 57) (n 3 0 32 * n 3 32 32 * 1024) || !inside (n 4 0 57) 8192
def ctxOf (q : List Quad) : Ctx :=
  { exist := true, ptroot := cq_ q 1 0 57, pool := cq_ q 2 0 57, stride := cq_ q 3 32 32, nframe := cq_ q 3 0 32,
    rflog := cq_ q 4 0 57, tvec := cq_ q 5 0 57, trarea := cq_ q 6 0 57, swapt := cq_ q 7 0 32, pairctx := cq_ q 8 0 16 }
/-- CTXCREATE (R303). -/
def mbCtxcreate (s : State) : Work :=
  let a := s.dev.arg0.toNat
  if a % 128 != 0 then some (s, mBADARG)
  else s.fwRead a 128 fun bs s1 =>
    let q := quadsOf bs
    let c := cq_ q 0 0 16
    some (if s1.badCtxDesc q then (s1, mBADARG)
      else if Tbl.has s1.ctxs c then (s1, mREFUSED)
      else (s1.setCtx c (ctxOf q), mOK))
/-- CTXDESTROY: refused unless END has completed for the context. -/
def mbCtxdestroy (s : State) : Work :=
  let c := s.dev.arg0.toNat
  some (if Tbl.has s.ctxs c && (s.ctx c).endDone then ({ s with ctxs := Tbl.erase s.ctxs c }, mOK) else (s, mREFUSED))
/-- MEMPROT (R110). -/
def mbMemprot (s : State) : Work :=
  let p := s.dev.arg0.toNat
  if (s.ctxs.any fun c => !c.2.fw) || p < s.dev.c || 512 < p then some (s, mREFUSED)
  else
    let e := s.carveEnd
    let s1 : State := { s with
      dev := { s.dev with p },
      mem := s.mem.filter fun x => x.1 < e, poison := s.poison.filter fun x => 32 * x.1 < e,
      lines := s.lines.filter fun x => 128 * (x.1 / 256) < e, dirs := s.dirs.filter fun x => 128 * x.1 < e,
      icache := s.icache.filter fun x => 128 * (x.1 / 256) < e,
      ncache := s.ncache.filter fun x => 128 * (x.1 / 64) < e }
    some (s1, mOK)
/-- The 256-byte report body (Table 16.7). -/
def reportBody (s : State) (nonce : List Byte) : List Byte :=
  let st := s.dev.staged
  let digest := match st with
    | some x => digestBytes x.1
    | none => List.replicate 32 0
  let sver := match st with
    | some x => x.2.toNat
    | none => 0
  toLe 8 (2 ^ 56 + st.isSome.toNat) ++ nonce ++ ((List.range 4).flatMap fun i => digestBytes (s.dev.wmk.getD i 0)) ++ digest ++
    toLe 8 (sver * 2 ^ 32 + s.dev.wmkVer.toNat) ++ List.replicate 48 0
/-- Exactly n bytes. -/
def fitBytes (n : Nat) (bs : List Byte) : List Byte := (bs ++ List.replicate n 0).take n
/-- ATTEST (R308). -/
def mbAttest (s : State) : Work :=
  let a := s.dev.arg0.toNat
  s.fwRead a 32 fun nonce s1 =>
    let body := s1.reportBody nonce
    s1.fwWrite (a + 64) (body ++ fitBytes 384 (Config.sign body))
/-- Where the staging area of the firmware region starts. DESIGN CHOICE (log 82): the spec gives no place. -/
def stageAt : Nat := 8192
/-- FWSTAGE (R309): the image is copied into the staging area, unless that holds one, and verified. -/
def mbFwstage (s : State) : Work :=
  s.fwRead s.dev.arg0.toNat s.dev.arg1.toNat fun bs s1 =>
    if s1.fwEnd < stageAt + bs.length then some (s1, mBADARG)
    else if s1.blocked 0 stageAt bs.length then none
    else
      let s2 := if s1.dev.staged.isSome then s1 else s1.engPut 0 stageAt bs
      let v := Config.imageVersion bs
      some (if !Config.verify bs then (s2, mBADSIG)
        else if v.ult s2.dev.minver || v.ult s2.dev.wmkVer || s2.dev.staged.isSome then (s2, mREFUSED)
        else ({ s2 with dev := { s2.dev with staged := some (Config.sha256 bs, v) } }, mOK))
/-- FWCOMMIT: its completion is the commit point (R309). -/
def mbFwcommit (s : State) : Work := some (s, if s.dev.staged.isSome then mOK else mREFUSED)
def mbFwabort (s : State) : Work := some ({ s with dev := { s.dev with staged := none } }, mOK)
def mbErrlog (s : State) : Work :=
  s.fwWrite s.dev.arg0.toNat (Config.errorLog (s.dev.errlog.map fun r => (r.kind, r.addr, r.clock)))
def mbIdent (s : State) : Work := s.fwWrite s.dev.arg0.toNat Config.identity
/-- DISPLAY (R312). -/
def mbDisplay (s : State) (d : DisplayCmd) : Work :=
  if 4 ≤ d.output || d.surface % 4096 != 0 || s.usable ≤ d.surface then some (s, mBADARG)
  else
    let o : Output := { timing := d.timing, surface := d.surface, tenBit := d.tenBit, flip := d.flip, shown := [] }
    some ({ s with dev := { s.dev with outputs := Tbl.set {} s.dev.outputs d.output o } }, mOK)
/-- The display command that a descriptor in memory gives; the spec lists its content and no layout (R312). -/
def mbDisplayAt (s : State) : Work :=
  s.fwRead s.dev.arg0.toNat 128 fun bs s1 =>
    let f := fun k => Config.displayField k bs
    s1.mbDisplay { output := f 0, timing := BitVec.ofNat 64 (f 1), surface := f 2, tenBit := f 3 % 2 == 1, flip := f 4 }
/-- The commit point (R309, R307). -/
def commitImage (s : State) : State :=
  match s.dev.staged with
  | none => s
  | some (m2, v) =>
    let m3 := Config.sha256 (digestBytes (s.dev.wmk.getD 3 0) ++ digestBytes m2)
    { s with dev := { s.dev with wmk := [s.dev.wmk.getD 0 0, s.dev.wmk.getD 1 0, m2, m3], wmkVer := v, staged := none } }

/-- A command by its code (Table 16.5); an unlisted code completes with BADARG. -/
def mailboxOp (s : State) (op : Nat) : Work :=
  match op with
  | 1 => s.mbCtxcreate
  | 2 => s.mbCtxdestroy
  | 3 => s.mbMemprot
  | 4 => s.mbAttest
  | 5 => s.mbFwstage
  | 6 => s.mbFwcommit
  | 7 => s.mbFwabort
  | 8 => s.mbErrlog
  | 9 => s.mbIdent
  | 10 => match s.dev.mboxDisp with
    | some d => s.mbDisplay d
    | none => s.mbDisplayAt
  | _ => some (s, mBADARG)

end State

def execCtxcreate (s : State) : Res := .next (s.mailbox 1 none mbCtxcreate)
def execCtxdestroy (s : State) : Res := .next (s.mailbox 2 none mbCtxdestroy)
def execMemprot (s : State) : Res := .next (s.mailbox 3 none mbMemprot)
def execAttest (s : State) : Res := .next (s.mailbox 4 none mbAttest)
def execFwstage (s : State) : Res := .next (s.mailbox 5 none mbFwstage)
def execFwcommit (s : State) : Res := .next (s.mailbox 6 none mbFwcommit)
def execFwabort (s : State) : Res := .next (s.mailbox 7 none mbFwabort)
def execErrlog (s : State) : Res := .next (s.mailbox 8 none mbErrlog)
def execIdent (s : State) : Res := .next (s.mailbox 9 none mbIdent)
def execDisplay (d : DisplayCmd) (s : State) : Res := .next (s.mailbox 10 (some d) fun s => s.mbDisplay d)

/-- R302: STATUS is written, BUSY clears and the mailbox vector is posted. Work that a held line has kept back is done
first. -/
def execMailboxComplete (s : State) : Res :=
  let op := s.dev.cmd.toNat % 256
  .next (match s.dev.mbox with
    | none => s
    | some none => s.doWork fun s => s.mailboxOp op
    | some (some st) =>
      let s1 := if op = 6 && st = mOK then s.commitImage else s
      { s1 with dev := { s1.dev with cmd := BitVec.ofNat 64 (st * 2 ^ 40 + op), mbox := none, mboxDisp := none } }.postMsi 2)

/-- R312: scan-out reads the surface, as the flip word then stands; an error is logged (15 R291). -/
def execVerticalBlank (output : Nat) (s : State) : Res :=
  .next (if !Tbl.has s.dev.outputs output then s
    else
      let o : Output := Tbl.get {} s.dev.outputs output
      let n := Config.scanSize o.timing o.tenBit
      let s1 := s.settleHome 0 o.flip 4
      let base := Config.scanBase o.surface (s1.peekNat o.flip 4)
      let s2 := s1.settleHome 0 base n
      if s.blocked 0 o.flip 4 || s1.blocked 0 base n then s
      else
      let s2 := if s2.bad o.flip 4 || s2.bad base n then s2.logError base else s2
      { s2 with dev := { s2.dev with outputs := Tbl.set {} s2.dev.outputs output { o with shown := s2.peekBytes base n } } })

/-- R290, R306. -/
def execFirmwareError (s : State) : Res := .next (if !s.served || s.dev.fwerr then s else s.firmwareError)

/-! ### Power registers with limits (R313) -/

def execPwcBudgetWrite (v : BitVec 64) (s : State) : Res :=
  .next (if s.served && 200 ≤ v.toNat && v.toNat ≤ 520 then { s with pwr := { s.pwr with budget := v } } else s)
def execPwcTjhotWrite (v : BitVec 64) (s : State) : Res :=
  .next (if s.served && 60 ≤ v.toNat && v.toNat ≤ 100 then { s with pwr := { s.pwr with tjhot := v } } else s)

/-! ### Other registers of BAR0 (Table 16.1) -/

namespace State

/-- The state that a meaning gives. -/
def orSelf (s : State) : Res → State
  | .next t => t
  | _ => s
/-- Bits [hi:lo] of a value, in place. -/
def keepBits (v : Quad) (lo n : Nat) : Quad := BitVec.ofNat 64 (bitsOf v.toNat lo n * 2 ^ lo)

/-- A write to a register of queue q (Table 13.1). -/
def queueWrite (s : State) (q off : Nat) (v : Quad) : State :=
  match off with
  | 0x00 => s.updQueue q fun x => { x with base := keepBits v 63 1 ||| keepBits v 5 52 }
  | 0x08 => s.updQueue q fun x => { x with size := keepBits v 0 5 }
  | 0x10 => s.orSelf (execHbxQtailWrite 0 q v s)
  | 0x20 =>
    let s1 := if v.getLsbD 62 then s.orSelf (execTornClear q s) else s
    let s2 := if v.getLsbD 60 then s1.orSelf (execBadentClear q s1) else s1
    s2.updQueue q fun x => { x with en := v.getLsbD 63, devpost := v.getLsbD 61, prio := bitsOf v.toNat 48 2,
                                    ctx := bitsOf v.toNat 16 16 }
  | _ => s
/-- The HBX_ block. -/
def hbxRegWrite (s : State) (off : Nat) (v : Quad) : State :=
  if off = 0 then { s with hbx := { s.hbx with yield_ := v } }
  else if off = 0x20 then
    let c := bitsOf v.toNat 16 16
    match bitsOf v.toNat 0 2 with
    | 1 => s.orSelf (execSuspend c s)
    | 2 => s.orSelf (execEndCtx c s)
    | 3 => s.orSelf (execResume c s)
    | _ => s
  else if 0x100 ≤ off && off < 0x100 + 0x40 * 32 then s.queueWrite ((off - 0x100) / 0x40) (off % 0x40) v
  else s
/-- The FLT_ block (09 Table 9.5). -/
def fltRegWrite (s : State) (off : Nat) (v : Quad) : State :=
  match off with
  | 0x000 => { s with flt := { s.flt with ringbase := keepBits v 63 1 ||| keepBits v 12 45 } }
  | 0x008 => { s with flt := { s.flt with ringsize := v } }
  | 0x010 => s.orSelf (execFltHeadWrite v s)
  | 0x020 => { s with flt := { s.flt with resva := keepBits v 12 45 } }
  | 0x028 => s.orSelf (execResolve 0 v s)
  | 0x030 => { s with flt := { s.flt with invva := keepBits v 12 45 } }
  | 0x038 => s.orSelf (execInvalidation v s)
  | 0x040 => s.orSelf (execFltRfcountClear v s)
  | 0x048 => { s with flt := { s.flt with rfsel := keepBits v 0 16 } }
  | _ => s
/-- The PWC_ block (Table 16.8). -/
def pwcRegWrite (s : State) (off : Nat) (v : Quad) : State :=
  match off with
  | 0x000 => s.orSelf (execPwcBudgetWrite v s)
  | 0x008 => s.orSelf (execPwcTjhotWrite v s)
  | 0x018 => { s with pwr := { s.pwr with gate := v } }
  | 0x020 => { s with pwr := { s.pwr with pgate := v } }
  | 0x028 => { s with pwr := { s.pwr with hang := v } }
  | _ => s
/-- The FWC_ block: the firewall refuses what it does not name (R305). -/
def fwcRegWrite (s : State) (off : Nat) (v : Quad) : State :=
  match off with
  | 0x000 =>
    let op := v.toNat % 256
    if op != 0 then s.mailbox op none fun s => s.mailboxOp op
    else if s.dev.mbox.isSome then s else s.setCmd 0 false
  | 0x008 => { s with dev := { s.dev with arg0 := v } }
  | 0x010 => { s with dev := { s.dev with arg1 := v } }
  | 0x040 => s
  | _ => s.countRefusal

end State

/-- A write to a BAR0 register; the blocks not served while boot is incomplete discard it (R300), and so do read-only and
reserved offsets. -/
def execRegisterWrite (off : Nat) (v : BitVec 64) (s : State) : Res :=
  .next (if !s.served then s
    else match off / 0x10000 with
      | 1 => s.hbxRegWrite (off % 0x10000) v
      | 2 => s.fltRegWrite (off % 0x10000) v
      | 3 =>
        if off % 0x10000 = 0x10 then { s with hbx := { s.hbx with dklMax := v.toNat } }
        else if off % 0x10000 = 0x18 then { s with hbx := { s.hbx with dklMin := v.toNat } }
        else s
      | 4 => s.pwcRegWrite (off % 0x10000) v
      | 5 => s.fwcRegWrite (off % 0x10000) v
      | 7 =>
        if off % 0x10000 = 8 then { s with dev := { s.dev with winbase := keepBits v 12 45 } }
        else if off % 0x10000 = 0x10 then { s with dev := { s.dev with winlim := keepBits v 12 45 } }
        else s
      | _ => s)

namespace State

/-- PCX_BOOTSTS (Table 16.2). -/
def bootsts (s : State) : Quad :=
  BitVec.ofNat 64 (s.dev.bootDone.toNat * 2 ^ 63 + s.dev.fail.toNat * 2 ^ 62 + s.dev.fwerr.toNat * 2 ^ 61 + s.dev.code * 2 ^ 48 +
    s.dev.chmask.toNat)
/-- What a read of a register of queue q returns. -/
def queueRead (s : State) (q off : Nat) : Quad :=
  let x := s.queue q
  match off with
  | 0x00 => x.base
  | 0x08 => x.size
  | 0x10 => x.tail.setWidth 64
  | 0x18 => x.head.setWidth 64
  | 0x20 => BitVec.ofNat 64 (x.en.toNat * 2 ^ 63 + x.torn.toNat * 2 ^ 62 + x.devpost.toNat * 2 ^ 61 + x.badent.toNat * 2 ^ 60 +
      x.prio * 2 ^ 48 + x.ctx * 2 ^ 16)
  | 0x28 => x.cur.setWidth 64
  | _ => 0
/-- What a host read of a BAR0 register returns (Table 16.1 and the blocks' tables). -/
def bar0Read (s : State) (off : Nat) : Quad :=
  let o := off % 0x10000
  let wmk := fun (i : Nat) => (s.dev.wmk.getD (i / 32) 0).extractLsb' (8 * (i % 32)) 64
  match off / 0x10000 with
  | 0 =>
    if s.dev.boot = .held then 0 else if o = 0 then s.bootsts else if o = 8 then s.dev.clmask.setWidth 64 else 0
  | 6 => if o < 0x80 && o % 8 = 0 then wmk o else if o = 0x80 then s.dev.wmkVer.setWidth 64 else 0
  | blk =>
    if !s.served then 0
    else match blk with
      | 1 =>
        if o = 0 then s.hbx.yield_ else if o = 0x20 then s.hbx.ctl
        else if 0x100 ≤ o && o < 0x100 + 0x40 * 32 then s.queueRead ((o - 0x100) / 0x40) (o % 0x40) else 0
      | 2 =>
        (match o with
        | 0x000 => s.flt.ringbase
        | 0x008 => s.flt.ringsize
        | 0x010 => s.flt.head
        | 0x018 => s.flt.tail
        | 0x020 => s.flt.resva
        | 0x030 => s.flt.invva
        | 0x038 => s.flt.invctl
        | 0x040 => BitVec.ofNat 64 (s.ctx s.flt.rfsel.toNat).rfcount
        | 0x048 => s.flt.rfsel
        | _ => 0)
      | 3 =>
        (match o with
        | 0x00 => BitVec.ofNat 64 s.hbx.dklTarget
        | 0x08 => BitVec.ofNat 64 s.deckle
        | 0x10 => BitVec.ofNat 64 s.hbx.dklMax
        | 0x18 => BitVec.ofNat 64 s.hbx.dklMin
        | _ => 0)
      | 4 =>
        (match o with
        | 0x00 => s.pwr.budget
        | 0x08 => s.pwr.tjhot
        | 0x10 => s.pwr.tjtrip
        | 0x18 => s.pwr.gate
        | 0x20 => s.pwr.pgate
        | 0x28 => s.pwr.hang
        | 0x30 => s.pwr.power
        | 0x38 => s.pwr.tj
        | 0x40 => BitVec.ofNat 64 s.pwr.trip.toNat
        | _ => 0)
      | 5 =>
        (match o with
        | 0x00 => s.dev.cmd
        | 0x08 => s.dev.arg0
        | 0x10 => s.dev.arg1
        | 0x40 => s.dev.fwref.setWidth 64
        | _ => 0)
      | 7 =>
        (match o with
        | 0x00 => BitVec.ofNat 64 (s.dev.ports.toNat * 2 + (s.dev.ports != 0).toNat)
        | 0x08 => s.dev.winbase
        | 0x10 => s.dev.winlim
        | _ => 0)
      | _ => 0

/-- The host reads a BAR0 register; the firewall counts a read of a FWC_ register that it refuses (R305). -/
def regRead (s : State) (off : Nat) : State :=
  let o := off % 0x10000
  let refused := s.served && off / 0x10000 == 5 && o != 0 && o != 8 && o != 0x10 && o != 0x40
  (if refused then s.countRefusal else s).reply .ok (toLe 8 (s.bar0Read off).toNat)

/-! ### The peer link (R310) -/

/-- The peer may reach [a, a + n): inside the window and device memory, outside the firmware region. -/
def peerMay (s : State) (a n : Nat) : Bool :=
  s.served && n != 0 && s.dev.winbase.toNat ≤ a && a + n ≤ s.dev.winlim.toNat && s.fwEnd ≤ a && a + n ≤ s.usable

/-- A peer request that is refused: an error response; the firewall counts one into the firmware region (R305). -/
def peerRefuse (s : State) (a : Nat) : State := (if s.served && a < s.fwEnd then s.countRefusal else s).reply .bad []

end State

def execPeerRequest (r : PeerReq) (s : State) : Res :=
  .next (match r with
    | .read a n =>
      if !s.peerMay a n then s.peerRefuse a
      else if s.blocked 0 a n then s
      else
        let s1 := s.settleHome 0 a n
        if s1.bad a n then (s1.logError a).reply .bad [] else s1.reply .ok (s1.peekBytes a n)
    | .write a bs =>
      if !s.peerMay a bs.length then s.peerRefuse a
      else if s.blocked 0 a bs.length then s
      else (s.engPut 0 a bs).reply .ok []
    | .atomic a op size8 x cmp =>
      let n := atomBytes size8
      if !s.peerMay a n || a % n != 0 || !atomTargetOk op 2 then s.peerRefuse a
      else if s.blocked 0 a n then s
      else s.homeAtomic op size8 a x cmp)

/-- A port of the peer link comes up or goes down; link events are logged (R306). -/
def execPeerPortEvent (port : Nat) (up : Bool) (s : State) : Res :=
  .next (if 2 ≤ port then s
    else
      let bit := BitVec.ofNat 2 (2 ^ port)
      let ports := if up then s.dev.ports ||| bit else s.dev.ports &&& ~~~bit
      { s with dev := { s.dev with ports } }.logRecord 5 port)

end Sys2Proof.Machine
end

