-- ==== Sys2Proof/Machine/Power.lean ====
section
/-! DEFINITION. The power controller: Deckle's target (13 R271), gating of partitions and cores (15 R297, 08 R166), hang
timers (R297), thermal limits (16 R314), and the passing of time. -/

namespace Sys2Proof.Machine
open State

namespace State

/-! ### Deckle's target (R271) -/

/-- The new target for a measured power and temperature, before the clamp. -/
def newTarget (s : State) (p tj : Nat) : Nat :=
  let t := s.hbx.dklTarget
  let hot := s.pwr.tjhot.toNat
  let budget := s.pwr.budget.toNat
  if budget < p || hot ≤ tj then t - max 32 (32 * ((t + 511) / 512))
  else if 10 * p < 9 * budget && tj + 5 < hot && s.hbx.waitedInPeriod then t + 64
  else t
/-- Sets the target: a rise is a give; a fall is a waiting take, and is made only while none is outstanding. -/
def setTarget (s : State) (t : Nat) : State :=
  let old := s.hbx.dklTarget
  if old ≤ t then
    let s1 : State := { s with hbx := { s.hbx with dklTarget := t } }
    s1.giveTokens (t - old)
  else if s.takeWaits .power then s
  else
    let s1 : State := { s with hbx := { s.hbx with dklTarget := t } }
    (s1.takeTokens .power (old - t)).1

/-! ### Gating (R297, R166) -/

def setPart (s : State) (core part : Nat) (p : Part) : State := { s with parts := Tbl.set {} s.parts (4 * core + part) p }
/-- The new image takes over the firmware column: DKL_TARGET is held (16 R309). -/
def handOver (s : State) : Bool := s.dev.mbox == some (some mOK) && s.dev.cmd.toNat % 256 == 6

/-! ### Timers -/

/-- The partitions that hold a resident split. -/
def heldParts (s : State) : List Nat :=
  (s.grps.filterMap fun p =>
    let b := s.blk (bidOf p.1)
    if resident b && p.2.slots.any fun q => q.2.occ then some (4 * b.core + s.partOf p.1) else none).dedup
/-- The hang timer of a block counts (R297). -/
def hangCounts (s : State) (bid : Nat) : Bool :=
  resident (s.blk bid) && !((s.slotsOf bid).any fun sl => sl.wait == .parked) &&
    !(s.copies.any fun p => p.2.bid == some bid) && !s.ssuBusy bid
/-- n clocks pass, unless every clock is stopped: the clock and the timers advance, and posted writes become visible. -/
def passTime (s : State) (n : Nat) : State :=
  if s.pwr.stopped then s
  else
  let held := s.heldParts
  let parts := held.foldl (fun t k => Tbl.upd {} t k fun p => { p with idle := p.idle + n }) s.parts
  let blks := s.blks.map fun p => if s.hangCounts p.1 then p else (p.1, { p.2 with hangFrom := p.2.hangFrom + n })
  { s with clock := s.clock + n, parts, blks }.drainPosted

end State

/-- R271, once a period; `p` and `tj` are the power and temperature measured. A take that still waits has waited in the next
period too. -/
def execDeckleAdjust (p tj : Nat) (s : State) : Res :=
  .next (if !s.served then s
    else
      let t := max s.hbx.dklMin (min s.hbx.dklMax (s.newTarget p tj))
      let s1 := if s.handOver then s else s.setTarget t
      { s1 with pwr := { s1.pwr with power := BitVec.ofNat 64 p, tj := BitVec.ofNat 64 tj },
                hbx := { s1.hbx with waitedInPeriod := !(s1.waitsOn deckleAt).isEmpty } })

/-- The residency timer has reached PWC_GATE. -/
def execClockGate (core part : Nat) (s : State) : Res :=
  .next (
    let p := s.partAt core part
    if p.gate = .on && s.pwr.gate.toNat ≤ p.idle then s.setPart core part { p with gate := .clock } else s)
/-- The residency timer has reached PWC_PGATE: the partition is power-gated, and its core leaves as soon as it may (08
R166). -/
def execPowerGate (core part : Nat) (s : State) : Res :=
  .next (
    let p := s.partAt core part
    if s.pwr.pgate.toNat ≤ p.idle then (s.setPart core part { p with gate := .power }).maybeLeave core else s)
/-- Gating ends once a split is ready; a core that left joins again. -/
def execUngate (core part : Nat) (s : State) : Res :=
  .next (
    let p := s.partAt core part
    if p.gate = .on || (s.candidates core part).isEmpty then s
    else
      (s.setPart core part {}).joinCore core)

/-- The hang timer has reached PWC_HANG: a report, and the timer starts again. -/
def execHang (bid : Nat) (s : State) : Res :=
  .next (
    let b := s.blk bid
    if s.hangCounts bid && b.hangFrom + s.pwr.hang.toNat ≤ s.clock then
      (s.trapReport b.ctx .hang { bid := some bid }).updBlk bid fun b => { b with hangFrom := s.clock }
    else s)

/-! ### Temperature (R314) -/

/-- Tj reaches PWC_TJTRIP. -/
def execThermalTrip (tj : Nat) (s : State) : Res :=
  .next (if tj < s.pwr.tjtrip.toNat then s
    else
      let s1 : State := { s with pwr := { s.pwr with trip := true, tripBelow := none, tj := BitVec.ofNat 64 tj } }
      if s.pwr.trip then s1 else (s1.logRecord 4 tj).postMsi 1)
/-- A measurement during the trip: after 1 ms below the exit threshold, which is 750,000 clocks at 750 MHz, the trip
ends; at or above it the time below starts anew. -/
def execThermalTripExit (tj : Nat) (s : State) : Res :=
  .next (if !s.pwr.trip then s
    else if s.pwr.tjtrip.toNat ≤ tj + 10 then { s with pwr := { s.pwr with tripBelow := none } }
    else match s.pwr.tripBelow with
      | none => { s with pwr := { s.pwr with tripBelow := some s.clock } }
      | some t =>
        if t + 750000 ≤ s.clock then { s with pwr := { s.pwr with trip := false, tripBelow := none } } else s)
/-- At 120 °C every clock stops. -/
def execThermal (tj : Nat) (s : State) : Res :=
  .next (if tj < 120 then s
    else
      let s1 : State := { s with pwr := { s.pwr with stopped := true } }
      { s1 with dev := { s1.dev with fail := true, code := 5 } }.logRecord 4 tj)

end Sys2Proof.Machine
end

