-- ==== Sys2Proof/Machine/Scalar.lean ====
section
/-! DEFINITION. Scalar C-words but S.LD (20 R426, R427, R429), special registers (04 R84, R85) and the words between
scalar and vector registers (20 R439, R448, R449). -/

namespace Sys2Proof.Machine
open State

/-- A scalar word of two operands (Table 20.2). -/
def State.scalar2 (s : State) (sd sa : Nat) (b : SArg12) (f : Quad → Quad → Quad) : State :=
  s.swrite sd (f (s.sreg sa) (s.sarg12 b))

def execSMov (sd sa : Nat) (s : State) : Res := s.issuedC (.sMov sd sa) fun s => s.swrite sd (s.sreg sa)
/-- S.LI, and S.LI.HI, which keeps the low half (R427). -/
def execSLi (sd : Nat) (hi : Bool) (v : BitVec 17) (ext : Option Word) (s : State) : Res :=
  s.issuedC (.sLi sd hi v ext) fun s =>
    s.swrite sd (match ext with
      | none => v.signExtend 64
      | some x => if hi then x ++ (s.sreg sd).extractLsb' 0 32 else x.signExtend 64)
def execSAdd (sd sa : Nat) (b : SArg12) (s : State) : Res :=
  s.issuedC (.sAdd sd sa b) fun s => s.scalar2 sd sa b (· + ·)
def execSSub (sd sa : Nat) (b : SArg12) (s : State) : Res :=
  s.issuedC (.sSub sd sa b) fun s => s.scalar2 sd sa b (· - ·)
def execSMul (sd sa : Nat) (b : SArg12) (s : State) : Res :=
  s.issuedC (.sMul sd sa b) fun s => s.scalar2 sd sa b (· * ·)
def execSAnd (sd sa : Nat) (b : SArg12) (s : State) : Res :=
  s.issuedC (.sAnd sd sa b) fun s => s.scalar2 sd sa b (· &&& ·)
def execSOr (sd sa : Nat) (b : SArg12) (s : State) : Res :=
  s.issuedC (.sOr sd sa b) fun s => s.scalar2 sd sa b (· ||| ·)
def execSXor (sd sa : Nat) (b : SArg12) (s : State) : Res :=
  s.issuedC (.sXor sd sa b) fun s => s.scalar2 sd sa b (· ^^^ ·)
def execSShl (sd sa : Nat) (b : SArg12) (s : State) : Res :=
  s.issuedC (.sShl sd sa b) fun s => s.scalar2 sd sa b shl
def execSShr (sd sa : Nat) (b : SArg12) (s : State) : Res :=
  s.issuedC (.sShr sd sa b) fun s => s.scalar2 sd sa b shr
def execSSra (sd sa : Nat) (b : SArg12) (s : State) : Res :=
  s.issuedC (.sSra sd sa b) fun s => s.scalar2 sd sa b sra

/-- The conditions of S.CMP (17 Table 17.4). -/
def scmpHolds (c : SCond) (a b : Quad) : Bool :=
  match c with
  | .eq => a == b
  | .ne => a != b
  | .lt => a.slt b
  | .le => a.sle b
  | .ltu => a.ult b
  | .leu => a.ule b
def execSCmp (sd sa : Nat) (b : SArg9) (cc : SCond) (s : State) : Res :=
  s.issuedC (.sCmp sd sa b cc) fun s => s.swrite sd (if scmpHolds cc (s.sreg sa) (s.sarg9 b) then 1 else 0)

/-! ### Special registers -/

/-- The root scratchpad capability (R77): E is the least exponent at which L ÷ 2^E is a whole number up to 1,023. -/
def scrCap (scr : Nat) : Cap :=
  let len := 1024 * scr
  let e := ((List.range 48).find? fun e => len % 2 ^ e == 0 && len / 2 ^ e ≤ 1023).getD 0
  let perms := pLOAD + pSTORE + pATOMIC + pCOPYSRC + pCOPYDST + pSCRATCHREF
  Cap.make 0 0 (if scr = 0 then 0 else e) (if scr = 0 then 0 else len / 2 ^ e) perms 0 true

/-- %repst (04 Table 4.3). -/
def repst (sl : Slot) : Quad := BitVec.ofNat 64 (sl.act.toNat * 2 ^ 19 + sl.idx % 8 * 2 ^ 16 + sl.pass % 256 * 2 ^ 8)

/-- A special register as S.RSR reads it (04 Table 4.7); %scrcap is read by `execSRsr`. -/
def State.readSpecial (s : State) (num : Nat) : Quad :=
  let b := s.b
  match num with
  | 0x00 => BitVec.ofNat 64 (s.ctx b.ctx).swapt
  | 0x01 => BitVec.ofNat 64 (s.gid % 32)
  | 0x02 => BitVec.ofNat 64 b.no
  | 0x03 => BitVec.ofNat 64 (b.no / (b.desc.gang + 1))
  | 0x04 => BitVec.ofNat 64 (b.no % (b.desc.gang + 1))
  | 0x05 => BitVec.ofNat 64 (s.logicalCore b.core)
  | 0x06 => s.sl.fmt.zeroExtend 64
  | 0x07 => if s.g.satf then 1 else 0
  | 0x08 => s.g.gstat
  | 0x09 => s.g.cause
  | 0x0A => s.g.epc
  | 0x0B => repst s.sl
  | 0x0D => s.g.opthr.zeroExtend 64
  | _ => 0

def execSRsr (k num : Nat) (s : State) : Res :=
  s.issuedC (.sRsr k num) fun s =>
    if num = 0x0C then s.setPairCap (k / 2) (scrCap s.b.desc.scr) else s.swrite k (s.readSpecial num)

/-- S.WSR's write, with the adjustments of R429. -/
def State.writeSpecial (s : State) (num : Nat) (v : Quad) : State :=
  match num with
  | 0x06 => s.updSl fun sl => { sl with fmt := v.extractLsb' 0 32 &&& fmtMask }
  | 0x07 => s.updGrp s.gid fun g => { g with satf := v.getLsbD 0 }
  | 0x08 => s.updGrp s.gid fun g => { g with gstat := v &&& gstatMask }
  | 0x0A => s.updGrp s.gid fun g => { g with epc := v &&& 0x01FFFFFFFFFFFFF8 }
  | 0x0D => s.updGrp s.gid fun g => { g with opthr := v.extractLsb' 0 32 }
  | _ => s

def execSWsr (num : Nat) (b : WsrArg) (s : State) : Res :=
  s.issuedC (.sWsr num b) fun s =>
    s.writeSpecial num (match b with
      | .reg k _ => s.sreg k
      | .imm v => v.zeroExtend 64
      | .ext x => x.zeroExtend 64)

/-! ### Between scalar and vector registers -/

/-- R448. -/
def execVbc (v k : Nat) (s : State) : Res :=
  s.issuedC (.vbc v k) fun s => s.cPut (s.vname v) fun _ => (s.sreg k).extractLsb' 0 32
/-- R439: the lane is read whether or not it is running. -/
def execSxv (k v lane : Nat) (s : State) : Res :=
  s.issuedC (.sxv k v lane) fun s => s.swrite k ((s.vcur (s.vname v) lane).val.zeroExtend 64)
/-- R449. -/
def execVote (mode : VoteMode) (k v : Nat) (s : State) : Res :=
  s.issuedC (.vote mode k v) fun s =>
    let yes := maskOf fun l => s.active.getLsbD l && (s.vcur (s.vname v) l).val != 0
    s.swrite k (match mode with
      | .any => if yes = 0 then 0 else 1
      | .all => if yes = s.active then 1 else 0
      | .ballot => yes.zeroExtend 64)

end Sys2Proof.Machine
end

