-- ==== Sys2Proof/Machine/TravGeo.lean ====
section
/-! DEFINITION. The arithmetic of BOXT (11 R232 to R234), TRIT (20 R446), KCMP (19 R389) and DIST (18 R367). -/

namespace Sys2Proof.Machine

/-- Byte i, and little-endian fields, of a node. -/
def nodeByte (b : List Byte) (i : Nat) : Nat := (b.getD i 0).toNat
def nodeNum (b : List Byte) (i n : Nat) : Nat :=
  (List.range n).foldr (fun k acc => nodeByte b (i + k) + 256 * acc) 0
def nodeWord (b : List Byte) (i : Nat) : Word := BitVec.ofNat 32 (nodeNum b i 4)

/-! ### BOXT -/

/-- Signed FP32 arithmetic under RNE, as R233 writes it. -/
def fAdd (a b : Word) : Word := f32Add .rne a b
def fSub (a b : Word) : Word := f32Sub .rne a b
def fMul (a b : Word) : Word := f32Mul .rne a b
def fFma (a b c : Word) : Word := f32Fma .rne a b c
def fOne : Word := 0x3F800000
/-- q ÷ 127 of a signed byte. -/
def quat (b : Nat) : Word := f32Div .rne (toF32 .rne (.ofInt (signedOf 8 b))) (toF32 .rne (.ofInt 127))

/-- The world-to-node matrix by rows (R233). -/
def nodeMatrix (x y z : Word) : List (List Word) :=
  let sum := fAdd (fAdd (fMul x x) (fMul y y)) (fMul z z)
  let w := f32Sqrt .rne (f32MinMax false 0 (fSub fOne sum))
  let n := fAdd sum (fMul w w)
  let s := f32Div .rne (toF32 .rne (.ofInt 2)) n
  let diag := fun a b => fSub fOne (fMul s (fAdd (fMul a a) (fMul b b)))
  let off := fun (plus : Bool) a b c d => fMul s (if plus then fAdd (fMul a b) (fMul c d) else fSub (fMul a b) (fMul c d))
  [[diag y z, off true x y z w, off false x z y w],
   [off false x y z w, diag x z, off true y z x w],
   [off true x z y w, off false y z x w, diag x y]]

/-- R232: a wide node that BOXT refuses. -/
def wideBad (b : List Byte) : Bool :=
  let e := [nodeByte b 16, nodeByte b 17, nodeByte b 18]
  let child := fun c => nodeNum b (80 + 4 * c) 4
  nodeNum b 19 5 != 0 || nodeNum b 24 8 / 2 ^ 57 != 0 || nodeNum b 112 16 != 0 || e.any (fun x => x == 0 || x == 255) ||
    (List.range 8).any fun c => nodeByte b 15 / 2 ^ c % 2 == 1 && child c / 2 ^ 30 % 2 == 1 && child c / 2 ^ 25 % 32 == 0

/-- A finite FP32 value moved n representable steps; past the largest finite magnitude it is the infinity (R234). -/
def stepF32 (w : Word) (n : Int) : Word :=
  if w.toNat % 2 ^ 31 = 0x7F800000 then w
  else
    let mag : Int := (w.toNat % 2 ^ 31 : Nat)
    let k := (if w.toNat < 2 ^ 31 then mag else -mag) + n
    if 0x7F800000 ≤ k then 0x7F800000
    else if k ≤ -0x7F800000 then 0xFF800000
    else if 0 ≤ k then BitVec.ofInt 32 k else BitVec.ofInt 32 (2 ^ 31 - k)

/-- Bound of a box axis, exact: v × 2^(e − 127). -/
def boxBound (v e : Nat) : Num := .fin false v ((e : Int) - 127)
/-- near and far of one axis. -/
def slab (lo hi : Num) (o inv : Word) : Word × Word :=
  let t := fun x => fMul (toF32 .rne (Num.add .rne x (f32 o).neg)) inv
  let t1 := t lo
  let t2 := t hi
  if (f32 t1).isNan || (f32 t2).isNan then (0xFF800000, 0x7F800000)
  else if f32Lt t2 t1 then (t2, t1) else (t1, t2)
/-- The larger, or smaller, of numbers that are not NaN. -/
def maxW (a b : Word) : Word := if f32Lt a b then b else a
def minW (a b : Word) : Word := if f32Lt b a then b else a

/-- Child pointer and entry of Table 11.7 and Table 11.5. -/
def childEntry (base : Nat) (word : Nat) (tn : Word) : BitVec 128 :=
  let leaf := word / 2 ^ 30 % 2
  let off := if leaf = 1 then word % 2 ^ 25 else word % 2 ^ 30
  let ptr := word / 2 ^ 31 % 2 * 2 ^ 63 + (base + 16 * off) % 2 ^ 57
  let count := if leaf = 1 then word / 2 ^ 25 % 32 else 0
  BitVec.ofNat 128 ((leaf * 2 ^ 62 + count * 2 ^ 57 + tn.toNat) * 2 ^ 64 + ptr)

/-- The entry of child c, if its box is hit (R234). -/
def boxChild (b : List Byte) (o' inv : List Word) (tmin tmax : Word) (c : Nat) : Option (Word × BitVec 128) :=
  let lo := fun a => nodeByte b (32 + 6 * c + a)
  let hi := fun a => nodeByte b (35 + 6 * c + a)
  let s := fun a => slab (boxBound (lo a) (nodeByte b (16 + a))) (boxBound (hi a) (nodeByte b (16 + a))) (o'.getD a 0) (inv.getD a 0)
  let tn := stepF32 (maxW (maxW (s 0).1 (s 1).1) (s 2).1) (-4)
  let tf := stepF32 (minW (minW (s 0).2 (s 1).2) (s 2).2) 4
  let valid := nodeByte b 15 / 2 ^ c % 2 == 1
  if valid && f32Le tn tf && f32Le tmin tf && f32Le tn tmax && (List.range 3).all (fun a => lo a ≤ hi a) then
    some (tn, childEntry (nodeNum b 24 8 % 2 ^ 57) (nodeNum b (80 + 4 * c) 4) tn)
  else none

/-- Places an entry after every entry that is not farther, so that ties keep the order of children. -/
def insertNear (e : Word × BitVec 128) : List (Word × BitVec 128) → List (Word × BitVec 128)
  | [] => [e]
  | x :: r => if f32Lt e.1 x.1 then e :: x :: r else x :: insertNear e r

/-- The candidate list (R234): o and d of the ray, the interval and the node. -/
def boxTest (b : List Byte) (o d : List Word) (tmin tmax : Word) : List (BitVec 128) :=
  let m := nodeMatrix (quat (nodeByte b 12)) (quat (nodeByte b 13)) (quat (nodeByte b 14))
  let org := [nodeWord b 0, nodeWord b 4, nodeWord b 8]
  let p := (List.range 3).map fun a => fSub (o.getD a 0) (org.getD a 0)
  let rot := fun (v : List Word) (i : Nat) =>
    let r := m.getD i []
    fFma (r.getD 2 0) (v.getD 2 0) (fFma (r.getD 1 0) (v.getD 1 0) (fMul (r.getD 0 0) (v.getD 0 0)))
  let o' := (List.range 3).map (rot p)
  let inv := (List.range 3).map fun i => f32Div .rne fOne (rot d i)
  let hits := (List.range 8).filterMap (boxChild b o' inv tmin tmax)
  (hits.foldl (fun l e => insertNear e l) []).map (·.2)

/-! ### TRIT -/

/-- A finite FP32 value in units of 2^−149; none for NaN and infinities. -/
def exact32 (w : Word) : Option Int :=
  match f32 w with
  | .fin s m e => some ((if s then -1 else 1) * ((m * 2 ^ (e + 149).toNat : Nat) : Int))
  | _ => none
abbrev V3 := Int × Int × Int
def V3.sub (a b : V3) : V3 := (a.1 - b.1, a.2.1 - b.2.1, a.2.2 - b.2.2)
def V3.cross (a b : V3) : V3 :=
  (a.2.1 * b.2.2 - a.2.2 * b.2.1, a.2.2 * b.1 - a.1 * b.2.2, a.1 * b.2.1 - a.2.1 * b.1)
def V3.dot (a b : V3) : Int := a.1 * b.1 + a.2.1 * b.2.1 + a.2.2 * b.2.2
/-- Three words as an exact vector. -/
def exactV (l : List Word) : Option V3 :=
  match exact32 (l.getD 0 0), exact32 (l.getD 1 0), exact32 (l.getD 2 0) with
  | some x, some y, some z => some (x, y, z)
  | _, _, _ => none
/-- a ÷ b rounded once to FP32 under RNE; an exact zero is +0. -/
def quotient (a b : Int) : Word :=
  if a = 0 then 0 else BitVec.ofNat 32 (fp32.div .rne (.ofInt a) (.ofInt b))

/-- The candidate (t, U, V) of a ray and a triangle, TMIN and TMAX aside (R446). -/
def triTest (o d p0 p1 p2 : V3) : Option (Word × Word × Word) :=
  let e := fun a b => V3.dot d (V3.cross (V3.sub a o) (V3.sub b o))
  let e0 := e p1 p2
  let e1 := e p2 p0
  let e2 := e p0 p1
  let es := [e0, e1, e2]
  if es.all (· == 0) || (es.any (· < 0) && es.any (0 < ·)) then none
  else
    let sum := e0 + e1 + e2
    let n := V3.cross (V3.sub p1 p0) (V3.sub p2 p0)
    some (quotient (V3.dot n (V3.sub p0 o)) (V3.dot n d), quotient e1 sum, quotient e2 sum)

/-! ### Decoded nodes (Table 11.8, R408, R409) -/

/-- Fields of a decode descriptor. -/
structure DecDesc where
  kind : Nat
  ktype : Nat
  nsz : Nat
  cntoff : Nat
  koff : Nat
  coff : Nat
  voff : Nat
  maxk : Nat
  pw : Nat
  axoff : Nat
  base : Nat
  vtype : Nat
  metric : Nat
  vdim : Nat
  /-- A reserved bit is set. -/
  resv : Bool
  deriving DecidableEq, Repr

def DecDesc.ofQuads (q : List Quad) : DecDesc :=
  let f := fun i lo n => (q.getD i 0).toNat / 2 ^ lo % 2 ^ n
  { kind := f 0 60 4, ktype := f 0 56 4, nsz := f 0 50 6, cntoff := f 0 40 8, koff := f 0 32 8, coff := f 0 24 8,
    voff := f 0 16 8, maxk := f 0 11 5, pw := f 0 8 3, axoff := f 0 0 8, base := f 1 0 57, vtype := f 2 61 3,
    metric := f 2 59 2, vdim := f 2 48 11,
    resv := f 0 48 2 != 0 || f 1 57 7 != 0 || f 2 0 48 != 0 || f 3 0 64 != 0 }
/-- A descriptor that breaks Table 11.8, or holds a value in a field its KIND does not use. -/
def DecDesc.bad (d : DecDesc) : Bool :=
  d.resv || 2 < d.kind || 4 < d.ktype || d.nsz == 0 || 32 < d.nsz || d.maxk == 0 || 1 < d.pw ||
    (d.kind != 0 && d.axoff != 0) ||
    (if d.kind == 2 then d.koff != 0 || d.ktype != 0 || 3 < d.vtype || 1 < d.metric || d.vdim == 0 || 1024 < d.vdim
     else d.voff != 0 || d.vtype != 0 || d.metric != 0 || d.vdim != 0)

/-- Bytes of a key (KTYPE). -/
def keyBytes (ktype : Nat) : Nat :=
  match ktype with
  | 3 => 8
  | 4 => 2
  | _ => 4
/-- The key count of a node. -/
def DecDesc.count (d : DecDesc) (b : List Byte) : Nat := if d.cntoff = 0xFF then d.maxk else nodeByte b d.cntoff
/-- Entries of the child table. -/
def DecDesc.children (d : DecDesc) (b : List Byte) : Nat :=
  match d.kind with
  | 0 => 2
  | 1 => d.count b + 1
  | _ => d.count b
/-- A node that R408 refuses: a count out of range, or a part that passes its end. -/
def DecDesc.nodeBad (d : DecDesc) (b : List Byte) : Bool :=
  let size := 16 * d.nsz
  let n := d.count b
  (d.cntoff != 0xFF && size ≤ d.cntoff) || d.maxk < n || (d.kind == 0 && n != 1) || (d.kind == 0 && size ≤ d.axoff) ||
    (d.kind != 2 && size < d.koff + n * keyBytes d.ktype) || (d.kind == 2 && size < d.voff + 8) ||
    size < d.coff + d.children b * (if d.pw = 0 then 4 else 8)
/-- CP[j] (R409). -/
def DecDesc.child (d : DecDesc) (b : List Byte) (j : Nat) : Quad :=
  if d.pw = 0 then
    let w := nodeNum b (d.coff + 4 * j) 4
    BitVec.ofNat 64 (w / 2 ^ 31 * 2 ^ 63 + (d.base + 16 * (w % 2 ^ 31)) % 2 ^ 57)
  else BitVec.ofNat 64 (nodeNum b (d.coff + 8 * j) 8)

/-- The numeric value of a key or probe; NaN is none. -/
def keyVal (ktype v : Nat) : Num :=
  match ktype with
  | 0 => fp32.decode (v % 2 ^ 32)
  | 1 => .ofInt (signedOf 32 v)
  | 2 => .ofInt (v % 2 ^ 32 : Nat)
  | 3 => .ofInt (v % 2 ^ 64 : Nat)
  | _ => fp16.decode (v % 2 ^ 16)
/-- a < b with every NaN above every number and equal to every NaN (R389). -/
def keyLt (a b : Num) : Bool :=
  if a.isNan then false else if b.isNan then true else Num.cmp a b == .lt
/-- Key j of a node. -/
def DecDesc.key (d : DecDesc) (b : List Byte) (j : Nat) : Num :=
  keyVal d.ktype (nodeNum b (d.koff + j * keyBytes d.ktype) (keyBytes d.ktype))

/-! ### DIST -/

/-- VTYPE's format and element size. -/
def vecFmt (t : Nat) : Fmt :=
  match t with
  | 0 => .fp32
  | 1 => .fp16
  | 2 => .bf16
  | _ => .t8
def vecBytes (t : Nat) : Nat :=
  match t with
  | 0 => 4
  | 3 => 1
  | _ => 2
/-- The exact sum of the metric's terms, rounded once; an exact zero is +0 (R105, R236, R367). -/
def distOf (metric : Nat) (ps : List (Num × Num)) : Word :=
  let term := fun (q v : Num) =>
    if metric = 0 then
      let x := Num.add .rne q v.neg
      Num.mul x x
    else (Num.mul q v).neg
  let sum := ps.foldl (fun a p => Num.add .rne a (term p.1 p.2)) (.fin false 0 0)
  if sum.isZero then 0 else toF32 .rne sum

end Sys2Proof.Machine
end

