-- ==== Sys2Proof/Machine/TravWords.lean ====
section
/-! DEFINITION. The traversal words (17 Tables 17.13 and 17.14, reference chapters 18 to 20) and the turn of a thread. -/

namespace Sys2Proof.Machine
open State

namespace State

/-- The address of the word that the thread executes. -/
def wordAt (s : State) : Nat := s.tp.pc
/-- A register result, and the next word. -/
def putT (s : State) (k : Nat) (v : Quad) : State := (s.setT k v).trNext

/-- RMT := 1 for a REMOTE pointer; nothing is fetched (R240, R408, R410). -/
def remoteAt (s : State) (p : Quad) (wide : Bool) : State :=
  (s.updTp fun t => { t with rmt := true, rmtPtr := p, node := none, wide := if wide then none else t.wide }).trNext
/-- NODES counts fetched nodes, saturating. -/
def countNodes (s : State) (n : Nat) : State := s.updTp fun t => { t with nodes := min (t.nodes + n) 0xFFFF }

/-! ### The stack (R231, R377, R415, R417, R434) -/

/-- SPILL on a stack that is not empty. -/
def spillEntry (s : State) : Except TrStop State :=
  let t := s.tp
  match t.stk with
  | [] => .ok s
  | e :: rest =>
    if t.sd = qSFLEN t then .error (.done qSTACK s.wordAt)
    else
      match s.trWrite (qSF t + 16 * t.sd) (toLe 16 e.toNat) with
      | .error x => .error x
      | .ok s1 => .ok (s1.updTp fun t => { t with stk := rest, sd := t.sd + 1 })

/-- FILL with SD > 0 and room on the stack; it reads past the node cache. -/
def fillEntry (s : State) : Except TrStop State :=
  let t := s.tp
  if t.sd = 0 then .error (.done qSTACK s.wordAt)
  else if 4 ≤ t.stk.length then .ok s
  else
    let a := qSF t + 16 * (t.sd - 1)
    match checkAddr t.ncap a 16 pLOAD with
    | .error _ => .error (.done qCAPFAIL a)
    | .ok _ =>
      match s.engRead (some s.trCore) t.ctx a 16 with
      | (.error e, _) => .error (stopOf e .read)
      | (.ok (bs, bad), s1) =>
        if bad then .error (.bad a a)
        else .ok (s1.updTp fun t => { t with stk := BitVec.ofNat 128 (leNum bs) :: t.stk, sd := t.sd - 1 })

/-- Put(e) of R417. -/
def putEntry (s : State) (e : BitVec 128) : Except TrStop State :=
  let room := if 4 ≤ s.tp.stk.length then s.spillEntry else .ok s
  match room with
  | .error x => .error x
  | .ok s1 => .ok (s1.updTp fun t => { t with stk := t.stk ++ [e] })
/-- Put of each entry: the state after those that were put, the entries left, and what stopped the first of those. -/
def putAll (s : State) : List (BitVec 128) → State × List (BitVec 128) × Option TrStop
  | [] => (s, [], none)
  | e :: r => match s.putEntry e with
    | .error x => (s, e :: r, some x)
    | .ok s1 => s1.putAll r

end State

/-! ### Nodes -/

/-- R410. -/
def execNfetch (a : Nat) (s : State) : Res :=
  s.word fun s =>
    let p := s.treg a
    let n := p.toNat
    if p.getLsbD 63 then .ok (s.remoteAt p true)
    else if bitsOf n 57 6 != 0 || n % 128 != 0 then .error (.done qBADNODE n)
    else match s.ncRead n 128 with
      | .error e => .error e
      | .ok (s1, bs) =>
        .ok (((s1.updTp fun t => { t with rmt := false, wide := some { va := n, bytes := bs } }).countNodes 1).trNext)

/-- R408. -/
def execNdec (a b : Nat) (s : State) : Res :=
  s.word fun s =>
    let p := s.treg b
    let n := p.toNat
    let da := (s.treg a).toNat
    if p.getLsbD 63 then .ok (s.remoteAt p false)
    else if da % 32 != 0 then .error (.done qBADNODE da)
    else match s.ncRead da 32 with
      | .error e => .error e
      | .ok (s1, bs) =>
        let quads := (List.range 4).map fun i => BitVec.ofNat 64 (leNum ((bs.drop (8 * i)).take 8))
        let d := DecDesc.ofQuads quads
        if d.bad then .error (.done qBADNODE da)
        else if bitsOf n 57 6 != 0 || n % 16 != 0 then .error (.done qBADNODE n)
        else match s1.ncRead n (16 * d.nsz) with
          | .error e => .error e
          | .ok (s2, node) =>
            if d.nodeBad node then .error (.done qBADNODE n)
            else
              let held : DecNode := { va := n, desc := quads, bytes := node }
              .ok (((s2.updTp fun t => { t with rmt := false, node := some held }).countNodes 2).trNext)

/-- R351. -/
def execBoxt (s : State) : Res :=
  s.word fun s =>
    let t := s.tp
    match t.wide with
    | none => .error (.done qBADNODE s.wordAt)
    | some w =>
      if wideBad w.bytes then .error (.done qBADNODE w.va)
      else .ok ((s.updTp fun t => { t with cl := boxTest w.bytes t.o t.d t.tmin t.tmax }).trNext)

/-- TRIT at an address (R445, R446). -/
def State.trit (s : State) (a : Nat) : Except TrStop State :=
  if a % 16 != 0 then .error (.done qBADNODE a)
  else match s.ncRead a 48 with
    | .error e => .error e
    | .ok (s1, bs) =>
      if nodeNum bs 40 8 != 0 then .error (.done qBADNODE a)
      else
        let t := s1.tp
        let vert := fun k => exactV ((List.range 3).map fun i => nodeWord bs (12 * k + 4 * i))
        let cand := match exactV t.o, exactV t.d, vert 0, vert 1, vert 2 with
          | some o, some d, some p0, some p1, some p2 =>
            (match triTest o d p0 p1 p2 with
            | some (x, u, v) =>
              if f32Le t.tmin x && f32Le x t.tmax then some [x, nodeWord bs 36, u, v] else none
            | none => none)
          | _, _, _, _, _ => none
        .ok ((s1.updTp fun t => { t with cand := cand }).trNext)
def execTrit (a : Nat) (s : State) : Res := s.word fun s => s.trit (s.treg a).toNat
def execTritImm (a : Nat) (m : BitVec 13) (s : State) : Res :=
  s.word fun s => s.trit (s.treg a + m.signExtend 64).toNat

/-- R367. -/
def execDist (d a : Nat) (s : State) : Res :=
  s.word fun s =>
    match s.tp.node with
    | none => .error (.done qBADNODE s.wordAt)
    | some dn =>
      let desc := DecDesc.ofQuads dn.desc
      let q := (s.treg a).toNat
      let es := vecBytes desc.vtype
      let n := desc.vdim
      if desc.kind != 2 then .error (.done qBADNODE s.wordAt)
      else if q % es != 0 then .error (.done qBADNODE q)
      else match s.ncRead (nodeNum dn.bytes desc.voff 8) (n * es) with
        | .error e => .error e
        | .ok (s1, vs) => match s1.ncRead q (n * es) with
          | .error e => .error e
          | .ok (s2, qs) =>
            let elem := fun (bs : List Byte) i => decodeFmt (vecFmt desc.vtype) (nodeNum bs (i * es) es)
            let w := distOf desc.metric ((List.range n).map fun i => (elem qs i, elem vs i))
            .ok (s2.putT d (w.zeroExtend 64))

/-- R389. -/
def execKcmp (d a : Nat) (s : State) : Res :=
  s.word fun s =>
    match s.tp.node with
    | none => .error (.done qBADNODE s.wordAt)
    | some dn =>
      let desc := DecDesc.ofQuads dn.desc
      let probe := fun k => keyVal desc.ktype (s.treg k).toNat
      if desc.kind = 2 then .error (.done qBADNODE s.wordAt)
      else if desc.kind = 1 then
        let n := (List.range (desc.count dn.bytes)).countP fun j => !keyLt (probe a) (desc.key dn.bytes j)
        .ok (s.putT d (BitVec.ofNat 64 n))
      else
        let ax := nodeByte dn.bytes desc.axoff
        if 2 < ax || 15 < a + ax then .error (.done qBADNODE dn.va)
        else .ok (s.putT d (if keyLt (probe (a + ax)) (desc.key dn.bytes 0) then 0 else 1))

/-- R380. -/
def execHit (s : State) : Res :=
  s.word fun s =>
    match s.tp.cand with
    | none => .ok s.trNext
    | some c =>
      let s1 := s.updTp fun t => { t with hit := c, hitValid := true, tmax := c.getD 0 0, cand := none }
      if qFIRST s.tp then .ok (s1.endQuery qHIT (s.treg 15).toNat) else .ok s1.trNext

/-! ### Stack words -/

/-- R417 with I = 0. -/
def execPush (a : Nat) (s : State) : Res :=
  s.word fun s => match s.putEntry (s.treg (a + 1) ++ s.treg a) with
    | .error e => .error e
    | .ok s1 => .ok s1.trNext
/-- R417 with I = 1: the farthest entry first. Where an implicit SPILL stops the word, the entries before it have been put
(R231), and after a wait the word goes on with those left in CL. -/
def execPushCl (s : State) : Res :=
  let r := s.putAll s.tp.cl.reverse
  let s1 := r.1.updTp fun t => { t with cl := r.2.1.reverse }
  .next (match r.2.2 with
    | none => s1.trNext
    | some e => s1.trStop e)
/-- R415. -/
def execPop (d : Nat) (s : State) : Res :=
  s.word fun s =>
    let filled := if s.tp.stk.isEmpty then s.fillEntry else .ok s
    match filled with
    | .error e => .error e
    | .ok s1 => match s1.tp.stk.getLast? with
      | none => .ok s1
      | some e =>
        let ptr := e.extractLsb' 0 64
        let q1 := e.extractLsb' 64 64
        let kind := bitsOf q1.toNat 62 2
        if kind = 3 || bitsOf q1.toNat 32 25 != 0 then .error (.done qBADNODE ptr.toNat)
        else
          let s2 := s1.updTp fun t => { t with stk := t.stk.dropLast, leaf := kind == 1 }
          .ok ((s2.setT d ptr).putT (d + 1) q1)
/-- R434. -/
def execSpill (s : State) : Res :=
  s.word fun s =>
    if s.tp.sd = qSFLEN s.tp then .error (.done qSTACK s.wordAt)
    else match s.spillEntry with
      | .error e => .error e
      | .ok s1 => .ok s1.trNext
/-- R377. -/
def execFill (s : State) : Res :=
  s.word fun s => match s.fillEntry with
    | .error e => .error e
    | .ok s1 => .ok s1.trNext

/-- R369. -/
def execEmit (a b : Nat) (s : State) : Res :=
  s.word fun s =>
    let va := (s.treg a).toNat
    if va % 8 != 0 then .error (.done qBADNODE va)
    else match s.trWrite va ((List.range 4).flatMap fun i => toLe 8 (s.treg (b + i)).toNat) with
      | .error e => .error e
      | .ok s1 => .ok s1.trNext

/-- The index of the next sub-query of a thread, in HANDOFF order (Table 19.3). From the fifth on, when numbers recur, one that
is outstanding is passed over (DESIGN CHOICE, log 100). -/
def subIndex (t : Trp) : Nat :=
  (((List.range 4).map fun i => (t.sent + i) % 4).find? fun n => t.subs.all fun x => x.idx != n).getD 0
/-- R378. -/
def execHandoff (s : State) : Res :=
  s.word fun s =>
    let t := s.tp
    let p := t.rmtPtr
    if !t.rmt then .error (.done qBADNODE s.wordAt)
    else if qNOHAND t || t.echo.isSome then .error (.done qREMOTE p.toNat)
    else if !s.linkUp then .error (.done qPEERDOWN p.toNat)
    else if 4 ≤ t.subs.length then .error .later
    else
      let remote := fun e : BitVec 128 => e.getLsbD 63
      let ents := t.stk.filter remote
      let idx := subIndex t
      let x : SubOut := { idx, ord := t.sent, sent := s.clock, ptr := p, hit := t.hit }
      let msg := s.subMessage p idx ents
      let s1 : State := { s with dev := { s.dev with peerOut := s.dev.peerOut ++ [msg] } }
      .ok (s1.updTp fun t =>
        { t with stk := t.stk.filter fun e => !remote e, subs := t.subs ++ [x], sent := t.sent + 1, rmt := false }).trNext

/-! ### Control and registers -/

/-- Table 17.14. -/
def State.condHolds (s : State) (c : TCond) (a : Nat) : Bool :=
  let t := s.tp
  match c with
  | .al => true
  | .z => s.treg a == 0
  | .nz => s.treg a != 0
  | .cle => t.cl.isEmpty
  | .ste => t.stk.isEmpty && t.sd == 0
  | .rmt => t.rmt
  | .cnd => t.cand.isSome
  | .leaf => t.leaf
/-- R352. -/
def execBrT (c : TCond) (a : Nat) (off : BitVec 18) (s : State) : Res :=
  s.word fun s =>
    .ok (if s.condHolds c a then s.updTp fun t => { t with pc := (((t.pc : Int) + 4 * off.toInt) % 2 ^ 57).toNat }
      else s.trNext)

/-- R440. -/
def execTMov (d a : Nat) (s : State) : Res := s.word fun s => .ok (s.putT d (s.treg a))
def execTMovImm (d : Nat) (m : BitVec 13) (s : State) : Res := s.word fun s => .ok (s.putT d (m.signExtend 64))
def execTAdd (d a b : Nat) (s : State) : Res := s.word fun s => .ok (s.putT d (s.treg a + s.treg b))
def execTAddImm (d a : Nat) (m : BitVec 13) (s : State) : Res :=
  s.word fun s => .ok (s.putT d (s.treg a + m.signExtend 64))

/-- T.LD at an address (R409, R441). -/
def State.tLoad (s : State) (d : Nat) (a : Nat) : Except TrStop State :=
  if a < 256 then
    match s.tp.node with
    | none => .error (.done qBADNODE a)
    | some dn =>
      let desc := DecDesc.ofQuads dn.desc
      if a % 8 != 0 || desc.children dn.bytes ≤ a / 8 then .error (.done qBADNODE a)
      else .ok (s.putT d (desc.child dn.bytes (a / 8)))
  else if a % 8 != 0 then .error (.done qBADNODE a)
  else match s.ncRead a 8 with
    | .error e => .error e
    | .ok (s1, bs) => .ok (s1.putT d (BitVec.ofNat 64 (leNum bs)))
def execTLd (d a b : Nat) (s : State) : Res := s.word fun s => s.tLoad d (s.treg a + s.treg b).toNat
def execTLdImm (d a : Nat) (m : BitVec 13) (s : State) : Res :=
  s.word fun s => s.tLoad d (s.treg a + m.signExtend 64).toNat

/-- T.CMP (Table 20.5) on quads; `x` and `y` are the FP32 operands of FLT and FGE. -/
def tcmpHolds (c : TCmp) (a b : Quad) (x y : Num) : Bool :=
  match c with
  | .eq => a == b
  | .ne => a != b
  | .lt => a.slt b
  | .ge => b.sle a
  | .ltu => a.ult b
  | .geu => b.ule a
  | .flt => FCond.holds .lt x y
  | .fge => FCond.holds .ge x y
def execTCmp (c : TCmp) (d a b : Nat) (s : State) : Res :=
  s.word fun s =>
    let lo := fun q : Quad => f32 (q.extractLsb' 0 32)
    .ok (s.putT d (if tcmpHolds c (s.treg a) (s.treg b) (lo (s.treg a)) (lo (s.treg b)) then 1 else 0))
/-- The immediate of FLT and FGE is converted exactly to FP32. -/
def execTCmpImm (c : TCmp) (d a : Nat) (m : BitVec 13) (s : State) : Res :=
  s.word fun s =>
    let x := f32 ((s.treg a).extractLsb' 0 32)
    .ok (s.putT d (if tcmpHolds c (s.treg a) (m.signExtend 64) x (.ofInt m.toInt) then 1 else 0))

/-- R442. -/
def execTEnd (s : State) : Res :=
  s.word fun s => .ok (s.endQuery (if s.tp.hitValid then qHIT else qMISS) (s.treg 15).toNat)

/-! ### The turn of a thread -/

/-- A thread has work: its next word, or a record for which there is room (R226, R442). -/
def State.trpReady (s : State) (k : Nat) : Bool :=
  let t := s.trpAt k
  match t.phase with
  | .run => t.miss.isNone
  | .ended => t.subs.isEmpty && (t.echo.isSome || (Tbl.get [] s.cqs (4 * (k / 256) + qField t 7 0 2)).length < 256)
  | _ => false
/-- Of the ready threads of a core but those of `skip`, the one whose query entered earliest (R226). -/
def State.trpPick (s : State) (core : Nat) (skip : List Nat) : Option Nat :=
  let l := (List.range 64).filter fun k => s.trpReady (64 * core + k) && !skip.contains k
  let age := fun k => (s.trpAt (64 * core + k)).entered
  l.find? fun k => l.all fun m => age k ≤ age m
/-- A thread that runs fetches and executes its next word (R237); one that has ended writes its record. -/
def threadTurn (ex : Instr → State → Res) (k : Nat) (s0 : State) : Res :=
  let s : State := { s0.tick with issue := { thr := k } }
  if s.tp.phase = .ended then .next s.finishQuery
  else
    let pc := s.wordAt
    match s.ncRead pc 4 .exec with
    | .error e => .next (s.trStop e)
    | .ok (s1, bs) =>
      match decodeT (leNum bs) with
      | .error _ => .next (s1.endQuery qILLEGAL pc)
      | .ok i => ex i s1
/-- The TRP of a core issues a word; `skip` lists threads whose next word is not ready yet, or has no room in this clock's
three (R226). -/
def trpTurn (ex : Instr → State → Res) (core : Nat) (skip : List Nat) (s : State) : Res :=
  match s.trpPick core skip with
  | some k => threadTurn ex (64 * core + k) s
  | none => .next s

end Sys2Proof.Machine
end

