-- ==== Sys2Proof/Machine/Dispatch.lean ====
section
/-! DEFINITION. The dispatch of every instruction to its meaning: one arm per constructor of `Instr`. -/

namespace Sys2Proof.Machine

def exec (i : Instr) (s : State) : Host.Outcome State Fault Refusal :=
  match i with
  | .nop => Sys2Proof.Machine.execNop s
  | .imm v => Sys2Proof.Machine.execImm v s
  | .sarg sv => Sys2Proof.Machine.execSarg sv s
  | .bra cond sv off ext => Sys2Proof.Machine.execBra cond sv off ext s
  | .brc inv m off ext => Sys2Proof.Machine.execBrc inv m off ext s
  | .brx v => Sys2Proof.Machine.execBrx v s
  | .call v off ext => Sys2Proof.Machine.execCall v off ext s
  | .ret v => Sys2Proof.Machine.execRet v s
  | .jset j => Sys2Proof.Machine.execJset j s
  | .join j => Sys2Proof.Machine.execJoin j s
  | .exit => Sys2Proof.Machine.execExit s
  | .rep cnt len stride floor => Sys2Proof.Machine.execRep cnt len stride floor s
  | .trap code => Sys2Proof.Machine.execTrap code s
  | .bkpt => Sys2Proof.Machine.execBkpt s
  | .eret => Sys2Proof.Machine.execEret s
  | .fence scope => Sys2Proof.Machine.execFence scope s
  | .sMov sd sa => Sys2Proof.Machine.execSMov sd sa s
  | .sLi sd hi v ext => Sys2Proof.Machine.execSLi sd hi v ext s
  | .sAdd sd sa b => Sys2Proof.Machine.execSAdd sd sa b s
  | .sSub sd sa b => Sys2Proof.Machine.execSSub sd sa b s
  | .sMul sd sa b => Sys2Proof.Machine.execSMul sd sa b s
  | .sAnd sd sa b => Sys2Proof.Machine.execSAnd sd sa b s
  | .sOr sd sa b => Sys2Proof.Machine.execSOr sd sa b s
  | .sXor sd sa b => Sys2Proof.Machine.execSXor sd sa b s
  | .sShl sd sa b => Sys2Proof.Machine.execSShl sd sa b s
  | .sShr sd sa b => Sys2Proof.Machine.execSShr sd sa b s
  | .sSra sd sa b => Sys2Proof.Machine.execSSra sd sa b s
  | .sCmp sd sa b cc => Sys2Proof.Machine.execSCmp sd sa b cc s
  | .sRsr sv num => Sys2Proof.Machine.execSRsr sv num s
  | .sWsr num b => Sys2Proof.Machine.execSWsr num b s
  | .sLd sz o => Sys2Proof.Machine.execSLd sz o s
  | .vbc v sv => Sys2Proof.Machine.execVbc v sv s
  | .sxv sv v lane => Sys2Proof.Machine.execSxv sv v lane s
  | .vote mode sv v => Sys2Proof.Machine.execVote mode sv v s
  | .barInit bar cnt sv ext => Sys2Proof.Machine.execBarInit bar cnt sv ext s
  | .barArv bar => Sys2Proof.Machine.execBarArv bar s
  | .barWait bar p => Sys2Proof.Machine.execBarWait bar p s
  | .barArw bar => Sys2Proof.Machine.execBarArw bar s
  | .barTx bar sv ext => Sys2Proof.Machine.execBarTx bar sv ext s
  | .barRem bar k => Sys2Proof.Machine.execBarRem bar k s
  | .acInit o => Sys2Proof.Machine.execAcInit o s
  | .acTake o => Sys2Proof.Machine.execAcTake o s
  | .acGive o => Sys2Proof.Machine.execAcGive o s
  | .acRead o => Sys2Proof.Machine.execAcRead o s
  | .acDrop o => Sys2Proof.Machine.execAcDrop o s
  | .cpy db => Sys2Proof.Machine.execCpy db s
  | .cpyG db off => Sys2Proof.Machine.execCpyG db off s
  | .cpyS db off => Sys2Proof.Machine.execCpyS db off s
  | .sclCpy db => Sys2Proof.Machine.execSclCpy db s
  | .capBnd o => Sys2Proof.Machine.execCapBnd o s
  | .capPrm o => Sys2Proof.Machine.execCapPrm o s
  | .capOfs o => Sys2Proof.Machine.execCapOfs o s
  | .capGet o fld => Sys2Proof.Machine.execCapGet o fld s
  | .capTst o => Sys2Proof.Machine.execCapTst o s
  | .oclaim slot cnt => Sys2Proof.Machine.execOclaim slot cnt s
  | .orel slot cnt => Sys2Proof.Machine.execOrel slot cnt s
  | .accLd v sd q lone => Sys2Proof.Machine.execAccLd v sd q lone s
  | .accSt v sd q lone => Sys2Proof.Machine.execAccSt v sd q lone s
  | .qlaunch o => Sys2Proof.Machine.execQlaunch o s
  | .qtake v cq => Sys2Proof.Machine.execQtake v cq s
  | .selk o => Sys2Proof.Machine.execSelk o s
  | .splat o => Sys2Proof.Machine.execSplat o s
  | .inbox => Sys2Proof.Machine.execInbox s
  | .commit => Sys2Proof.Machine.execCommit s
  | .jobpost q o => Sys2Proof.Machine.execJobpost q o s
  | .ld sz o => Sys2Proof.Machine.execLd sz o s
  | .ldInv sz o => Sys2Proof.Machine.execLdInv sz o s
  | .st sz o => Sys2Proof.Machine.execSt sz o s
  | .ldc o => Sys2Proof.Machine.execLdc o s
  | .ldcSpair o => Sys2Proof.Machine.execLdcSpair o s
  | .stc o => Sys2Proof.Machine.execStc o s
  | .mwatch o => Sys2Proof.Machine.execMwatch o s
  | .mwait o => Sys2Proof.Machine.execMwait o s
  | .cacheCln o => Sys2Proof.Machine.execCacheCln o s
  | .cacheInv o => Sys2Proof.Machine.execCacheInv o s
  | .tlbInv sa sb => Sys2Proof.Machine.execTlbInv sa sb s
  | .atom op z o => Sys2Proof.Machine.execAtom op z o s
  | .red op z o => Sys2Proof.Machine.execRed op z o s
  | .lds sz o => Sys2Proof.Machine.execLds sz o s
  | .sts sz o => Sys2Proof.Machine.execSts sz o s
  | .atoms op o => Sys2Proof.Machine.execAtoms op o s
  | .anop pred => Sys2Proof.Machine.execAnop pred s
  | .iadd l o => Sys2Proof.Machine.execIadd l o s
  | .isub l o => Sys2Proof.Machine.execIsub l o s
  | .imul l o => Sys2Proof.Machine.execImul l o s
  | .imulh u o => Sys2Proof.Machine.execImulh u o s
  | .imad o => Sys2Proof.Machine.execImad o s
  | .iabs o => Sys2Proof.Machine.execIabs o s
  | .iand o => Sys2Proof.Machine.execIand o s
  | .ior o => Sys2Proof.Machine.execIor o s
  | .ixor o => Sys2Proof.Machine.execIxor o s
  | .ishl l o => Sys2Proof.Machine.execIshl l o s
  | .ishr l o => Sys2Proof.Machine.execIshr l o s
  | .isra l o => Sys2Proof.Machine.execIsra l o s
  | .popc o => Sys2Proof.Machine.execPopc o s
  | .clz o => Sys2Proof.Machine.execClz o s
  | .brev o => Sys2Proof.Machine.execBrev o s
  | .imin u o => Sys2Proof.Machine.execImin u o s
  | .imax u o => Sys2Proof.Machine.execImax u o s
  | .isel k o => Sys2Proof.Machine.execIsel k o s
  | .icmp cc o => Sys2Proof.Machine.execIcmp cc o s
  | .fadd d o => Sys2Proof.Machine.execFadd d o s
  | .fsub d o => Sys2Proof.Machine.execFsub d o s
  | .fmul d o => Sys2Proof.Machine.execFmul d o s
  | .ffma d o => Sys2Proof.Machine.execFfma d o s
  | .fmin d o => Sys2Proof.Machine.execFmin d o s
  | .fmax d o => Sys2Proof.Machine.execFmax d o s
  | .fabs d o => Sys2Proof.Machine.execFabs d o s
  | .fcls d o => Sys2Proof.Machine.execFcls d o s
  | .frcp d o => Sys2Proof.Machine.execFrcp d o s
  | .frsq o => Sys2Proof.Machine.execFrsq o s
  | .fsqrt d o => Sys2Proof.Machine.execFsqrt d o s
  | .fex2 o => Sys2Proof.Machine.execFex2 o s
  | .flg2 o => Sys2Proof.Machine.execFlg2 o s
  | .fsin o => Sys2Proof.Machine.execFsin o s
  | .fcos o => Sys2Proof.Machine.execFcos o s
  | .fcmp cc d o => Sys2Proof.Machine.execFcmp cc d o s
  | .cvt dst o => Sys2Proof.Machine.execCvt dst o s
  | .packH o => Sys2Proof.Machine.execPackH o s
  | .packBl o => Sys2Proof.Machine.execPackBl o s
  | .packBh o => Sys2Proof.Machine.execPackBh o s
  | .unpk o => Sys2Proof.Machine.execUnpk o s
  | .dp4 o => Sys2Proof.Machine.execDp4 o s
  | .dp4U o => Sys2Proof.Machine.execDp4U o s
  | .dp4T8 o => Sys2Proof.Machine.execDp4T8 o s
  | .mov o => Sys2Proof.Machine.execMov o s
  | .shfl k o => Sys2Proof.Machine.execShfl k o s
  | .qrot o => Sys2Proof.Machine.execQrot o s
  | .vsort k o => Sys2Proof.Machine.execVsort k o s
  | .mxNop => Sys2Proof.Machine.execMxNop s
  | .mxZero t nr nc => Sys2Proof.Machine.execMxZero t nr nc s
  | .mxMma o => Sys2Proof.Machine.execMxMma o s
  | .mxRec t pa swa pb swb sv => Sys2Proof.Machine.execMxRec t pa swa pb swb sv s
  | .mxProg p => Sys2Proof.Machine.execMxProg p s
  | .mxScl t nr nc c => Sys2Proof.Machine.execMxScl t nr nc c s
  | .mxWait b => Sys2Proof.Machine.execMxWait b s
  | .mxArv b => Sys2Proof.Machine.execMxArv b s
  | .mxRel n m => Sys2Proof.Machine.execMxRel n m s
  | .mxLoop x count step off => Sys2Proof.Machine.execMxLoop x count step off s
  | .mxEnd => Sys2Proof.Machine.execMxEnd s
  | .nfetch a => Sys2Proof.Machine.execNfetch a s
  | .ndec a b => Sys2Proof.Machine.execNdec a b s
  | .boxt => Sys2Proof.Machine.execBoxt s
  | .trit a => Sys2Proof.Machine.execTrit a s
  | .tritImm a m => Sys2Proof.Machine.execTritImm a m s
  | .dist d a => Sys2Proof.Machine.execDist d a s
  | .kcmp d a => Sys2Proof.Machine.execKcmp d a s
  | .hit => Sys2Proof.Machine.execHit s
  | .push a => Sys2Proof.Machine.execPush a s
  | .pushCl => Sys2Proof.Machine.execPushCl s
  | .pop d => Sys2Proof.Machine.execPop d s
  | .spill => Sys2Proof.Machine.execSpill s
  | .fill => Sys2Proof.Machine.execFill s
  | .emit a b => Sys2Proof.Machine.execEmit a b s
  | .handoff => Sys2Proof.Machine.execHandoff s
  | .brT c a off => Sys2Proof.Machine.execBrT c a off s
  | .tMov d a => Sys2Proof.Machine.execTMov d a s
  | .tMovImm d m => Sys2Proof.Machine.execTMovImm d m s
  | .tAdd d a b => Sys2Proof.Machine.execTAdd d a b s
  | .tAddImm d a m => Sys2Proof.Machine.execTAddImm d a m s
  | .tLd d a b => Sys2Proof.Machine.execTLd d a b s
  | .tLdImm d a m => Sys2Proof.Machine.execTLdImm d a m s
  | .tEnd => Sys2Proof.Machine.execTEnd s
  | .tCmp c d a b => Sys2Proof.Machine.execTCmp c d a b s
  | .tCmpImm c d a m => Sys2Proof.Machine.execTCmpImm c d a m s
  | .perstDeassert b => Sys2Proof.Machine.execPerstDeassert b s
  | .configRequest => Sys2Proof.Machine.execConfigRequest s
  | .bar2PostedWrite req relaxed addr data => Sys2Proof.Machine.execBar2PostedWrite req relaxed addr data s
  | .bar2Read req addr len => Sys2Proof.Machine.execBar2Read req addr len s
  | .bar2AtomicOp op size8 addr x cmp => Sys2Proof.Machine.execBar2AtomicOp op size8 addr x cmp s
  | .registerWrite off v => Sys2Proof.Machine.execRegisterWrite off v s
  | .peerRequest r => Sys2Proof.Machine.execPeerRequest r s
  | .peerPortEvent port up => Sys2Proof.Machine.execPeerPortEvent port up s
  | .hbxQtailWrite req q v => Sys2Proof.Machine.execHbxQtailWrite req q v s
  | .tornClear q => Sys2Proof.Machine.execTornClear q s
  | .badentClear q => Sys2Proof.Machine.execBadentClear q s
  | .suspend ctx => Sys2Proof.Machine.execSuspend ctx s
  | .endCtx ctx => Sys2Proof.Machine.execEndCtx ctx s
  | .resume ctx => Sys2Proof.Machine.execResume ctx s
  | .ctxctlComplete => Sys2Proof.Machine.execCtxctlComplete s
  | .fltHeadWrite v => Sys2Proof.Machine.execFltHeadWrite v s
  | .resolve req v => Sys2Proof.Machine.execResolve req v s
  | .invalidation v => Sys2Proof.Machine.execInvalidation v s
  | .invalidationComplete => Sys2Proof.Machine.execInvalidationComplete s
  | .fltRfcountClear v => Sys2Proof.Machine.execFltRfcountClear v s
  | .ctxcreate => Sys2Proof.Machine.execCtxcreate s
  | .ctxdestroy => Sys2Proof.Machine.execCtxdestroy s
  | .memprot => Sys2Proof.Machine.execMemprot s
  | .attest => Sys2Proof.Machine.execAttest s
  | .fwstage => Sys2Proof.Machine.execFwstage s
  | .fwcommit => Sys2Proof.Machine.execFwcommit s
  | .fwabort => Sys2Proof.Machine.execFwabort s
  | .errlog => Sys2Proof.Machine.execErrlog s
  | .ident => Sys2Proof.Machine.execIdent s
  | .display d => Sys2Proof.Machine.execDisplay d s
  | .mailboxComplete => Sys2Proof.Machine.execMailboxComplete s
  | .pwcBudgetWrite v => Sys2Proof.Machine.execPwcBudgetWrite v s
  | .pwcTjhotWrite v => Sys2Proof.Machine.execPwcTjhotWrite v s
  | .yield bid => Sys2Proof.Machine.execYield bid s
  | .swapOut bid => Sys2Proof.Machine.execSwapOut bid s
  | .swapSave bid => Sys2Proof.Machine.execSwapSave bid s
  | .noframeRetest bid => Sys2Proof.Machine.execNoframeRetest bid s
  | .readmission bid => Sys2Proof.Machine.execReadmission bid s
  | .deckleAdjust p tj => Sys2Proof.Machine.execDeckleAdjust p tj s
  | .clockGate core part => Sys2Proof.Machine.execClockGate core part s
  | .powerGate core part => Sys2Proof.Machine.execPowerGate core part s
  | .ungate core part => Sys2Proof.Machine.execUngate core part s
  | .hang bid => Sys2Proof.Machine.execHang bid s
  | .lostJoinRelease gid => Sys2Proof.Machine.execLostJoinRelease gid s
  | .watchReread c => Sys2Proof.Machine.execWatchReread c s
  | .timeout c => Sys2Proof.Machine.execTimeout c s
  | .monitorReread gid slot => Sys2Proof.Machine.execMonitorReread gid slot s
  | .subqueryLost thr idx => Sys2Proof.Machine.execSubqueryLost thr idx s
  | .cardReread q => Sys2Proof.Machine.execCardReread q s
  | .thermalTrip tj => Sys2Proof.Machine.execThermalTrip tj s
  | .thermalTripExit tj => Sys2Proof.Machine.execThermalTripExit tj s
  | .thermal tj => Sys2Proof.Machine.execThermal tj s
  | .dispatchStep => Sys2Proof.Machine.execDispatchStep s
  | .tokenGrant => Sys2Proof.Machine.execTokenGrant s
  | .cardFetch q => Sys2Proof.Machine.execCardFetch q s
  | .signal c => Sys2Proof.Machine.execSignal c s
  | .chain c => Sys2Proof.Machine.execChain c s
  | .copy c => Sys2Proof.Machine.execCopy c s
  | .watch c => Sys2Proof.Machine.execWatch c s
  | .task c => Sys2Proof.Machine.execTask c s
  | .taskPost c => Sys2Proof.Machine.execTaskPost c s
  | .cardComplete c => Sys2Proof.Machine.execCardComplete c s
  | .retirement bid => Sys2Proof.Machine.execRetirement bid s
  | .segmentDelivery cid => Sys2Proof.Machine.execSegmentDelivery cid s
  | .fixupReplay cid => Sys2Proof.Machine.execFixupReplay cid s
  | .faultRecord => Sys2Proof.Machine.execFaultRecord s
  | .replay gid slot => Sys2Proof.Machine.execReplay gid slot s
  | .pageWalk core ctx va => Sys2Proof.Machine.execPageWalk core ctx va s
  | .readRequest ag line => Sys2Proof.Machine.execReadRequest ag line s
  | .ownRequest core line data => Sys2Proof.Machine.execOwnRequest core line data s
  | .fillRequest core line => Sys2Proof.Machine.execFillRequest core line s
  | .invalidationReceipt ag line => Sys2Proof.Machine.execInvalidationReceipt ag line s
  | .acknowledgement core line => Sys2Proof.Machine.execAcknowledgement core line s
  | .ownCompletion line => Sys2Proof.Machine.execOwnCompletion line s
  | .recallLine line => Sys2Proof.Machine.execRecallLine line s
  | .writeBack line => Sys2Proof.Machine.execWriteBack line s
  | .evictionNotice core line => Sys2Proof.Machine.execEvictionNotice core line s
  | .farReductionAccept n => Sys2Proof.Machine.execFarReductionAccept n s
  | .farReductionApply line => Sys2Proof.Machine.execFarReductionApply line s
  | .homeTake n => Sys2Proof.Machine.execHomeTake n s
  | .homeGive n => Sys2Proof.Machine.execHomeGive n s
  | .recallResponse n => Sys2Proof.Machine.execRecallResponse n s
  | .ssuCommandStart cluster => Sys2Proof.Machine.execSsuCommandStart cluster s
  | .ssuComplete cluster => Sys2Proof.Machine.execSsuComplete cluster s
  | .queryStart core thread => Sys2Proof.Machine.execQueryStart core thread s
  | .nodeCacheFill cluster line => Sys2Proof.Machine.execNodeCacheFill cluster line s
  | .subqueryReceive core thread sctx msg => Sys2Proof.Machine.execSubqueryReceive core thread sctx msg s
  | .subqueryResult thr idx r => Sys2Proof.Machine.execSubqueryResult thr idx r s
  | .streamFetch bid => Sys2Proof.Machine.execStreamFetch bid s
  | .firmwareError => Sys2Proof.Machine.execFirmwareError s
  | .verticalBlank output => Sys2Proof.Machine.execVerticalBlank output s
  | .jobpostResume gid slot => Sys2Proof.Machine.execJobpostResume gid slot s
  | .perstAssert => Sys2Proof.Machine.execPerstAssert s
  | .hostCompletion id => Sys2Proof.Machine.execHostCompletion id s
  | .peerResponse id bad => Sys2Proof.Machine.execPeerResponse id bad s

end Sys2Proof.Machine
end

