-- ==== Sys2Proof/Machine/Errors.lean ====
section
/-! DEFINITION. What befalls memories and links (06 R112, 15 R291, 16 R310), the eviction of a line from its slice, and the
slice diagnostic port (08 R157). -/

namespace Sys2Proof.Machine.State

/-- An error beyond correction in a sector of device memory: a protected one is in error, with its tags lost (R111, R112); an
unprotected one returns other data without report. -/
def eccError (s : State) (sector : Nat) : State :=
  if s.usable ≤ 32 * sector then s
  else if 32 * sector < s.protEnd then
    { s.clearTags (32 * sector) 32 with poison := Tbl.set false s.poison sector true }
  else
    let bs := (List.range 32).map fun i => BitVec.ofNat 8 (s.freeNat (100 + i))
    { s.tick with mem := putBytes s.mem (32 * sector) bs }
/-- An error that inline ECC corrects is counted in the error log (R112, 16 R306); the data is as it was. -/
def eccCorrected (s : State) (pa : Nat) : State := if pa < s.protEnd then s.logRecord 1 pa else s
/-- A scratchpad word of a block is in error from now on. -/
def scrError (s : State) (bid word : Nat) : State :=
  if resident (s.blk bid) && word < 256 * (s.blk bid).desc.scr then
    s.updBlk bid fun b => { b with scrBad := Tbl.set false b.scrBad word true }
  else s
/-- Responses for a sector of the paired card's memory report an error from now on, or no longer. -/
def peerError (s : State) (sector : Nat) (bad : Bool) : State := { s with peerBad := Tbl.set false s.peerBad sector bad }
/-- A slice gives up a line that is resident, having invalidated or recalled its copies (R157). -/
def sliceEvict (s : State) (line : Nat) : State :=
  if s.evictable line && (Tbl.get [] s.l2 (s.l2Key line)).contains line then s.evictSlice line else s

/-- STATE of Table 8.1. -/
def DirState.code : DirState → Nat
  | .i => 0 | .s => 1 | .x => 2
/-- What the slice diagnostic port gives for a line: the image of its directory entry (Table 8.1), which only the firmware
column can reach (16 R304, R305). -/
def dirImage (s : State) (line : Nat) : Quad :=
  let d := s.dir line
  let ptrs := d.ptrs.zipIdx.foldl (fun n p => n + p.1 * 2 ^ (8 * p.2)) 0
  BitVec.ofNat 64 (DirState.code d.st * 2 ^ 62 + d.coarse.toNat * 2 ^ 61 + d.cpe.toNat * 2 ^ 60 + d.ptrs.length * 2 ^ 57 +
    (s.farOf line).length * 2 ^ 53 + d.ctr.toNat * 2 ^ 52 + (if d.coarse then d.shr.toNat else ptrs))
/-- Firmware reads the entry of a line through the slice diagnostic port (R157). -/
def sliceRead (s : State) (line : Nat) : State := { s with dev := { s.dev with diag := s.dirImage line } }

end Sys2Proof.Machine.State
end

