-- ==== Sys2Proof/Machine/Step.lean ====
section
/-! DEFINITION. One step of the machine: the turn at the head of the agenda, and the placing of an instruction where the
next step fetches. -/

namespace Sys2Proof.Machine

/-- How many accesses a memory word performs now: all, or no more than n (06 R114, R131). -/
def State.perform (s : State) (n : Option Nat) : State := { s with issue := { s.issue with upTo := n } }

/-- One turn of an agent. -/
def runTurn (t : Turn) (s0 : State) : Res :=
  let s := s0.perform none
  match t with
  | .port core part port skip => portTurn exec core part port skip s
  | .ports core part => portsTurn exec core part s
  | .portPart core part port n => portTurn exec core part port [] (s0.perform (some n))
  | .portSeq core part port bid => Res.andThen (seqTurn exec bid s) (portTurn exec core part port [])
  | .goOn gid slot => goOnTurn exec gid slot s
  | .seq bid => seqTurn exec bid s
  | .trp core skip => trpTurn exec core skip s
  | .clock n => .next (s.passTime n)
  | .event i => if i.isEvent then exec i s.tick else .fault .notAnEvent
  | .arrival i => .next (s.arrivalTurn i)
  | .sliceRead line => .next (s.sliceRead line)
  | .ssuWrite cluster i => .next (s.ssuWrite cluster i)
  | .sliceEvict line => .next (s.sliceEvict line)
  | .eccError sector => .next (s.eccError sector)
  | .eccCorrected pa => .next (s.eccCorrected pa)
  | .scrError bid word => .next (s.scrError bid word)
  | .peerError sector bad => .next (s.peerError sector bad)
  | .bootStep => .next s.bootStep
  | .regRead off => .next (s.regRead off)

/-- The turn is still taken when every clock is stopped: only a reset restarts the device (16 R314). -/
def survivesStop (t : Turn) : Bool :=
  match t with
  | .event .perstAssert => true
  | _ => false

/-- The agenda's head moves; with nothing on it one clock passes. -/
def step (s : State) : Res :=
  match s.agenda with
  | [] => .next (s.passTime 1)
  | t :: rest =>
    let s1 : State := { s with agenda := rest }
    if s.pwr.stopped && !survivesStop t then .next s1 else runTurn t s1

/-- A capability for every address below 2^57 − 2^47, with every permission of global memory. -/
def fullCap : Cap := Cap.make 0 0 47 1023 511 0 true
/-- Thread 0 of core 0 runs at virtual address 0 of context 1, under a capability for all of it. -/
def fetchThread : Trp :=
  { phase := .run, ctx := 1, ncap := fullCap }
/-- Group 0 of a block alone on core 0 in context 1, at virtual address 0. -/
def fetchBlock : Block :=
  { phase := .resident, gangIds := [1], ctx := 1, card := 1, desc := { nreg := 15, scr := 1, nbar := 64 } }
def fetchGroup : Group := { slots := [(0, { occ := true, run := -1 })] }

/-- The instruction placed where the next step fetches it: for up to 32 bits a word of a running TRP thread, else a bundle
of a group alone on its core. Page 0 of context 1 is device page 0, cached in the TLBs and in the node cache. -/
def State.withFetchWord (s : State) (nbits w : Nat) : State :=
  let page : Tlb := { ctx := 1, size := 12, vpage := 0, ppage := 0, tgt := 0, r := true, w := true, x := true }
  let n := if nbits ≤ 32 then 4 else 8
  let s1 : State := { s with
    mem := State.putBytes s.mem 0 (State.toLe n (w % 2 ^ (8 * n))),
    poison := Tbl.erase s.poison 0, lines := s.lines.filter fun p => p.1 / 256 != 0,
    icache := s.icache.filter fun p => p.1 / 256 != 0, dirs := Tbl.erase s.dirs 0, txns := Tbl.erase s.txns 0,
    l1tlb := Tbl.set [] s.l1tlb 0 [page], pwr := { s.pwr with stopped := false } }
  if nbits ≤ 32 then
    { s1 with trps := Tbl.set {} s.trps 0 fetchThread, ncache := Tbl.set none s.ncache 0 (some false), agenda := [.trp 0 []] }
  else
    { s1 with blks := [(1, fetchBlock)], grps := [(32, fetchGroup)], ports := [], parts := [], agenda := [.port 0 0 0 []] }

end Sys2Proof.Machine
end

