-- ==== Sys2Proof/Safety.lean ====
section
/-! DEFINITION. The terms in which claims are stated: canonical memories, a word past its issue-time checks, what a result
leaves in registers and latches, and which parts of the state an instruction leaves alone. -/

namespace Sys2Proof.Machine

/-- Canonical form of a byte memory: addresses strictly rising, no entry equal to the 0 that an unlisted address
reads as. -/
def Memory.wf (m : Tbl Byte) : Bool := Tbl.wf 0 m

namespace State

/-- Device, host and peer memory are in canonical form. -/
def MemWf (s : State) : Prop :=
  Memory.wf s.mem = true ∧ Memory.wf s.hostMem = true ∧ Memory.wf s.peerMem = true

/-- `exec` answers a next state, and that state satisfies `P`. -/
def Runs (s : State) (i : Instr) (P : State → Prop) : Prop := ∃ t, exec i s = .next t ∧ P t
/-- The word is past the checks of 15 R286: its bundle has been checked, or none of its checks fails. -/
def Passes (s : State) (i : Instr) : Prop := s.issue.checked = true ∨ s.issueCause i = none
/-- A C-word that acts: past its checks, with a lane Active (18 R335). -/
def Acts (s : State) (i : Instr) : Prop := s.Passes i ∧ s.active ≠ 0

/-! ### Frames -/

/-- Nothing but the issuing group (and the count of free values) differs. -/
def OnlyGroup (s t : State) : Prop :=
  t = { s with grps := t.grps, free := t.free } ∧ ∀ g, g ≠ s.gid → t.grp g = s.grp g
/-- Nothing but vector registers of the issuing group differs, and none outside `rs`. -/
def OnlyRegs (s t : State) (rs : List Nat) : Prop :=
  s.OnlyGroup t ∧ t.g = { s.g with vregs := t.g.vregs } ∧
    ∀ r l, l < 32 → r ∉ rs → t.vcell s.gid r l = s.vcell s.gid r l
/-- Nothing but group-scalar registers `ks` of the issuing group, and the tags of their pairs, differs. -/
def OnlyScalars (s t : State) (ks : List Nat) : Prop :=
  s.OnlyGroup t ∧ t.g = { s.g with sregs := t.g.sregs, stags := t.g.stags } ∧
    (∀ k, k ∉ ks → t.sreg k = s.sreg k) ∧
    ∀ p, (∀ k ∈ ks, k / 2 ≠ p) → Tbl.get false t.g.stags p = Tbl.get false s.g.stags p
/-- What an A-word may change: registers `rs` of its group and the latches of its port. -/
def OnlyResult (s t : State) (rs : List Nat) : Prop :=
  t = { s with grps := t.grps, ports := t.ports, free := t.free } ∧ (∀ g, g ≠ s.gid → t.grp g = s.grp g) ∧
    t.g = { s.g with vregs := t.g.vregs } ∧ (∀ r l, l < 32 → r ∉ rs → t.vcell s.gid r l = s.vcell s.gid r l) ∧
    (∀ p, p ≠ s.issue.port → Tbl.get ({} : Port) t.ports p = Tbl.get {} s.ports p) ∧
    (let p : Port := Tbl.get {} s.ports s.issue.port
     let q : Port := Tbl.get {} t.ports s.issue.port
     q = { p with lat := q.lat, written := q.written })

/-! ### Results (04 Table 4.2) -/

/-- Register `r` takes `f` in every Active lane, untagged; another running lane keeps its value or, under MM, may become
all ones; a lane that is not running keeps its value. -/
def RegTakes (s t : State) (r : Nat) (mm : Bool) (f : Nat → Word) : Prop :=
  ∀ l, l < 32 →
    if s.active.getLsbD l then t.vcell s.gid r l = { val := f l }
    else if s.sl.run.getLsbD l && mm then
      (t.vcell s.gid r l).val = 0xFFFFFFFF ∨ (t.vcell s.gid r l).val = (s.vcur r l).val
    else t.vcell s.gid r l = s.vcell s.gid r l
/-- Latch `k` takes `f` in every Active lane and is marked written. -/
def LatchTakes (s t : State) (k : Nat) (f : Nat → Word) : Prop :=
  (∀ l, l < 32 → s.active.getLsbD l = true → t.latch k l = f l) ∧
    (Tbl.get ({} : Port) t.ports s.issue.port).written.getLsbD k = true

/-- The result of an A-word of one register (04 R64, R65): at a register code the register, unless NWB is set, and the
latch of its number modulo 4; at a latch code that latch alone. -/
def Takes (s t : State) (o : AOp) (f : Nat → Word) : Prop :=
  let d := s.vname o.dst
  if d < 120 then
    s.LatchTakes t (d % 4) f ∧
      (if o.nwb then s.OnlyResult t [] else s.RegTakes t d o.mm f ∧ s.OnlyResult t [d])
  else d < 124 → s.LatchTakes t (d - 120) f ∧ s.OnlyResult t []
/-- The result of an A-word of a register pair: low word, then high word (17 R323). -/
def TakesQ (s t : State) (o : AOp) (f : Nat → Quad) : Prop :=
  let d := s.vname o.dst
  let lo := fun l => (f l).extractLsb' 0 32
  let hi := fun l => (f l).extractLsb' 32 32
  if d + 1 < 120 then
    s.LatchTakes t (d % 4) lo ∧ s.LatchTakes t ((d + 1) % 4) hi ∧
      (if o.nwb then s.OnlyResult t []
       else s.RegTakes t d o.mm lo ∧ s.RegTakes t (d + 1) o.mm hi ∧ s.OnlyResult t [d, d + 1])
  else 120 ≤ d ∧ d < 123 → s.LatchTakes t (d - 120) lo ∧ s.LatchTakes t (d - 119) hi ∧ s.OnlyResult t []

/-- The A-word, past its checks, answers a next state in which its result is `f`. -/
def Gives (s : State) (i : Instr) (o : AOp) (f : Nat → Word) : Prop :=
  s.Passes i → ∃ t, exec i s = .next t ∧ s.Takes t o f
/-- The same for a result in a register pair. -/
def GivesQ (s : State) (i : Instr) (o : AOp) (f : Nat → Quad) : Prop :=
  s.Passes i → ∃ t, exec i s = .next t ∧ s.TakesQ t o f

/-- A scalar word that acts answers a next state in which s-register `k` holds `v`, its pair's tag is clear, and nothing
else differs (20 R426). -/
def GivesS (s : State) (i : Instr) (k : Nat) (v : Quad) : Prop :=
  s.Acts i → ∃ t, exec i s = .next t ∧ t.sreg k = v ∧ Tbl.get false t.g.stags (k / 2) = false ∧ s.OnlyScalars t [k]

/-! ### Memory words -/

/-- Dirty words are in owned lines, a line without them holds no data of its own, a line has one owner, and the table of
lines is in canonical form. -/
def L1Ok (s : State) : Prop :=
  (∀ p ∈ s.lines, p.2.dirty ≠ 0 → p.2.owned = true) ∧ (∀ p ∈ s.lines, p.2.dirty = 0 → p.2.data = []) ∧
    (∀ p ∈ s.lines, ∀ q ∈ s.lines, p.2.owned = true → q.2.owned = true → p.1 / 256 = q.1 / 256 → p.1 = q.1) ∧
    Tbl.wf {} s.lines = true
/-- A first issue that lets every lane perform, with no reduction on the way and nothing read by the card with LD.INV, and the
L1s in order. -/
def Quiet (s : State) : Prop :=
  s.issue.replay = false ∧ s.issue.upTo = none ∧ s.farSent = [] ∧ s.farQ = [] ∧ (s.card s.cardId).invs = [] ∧ s.L1Ok
/-- The L1 TLB of the issuing core holds an entry that translates `va` to `pa` at `tgt` and permits `acc`. -/
def Cached (s : State) (acc : Acc) (va tgt pa : Nat) : Prop :=
  ∃ x, findTlb (Tbl.get [] s.l1tlb s.core) s.ctxId va = some x ∧ x.permits acc = true ∧
    s.fwRefused s.ctxId x va = false ∧ x.tgt = tgt ∧ Tlb.pa x va = pa
/-- Every lane's address (lane, virtual address) is cached at a device address `pa`, aligned, on lines that nothing holds
and in sectors without an uncorrectable error. -/
def Hits (s : State) (acc : Acc) (n : Nat) (as : List (Nat × Nat)) (pa : Nat → Nat) : Prop :=
  ∀ p ∈ as, s.Cached acc p.2 0 (pa p.1) ∧ pa p.1 % n = 0 ∧
    s.blocked 0 (pa p.1) n = false ∧ s.bad (pa p.1) n = false
/-- The tables that hold values are in the form in which the other statements read them. -/
def Forms (s : State) : Prop := s.MemWf ∧ s.L1Ok ∧ Tbl.wf [] s.l1tlb = true ∧ Tbl.wf [] s.l2tlb = true
/-- The context has no reduction fault logged, and no reduction of the block is still on its way (R136, R170). -/
def Accepted (s : State) : Prop :=
  (s.ctx s.ctxId).rfcount = 0 ∧ (∀ r ∈ s.farSent, r.bid ≠ s.bid) ∧ ∀ p ∈ s.pending, p.red = none ∨ p.gid / 32 ≠ s.bid
/-- Nor awaits any write the paired card's answer that happens before what the group does next (R135, R156). -/
def Released (s : State) : Prop := s.Accepted ∧ ∀ p ∈ s.pending, s.gid ∉ p.seen
/-- Nothing holds back a word of ORD `ord`. -/
def MayRelease (s : State) (ord : Nat) : Prop := ord < 2 ∨ s.Released
/-- Lane `l` is the one Active lane. -/
def OneLane (s : State) (l : Nat) : Prop := l < 32 ∧ ∀ m, m < 32 → (s.active.getLsbD m = true ↔ m = l)
/-- The bytes [a, a + n) and [b, b + n) have none in common. -/
def Apart (a b n : Nat) : Prop := a + n ≤ b ∨ b + n ≤ a

/-! ### Traversal words -/

/-- A thread's word has set register file, stack and the like to those of `f`, moved to the next word, and changed
nothing else but the order in which the node cache gives up lines. -/
def TrSteps (s u : State) (f : Trp → Trp) : Prop :=
  u = { s with trps := u.trps, ncUsed := u.ncUsed } ∧ (∀ k, k ≠ s.thr → u.trpAt k = s.trpAt k) ∧
    u.tp = { f s.tp with pc := (s.tp.pc + 4) % 2 ^ 57 }
/-- A thread may read [a, a + n) with its capability, every line of it stands in the node cache of its cluster without
error and without accepted reductions, and the bytes are `bs`. -/
def NodeBytes (s : State) (a n : Nat) (bs : List Byte) : Prop :=
  bs.length = n ∧ (∃ x, checkAddr s.tp.ncap a n pLOAD = .ok x) ∧
    ∀ i, i < n → ∃ x, findTlb (Tbl.get [] s.l1tlb s.trCore) s.tp.ctx (a + i) = some x ∧ x.permits .read = true ∧
      s.fwRefused s.tp.ctx x (a + i) = false ∧ x.tgt = 0 ∧ 12 ≤ x.size ∧
      (s.dir (lineOf (Tlb.pa x (a + i)))).ctr = false ∧ s.farOf (lineOf (Tlb.pa x (a + i))) = [] ∧
      Tbl.get none s.ncache (64 * lineOf (Tlb.pa x (a + i)) + s.trCluster) = some false ∧
      bs[i]? = some (s.peek (Tlb.pa x (a + i)))
/-- A thread may access [va, va + n) as `acc` with permissions `perm`: byte i lies at device address `pa i`, on a line that
nothing holds and that is no counter, and no reduction is on its way. -/
def ThreadAt (s : State) (acc : Acc) (perm va n : Nat) (pa : Nat → Nat) : Prop :=
  s.farSent = [] ∧ s.farQ = [] ∧ (∃ x, checkAddr s.tp.ncap va n perm = .ok x) ∧
    ∀ i, i < n → ∃ x, findTlb (Tbl.get [] s.l1tlb s.trCore) s.tp.ctx (va + i) = some x ∧ x.permits acc = true ∧
      s.fwRefused s.tp.ctx x (va + i) = false ∧ x.tgt = 0 ∧ 12 ≤ x.size ∧ Tlb.pa x (va + i) = pa i ∧
      s.lineHeld (lineOf (pa i)) = false ∧ (s.dir (lineOf (pa i))).ctr = false ∧ s.bad (pa i) 1 = false

/-! ### Numbers as the tables of the reference chapters state them -/

end State

/-- The conditions of ICMP (19 Table 19.4): the signed ones on the signed values, the others on the unsigned ones. -/
def icmpRel (c : ICond) (a b : Word) : Bool :=
  match c with
  | .eq => decide (a.toNat = b.toNat)
  | .ne => decide (a.toNat ≠ b.toNat)
  | .lt => decide (a.toInt < b.toInt)
  | .le => decide (a.toInt ≤ b.toInt)
  | .gt => decide (b.toInt < a.toInt)
  | .ge => decide (b.toInt ≤ a.toInt)
  | .ltu => decide (a.toNat < b.toNat)
  | .leu => decide (a.toNat ≤ b.toNat)
  | .gtu => decide (b.toNat < a.toNat)
  | .geu => decide (b.toNat ≤ a.toNat)
/-- The conditions of S.CMP (17 Table 17.4). -/
def scmpRel (c : SCond) (a b : Quad) : Bool :=
  match c with
  | .eq => decide (a.toNat = b.toNat)
  | .ne => decide (a.toNat ≠ b.toNat)
  | .lt => decide (a.toInt < b.toInt)
  | .le => decide (a.toInt ≤ b.toInt)
  | .ltu => decide (a.toNat < b.toNat)
  | .leu => decide (a.toNat ≤ b.toNat)

end Sys2Proof.Machine
end

