-- ==== Sys2Proof/Certificates/Slice0/Obligations.lean ====
section
/-! DEFINITION. The statements for the provers. -/

open Sys2Proof Sys2Proof.Machine

/-! ### A-words -/

/-- 19 R381, R382 (Table 19.4): the two-source integer forms on words, and IMAD. -/
def Sys2Proof.Claims.IntegerTwoSource : Prop :=
  ∀ (s : State) (o : AOp),
    let a := s.srcW .int o.srcA
    let b := s.srcW .int o.srcB
    (s.Gives (.iadd false o) o fun l => a l + b l) ∧
    (s.Gives (.isub false o) o fun l => a l - b l) ∧
    (s.Gives (.imul false o) o fun l => a l * b l) ∧
    (s.Gives (.imulh false o) o fun l => ((a l).signExtend 64 * (b l).signExtend 64).extractLsb' 32 32) ∧
    (s.Gives (.imulh true o) o fun l => ((a l).zeroExtend 64 * (b l).zeroExtend 64).extractLsb' 32 32) ∧
    (s.Gives (.imad o) o fun l => a l * b l + (s.vcur (s.vname o.dst) l).val) ∧
    (s.Gives (.iand o) o fun l => a l &&& b l) ∧
    (s.Gives (.ior o) o fun l => a l ||| b l) ∧
    (s.Gives (.ixor o) o fun l => a l ^^^ b l) ∧
    (s.Gives (.ishl false o) o fun l => a l <<< (b l).toNat) ∧
    (s.Gives (.ishr false o) o fun l => a l >>> (b l).toNat) ∧
    (s.Gives (.isra false o) o fun l => (a l).sshiftRight (b l).toNat) ∧
    (s.Gives (.imin false o) o fun l => BitVec.ofInt 32 (min (a l).toInt (b l).toInt)) ∧
    (s.Gives (.imax false o) o fun l => BitVec.ofInt 32 (max (a l).toInt (b l).toInt)) ∧
    (s.Gives (.imin true o) o fun l => BitVec.ofNat 32 (min (a l).toNat (b l).toNat)) ∧
    (s.Gives (.imax true o) o fun l => BitVec.ofNat 32 (max (a l).toNat (b l).toNat)) ∧
    (∀ c, s.Gives (.icmp c o) o fun l => if icmpRel c (a l) (b l) then 1 else 0)

/-- 19 R381, R382: the .L forms on register pairs; a shift takes its count from the low word. -/
def Sys2Proof.Claims.IntegerPair : Prop :=
  ∀ (s : State) (o : AOp),
    let a := s.srcQ .int o.srcA
    let b := s.srcQ .int o.srcB
    let n := fun l => (b l).toNat % 2 ^ 32
    (s.GivesQ (.iadd true o) o fun l => a l + b l) ∧
    (s.GivesQ (.isub true o) o fun l => a l - b l) ∧
    (s.GivesQ (.imul true o) o fun l => a l * b l) ∧
    (s.GivesQ (.ishl true o) o fun l => a l <<< n l) ∧
    (s.GivesQ (.ishr true o) o fun l => a l >>> n l) ∧
    (s.GivesQ (.isra true o) o fun l => (a l).sshiftRight (n l))

/-- 19 R382, R383: the forms on one source, and ISEL. Each bit or count is stated bit by bit. -/
def Sys2Proof.Claims.IntegerOneSource : Prop :=
  ∀ (s : State) (o : AOp),
    let a := s.srcW .int o.srcA
    (s.Gives (.iabs o) o fun l => BitVec.ofNat 32 (a l).toInt.natAbs) ∧
    (s.Gives (.popc o) o fun l => BitVec.ofNat 32 ((List.range 32).filter fun i => (a l).getLsbD i).length) ∧
    (∃ f : Nat → Word, s.Gives (.clz o) o f ∧
      ∀ l, (f l).toNat ≤ 32 ∧ (∀ i, i < (f l).toNat → (a l).getLsbD (31 - i) = false) ∧
        ((f l).toNat < 32 → (a l).getLsbD (31 - (f l).toNat) = true)) ∧
    (∃ f : Nat → Word, s.Gives (.brev o) o f ∧
      ∀ l i, i < 32 → (f l).getLsbD i = (a l).getLsbD (31 - i)) ∧
    (∀ k, s.Gives (.isel k o) o fun l => if (s.vcur (116 + k) l).val.getLsbD 0 then a l else s.srcW .int o.srcB l)

/-- The integer words, their .L forms on register pairs, and ISEL. -/
def Obligations.IntegerWords : Prop :=
  Claims.IntegerTwoSource ∧ Claims.IntegerPair ∧ Claims.IntegerOneSource

/-- 19 R372, R373 (Table 19.1), 05 R93, R99, R100: the two-source FP32 forms. Each exact result is rounded once in the
split's rounding mode; the minimum and maximum need no rounding. -/
def Sys2Proof.Claims.FloatTwoSource : Prop :=
  ∀ (s : State) (o : AOp),
    let a := fun l => f32 (s.srcW .float o.srcA l)
    let b := fun l => f32 (s.srcW .float o.srcB l)
    let c := fun l => f32 (s.vcur (s.vname o.dst) l).val
    (s.Gives (.fadd false o) o fun l => toF32 s.rm ((a l).add s.rm (b l))) ∧
    (s.Gives (.fsub false o) o fun l => toF32 s.rm ((a l).add s.rm (b l).neg)) ∧
    (s.Gives (.fmul false o) o fun l => toF32 s.rm ((a l).mul (b l))) ∧
    (s.Gives (.ffma false o) o fun l => toF32 s.rm (((a l).mul (b l)).add s.rm (c l))) ∧
    (s.Gives (.fmin false o) o fun l =>
      toF32 .rne (if (a l).isNan then b l else if (b l).isNan then a l
        else if (a l).cmp (b l) = .lt ∨ (a l).cmp (b l) = .eq ∧ (a l).sign = true then a l else b l)) ∧
    (s.Gives (.fmax false o) o fun l =>
      toF32 .rne (if (a l).isNan then b l else if (b l).isNan then a l
        else if (a l).cmp (b l) = .gt ∨ (a l).cmp (b l) = .eq ∧ (a l).sign = false then a l else b l))

/-- 19 R372, R373, 17 R323: the .D forms on register pairs. -/
def Sys2Proof.Claims.FloatPair : Prop :=
  ∀ (s : State) (o : AOp),
    let a := fun l => fp64.decode (s.srcQ .float o.srcA l).toNat
    let b := fun l => fp64.decode (s.srcQ .float o.srcB l).toNat
    let c := fun l => fp64.decode
      ((s.vcur (s.vname o.dst + 1) l).val.toNat * 2 ^ 32 + (s.vcur (s.vname o.dst) l).val.toNat)
    let put := fun (m : RMode) (x : Machine.Num) => BitVec.ofNat 64 (fp64.encode m x)
    (s.GivesQ (.fadd true o) o fun l => put s.rm ((a l).add s.rm (b l))) ∧
    (s.GivesQ (.fsub true o) o fun l => put s.rm ((a l).add s.rm (b l).neg)) ∧
    (s.GivesQ (.fmul true o) o fun l => put s.rm ((a l).mul (b l))) ∧
    (s.GivesQ (.ffma true o) o fun l => put s.rm (((a l).mul (b l)).add s.rm (c l))) ∧
    (s.GivesQ (.fmin true o) o fun l => put .rne ((a l).minmax true (b l))) ∧
    (s.GivesQ (.fmax true o) o fun l => put .rne ((a l).minmax false (b l))) ∧
    (s.GivesQ (.frcp true o) o fun l => BitVec.ofNat 64 (fp64.div .rne (.fin false 1 0) (a l))) ∧
    (s.GivesQ (.fsqrt true o) o fun l => BitVec.ofNat 64 (fp64.sqrt s.rm (a l))) ∧
    (s.GivesQ (.fabs true o) o fun l =>
      if (a l).isNan then 0x7FF8000000000000 else s.srcQ .float o.srcA l &&& 0x7FFFFFFFFFFFFFFF) ∧
    (s.GivesQ (.fcls true o) o fun l =>
      let w := s.srcQ .float o.srcA l
      let x := w.toNat / 2 ^ 52 % 2 ^ 11
      let n := w.toNat % 2 ^ 52
      let neg := w.getLsbD 63
      if x = 2047 then
        (if n = 0 then (if neg then 0x001 else 0x080) else if w.getLsbD 51 then 0x200 else 0x100)
      else if x = 0 then
        (if n = 0 then (if neg then 0x008 else 0x010) else if neg then 0x004 else 0x020)
      else if neg then 0x002 else 0x040)

/-- 19 R372 to R374 (Tables 19.1, 19.2), 05 R99: the one-source FP32 forms. -/
def Sys2Proof.Claims.FloatOneSource : Prop :=
  ∀ (s : State) (o : AOp),
    let w := fun l => s.srcW .float o.srcA l
    let a := fun l => f32 (w l)
    (s.Gives (.fabs false o) o fun l => if (a l).isNan then 0x7FC00000 else w l &&& 0x7FFFFFFF) ∧
    (s.Gives (.fcls false o) o fun l =>
      let x := (w l).toNat / 2 ^ 23 % 2 ^ 8
      let n := (w l).toNat % 2 ^ 23
      let neg := (w l).getLsbD 31
      if x = 255 then
        (if n = 0 then (if neg then 0x001 else 0x080) else if (w l).getLsbD 22 then 0x200 else 0x100)
      else if x = 0 then
        (if n = 0 then (if neg then 0x008 else 0x010) else if neg then 0x004 else 0x020)
      else if neg then 0x002 else 0x040) ∧
    (s.Gives (.frcp false o) o fun l => BitVec.ofNat 32 (fp32.div .rne (.fin false 1 0) (a l))) ∧
    (s.Gives (.frsq o) o fun l => BitVec.ofNat 32 (fp32.rsqrt (a l))) ∧
    (s.Gives (.fsqrt false o) o fun l => BitVec.ofNat 32 (fp32.sqrt s.rm (a l)))

/-- The FP32 and FP64 words with an exactly rounded or exact result. -/
def Obligations.FloatArithmetic : Prop :=
  Claims.FloatTwoSource ∧ Claims.FloatPair ∧ Claims.FloatOneSource

/-- 05 Table 5.1: the magnitude that the exponent and fraction bits `k` of a binary format stand for. The bits of infinity
stand for the magnitude that would follow the largest finite one. -/
def Sys2Proof.Claims.magnitude (f : FFmt) (k : Nat) : ℚ :=
  if k < 2 ^ f.fbits then (k : ℚ) * 2 ^ f.qmin
  else (2 ^ f.fbits + (k % 2 ^ f.fbits : Nat) : ℚ) * 2 ^ (f.qmin + (k / 2 ^ f.fbits - 1 : Nat))

/-- 05 R93, R94: of the rising magnitudes `val 0`, `val 1`, … the `k`-th is the one that a magnitude rounds to. The
magnitude is given by `v`, its image under the rising map `g` (the magnitude itself, its square, …). -/
def Sys2Proof.Claims.RoundsTo (mode : RMode) (neg : Bool) (g : ℚ → ℚ) (val : Nat → ℚ) (v : ℚ) (k : Nat) : Prop :=
  v = g (val k) ∨
  ∃ j, g (val j) < v ∧ v < g (val (j + 1)) ∧ k = match mode with
    | .rz => j
    | .ru => if neg then j else j + 1
    | .rd => if neg then j + 1 else j
    | .rne =>
      let mid := g ((val j + val (j + 1)) / 2)
      if v < mid ∨ v = mid ∧ j % 2 = 0 then j else j + 1

/-- 05 R93: `bits` is a result of format `f` rounded once, with the IEEE results of an overflow. -/
def Sys2Proof.Claims.Rounded (f : FFmt) (mode : RMode) (neg : Bool) (g : ℚ → ℚ) (v : ℚ) (bits : Nat) : Prop :=
  ∃ k, bits = f.signBit neg + k ∧
    if v < g (Claims.magnitude f f.infBits) then Claims.RoundsTo mode neg g (Claims.magnitude f) v k
    else k = if mode = .rne ∨ mode = .ru ∧ neg = false ∨ mode = .rd ∧ neg = true then f.infBits else f.infBits - 1

/-- The value of a finite number. -/
def Sys2Proof.Claims.value (neg : Bool) (m : Nat) (e : Int) : ℚ :=
  (if neg then -1 else 1) * (m * 2 ^ e)

/-- 05 R93, R99, Table 5.7: quotients and square roots are the exact ones rounded once, and 1 ÷ √a under RNE. A root is stated
by its square: the magnitudes around it are compared squared. -/
def Sys2Proof.Claims.QuotientsAndRoots : Prop :=
  (∀ (f : FFmt) (mode : RMode) (s t : Bool) (m n : Nat) (e x : Int), f = fp32 ∨ f = fp64 →
    let a := (m : ℚ) * 2 ^ e
    let nan := f.infBits + 2 ^ (f.fbits - 1)
    (n ≠ 0 → Claims.Rounded f mode (s != t) id (a / (n * 2 ^ x)) (f.div mode (.fin s m e) (.fin t n x))) ∧
    (n = 0 → f.div mode (.fin s m e) (.fin t n x) = if m = 0 then nan else f.signBit (s != t) + f.infBits) ∧
    f.div mode (.inf s) (.fin t n x) = f.signBit (s != t) + f.infBits ∧ f.div mode (.inf s) (.inf t) = nan ∧
    f.div mode (.fin s m e) (.inf t) = f.signBit (s != t) ∧ (∀ y, f.div mode .nan y = nan ∧ f.div mode y .nan = nan) ∧
    (m ≠ 0 → Claims.Rounded f mode false (fun y => y * y) a (f.sqrt mode (.fin false m e)) ∧
      f.sqrt mode (.fin true m e) = nan) ∧
    (m = 0 → f.sqrt mode (.fin s m e) = f.signBit s) ∧
    f.sqrt mode (.inf false) = f.infBits ∧ f.sqrt mode (.inf true) = nan ∧ f.sqrt mode .nan = nan) ∧
  (∀ (s : Bool) (m : Nat) (e : Int),
    (0 < m → m < 2 ^ 24 → Claims.Rounded fp32 .rne false (fun y => y * y * (m * 2 ^ e)) 1 (fp32.rsqrt (.fin false m e)) ∧
      fp32.rsqrt (.fin true m e) = 0x7FC00000) ∧
    (m = 0 → fp32.rsqrt (.fin s m e) = if s then 0xFF800000 else 0x7F800000) ∧
    fp32.rsqrt (.inf false) = 0 ∧ fp32.rsqrt (.inf true) = 0x7FC00000 ∧ fp32.rsqrt .nan = 0x7FC00000)

/-- 05 R99 and Table 5.7: the special results of the four elementary functions. Elsewhere each word takes one value of
its operand alone; where the enclosure of Machine/Transcend.lean does not decide the rounding that value is free
(log 6), and the statement does not rest on it. -/
def Sys2Proof.Claims.ElementarySpecials : Prop :=
  ∀ (s : State) (o : AOp), ∃ e g p q : Word → Word,
    (s.Gives (.fex2 o) o fun l => e (s.srcW .float o.srcA l)) ∧
    (s.Gives (.flg2 o) o fun l => g (s.srcW .float o.srcA l)) ∧
    (s.Gives (.fsin o) o fun l => p (s.srcW .float o.srcA l)) ∧
    (s.Gives (.fcos o) o fun l => q (s.srcW .float o.srcA l)) ∧
    e 0 = 0x3F800000 ∧ e 0x80000000 = 0x3F800000 ∧ e 0x7F800000 = 0x7F800000 ∧ e 0xFF800000 = 0 ∧
    g 0 = 0xFF800000 ∧ g 0x80000000 = 0xFF800000 ∧ g 0x7F800000 = 0x7F800000 ∧ g 0x3F800000 = 0 ∧
    p 0 = 0 ∧ p 0x80000000 = 0x80000000 ∧ p 0x7F800000 = 0x7FC00000 ∧ p 0xFF800000 = 0x7FC00000 ∧
    q 0 = 0x3F800000 ∧ q 0x80000000 = 0x3F800000 ∧ q 0x7F800000 = 0x7FC00000 ∧ q 0xFF800000 = 0x7FC00000 ∧
    (∀ x, f32IsNan x = true → e x = 0x7FC00000 ∧ g x = 0x7FC00000 ∧ p x = 0x7FC00000 ∧ q x = 0x7FC00000) ∧
    (∀ x, 0x80000000 < x.toNat → x.toNat ≤ 0xFF800000 → g x = 0x7FC00000)

/-- The elementary functions at their special operands; quotients and roots at all of them. -/
def Obligations.Elementary : Prop :=
  Claims.ElementarySpecials ∧ Claims.QuotientsAndRoots

/-- 19 R375: FCMP writes 1 where the comparison holds and 0 where it does not. With a NaN operand UN and NE hold and no
other condition; −0 equals +0 (`Num.cmp` compares values). -/
def Sys2Proof.Claims.FloatCompare : Prop :=
  ∀ (s : State) (o : AOp) (c : FCond) (d : Bool),
    let num := fun (code l : Nat) =>
      if d then fp64.decode (s.srcQ .float code l).toNat else f32 (s.srcW .float code l)
    s.Gives (.fcmp c d o) o fun l =>
      let a := num o.srcA l
      let b := num o.srcB l
      let rel : Bool := match c with
        | .eq => a.cmp b == .eq
        | .ne => a.cmp b == .lt || a.cmp b == .gt
        | .lt => a.cmp b == .lt
        | .le => a.cmp b == .lt || a.cmp b == .eq
        | .gt => a.cmp b == .gt
        | .ge => a.cmp b == .gt || a.cmp b == .eq
        | .un => false
        | .or => true
      if a.isNan || b.isNan then (if c = .un ∨ c = .ne then 1 else 0) else if rel then 1 else 0

/-- 05 R87, R93: encoding what an FP32 word decodes to gives the word back in every rounding mode; a NaN gives the
default NaN. The same holds of FP64. -/
def Sys2Proof.Claims.FloatRoundTrip : Prop :=
  ∀ m : RMode,
    (∀ w : Word, toF32 m (f32 w) = if f32IsNan w then 0x7FC00000 else w) ∧
    (∀ q : Quad, BitVec.ofNat 64 (fp64.encode m (fp64.decode q.toNat)) =
      if (fp64.decode q.toNat).isNan then 0x7FF8000000000000 else q)

/-- 05 R93: rounding toward zero gives the largest FP32 magnitude that does not exceed the exact value, with its sign. A
finite number is stated as the integer m at the exponent e. -/
def Sys2Proof.Claims.RoundTowardZero : Prop :=
  ∀ (neg : Bool) (m : Nat) (e : Int),
    ∃ n x, f32 (toF32 .rz (.fin neg m e)) = .fin neg n x ∧
      (Num.fin false n x).cmp (.fin false m e) ≠ .gt ∧
      ∀ w : Word, ∀ k y, f32 w = .fin false k y → (Num.fin false k y).cmp (.fin false m e) ≠ .gt →
        (Num.fin false k y).cmp (.fin false n x) ≠ .gt

/-- 05 R86, R87, Table 5.1: what the bits of a binary format stand for. -/
def Sys2Proof.Claims.Decodes (f : FFmt) : Prop :=
  ∀ b : Nat, b < 2 ^ (f.ebits + f.fbits + 1) →
    let neg := b.testBit (f.ebits + f.fbits)
    let k := b % 2 ^ (f.ebits + f.fbits)
    (f.infBits < k → f.decode b = .nan) ∧ (k = f.infBits → f.decode b = .inf neg) ∧
    (k < f.infBits → ∃ m e, f.decode b = .fin neg m e ∧ (m : ℚ) * 2 ^ e = Claims.magnitude f k)

/-- 05 R87, R93: decoding, and the rounding of every exact value, in the four binary formats. -/
def Sys2Proof.Claims.BinaryFormats : Prop :=
  ∀ f : FFmt, f = fp64 ∨ f = fp32 ∨ f = fp16 ∨ f = bf16 →
    Claims.Decodes f ∧
    ∀ mode : RMode, f.encode mode .nan = f.infBits + 2 ^ (f.fbits - 1) ∧
      (∀ neg, f.encode mode (.inf neg) = f.signBit neg + f.infBits) ∧
      ∀ (neg : Bool) (m : Nat) (e : Int), Claims.Rounded f mode neg id ((m : ℚ) * 2 ^ e) (f.encode mode (.fin neg m e))

/-- 05 R93: sums, products and comparisons of finite numbers are exact; a zero sum of two signs is −0 under RD and +0
under the other modes. With an infinity or a NaN the results are those of IEEE 754. -/
def Sys2Proof.Claims.ExactArithmetic : Prop :=
  (∀ (mode : RMode) (s t : Bool) (m n : Nat) (e f : Int),
    let a := Num.fin s m e
    let b := Num.fin t n f
    let v := Claims.value s m e
    let w := Claims.value t n f
    (∃ r k x, a.add mode b = .fin r k x ∧ Claims.value r k x = v + w ∧
      (v + w = 0 → r = if s = t ∧ v = 0 then s else decide (mode = .rd)) ∧ (v + w < 0 → r = true) ∧ (0 < v + w → r = false)) ∧
    (∃ k x, a.mul b = .fin (s != t) k x ∧ Claims.value (s != t) k x = v * w) ∧
    a.cmp b = (if v < w then .lt else if v = w then .eq else .gt) ∧
    (∀ z, (Num.inf z).add mode a = .inf z ∧ a.add mode (.inf z) = .inf z ∧
      (Num.inf z).mul a = (if m = 0 then .nan else .inf (z != s)) ∧
      a.mul (.inf z) = (if m = 0 then .nan else .inf (z != s)) ∧
      (Num.inf z).cmp a = (if z then .lt else .gt) ∧ a.cmp (.inf z) = if z then .gt else .lt)) ∧
  (∀ (s : Bool) (m : Nat) (e : Int), (Num.fin s m e).neg = .fin (!s) m e ∧ (Num.inf s).neg = .inf (!s) ∧ Num.nan.neg = .nan) ∧
  (∀ (mode : RMode) (x : Machine.Num) (y z : Bool),
    (Num.inf y).add mode (.inf z) = (if y = z then .inf y else .nan) ∧ (Num.inf y).mul (.inf z) = .inf (y != z) ∧
    Num.nan.add mode x = .nan ∧ x.add mode .nan = .nan ∧ Num.nan.mul x = .nan ∧ x.mul .nan = .nan)

/-- What an encoding in a format keeps, how it rounds, and that sums and products before it are exact. -/
def Obligations.FloatRounding : Prop :=
  Claims.FloatRoundTrip ∧ Claims.RoundTowardZero ∧ Claims.BinaryFormats ∧ Claims.ExactArithmetic

/-- 05 Table 5.2, R89: the magnitude of a T8 value's low seven bits and of a T6 value's low five. -/
def Sys2Proof.Claims.taperedMagnitude (t8 : Bool) (k : Nat) : ℚ :=
  if t8 then
    -- a run of m equal bits, its other bit, the exponent bit e, and 5 − m fraction bits n
    let row := fun (m : Nat) (g : Int) =>
      let n := k % 2 ^ (5 - m)
      let e := k / 2 ^ (5 - m) % 2
      (2 : ℚ) ^ (2 * g + e) * (1 + n / 2 ^ (5 - m))
    if k = 0 then 0 else if k = 1 then 1 / 2 ^ 12 else if k < 4 then row 5 (-5) else if k < 8 then row 4 (-4)
    else if k < 16 then row 3 (-3) else if k < 32 then row 2 (-2) else if k < 64 then row 1 (-1)
    else if k < 96 then row 1 0 else if k < 112 then row 2 1 else if k < 120 then row 3 2 else if k < 124 then row 4 3
    else if k < 126 then row 5 4 else if k = 126 then 2 ^ 10 else 2 ^ 12
  else
    let row := fun (m : Nat) (g : Int) => (2 : ℚ) ^ g * (1 + (k % 2 ^ (4 - m) : Nat) / 2 ^ (4 - m))
    if k = 0 then 0 else if k = 1 then 1 / 2 ^ 4 else if k < 4 then row 3 (-3) else if k < 8 then row 2 (-2)
    else if k < 16 then row 1 (-1) else if k < 24 then row 1 0 else if k < 28 then row 2 1 else if k < 30 then row 3 2
    else if k = 30 then 2 ^ 3 else 2 ^ 4

/-- 05 R86 to R91, 18 R366: the value that CVT reads from a source in format `f` whose bits are `b`. -/
def Sys2Proof.Claims.SourceValues : Prop :=
  (∀ b, decodeFmt .fp64 b = fp64.decode (b % 2 ^ 64) ∧ decodeFmt .fp32 b = fp32.decode (b % 2 ^ 32) ∧
    decodeFmt .fp16 b = fp16.decode (b % 2 ^ 16) ∧ decodeFmt .bf16 b = bf16.decode (b % 2 ^ 16)) ∧
  (∀ (big : Bool) (b : Nat),
    let n := if big then 7 else 5
    let k := b % 2 ^ n
    let x := decodeFmt (if big then .t8 else .t6) b
    (k = 0 → b.testBit n = true → x = .nan) ∧
    (k ≠ 0 ∨ b.testBit n = false → ∃ m e, x = .fin (b.testBit n) m e ∧ (m : ℚ) * 2 ^ e = Claims.taperedMagnitude big k)) ∧
  (∀ b : Nat,
    let k := b % 2 ^ 19
    (2 ^ 19 - 2 ^ 11 ≤ k → decodeFmt .s20 b = .nan) ∧
    (k < 2 ^ 19 - 2 ^ 11 → ∃ m e, decodeFmt .s20 b = .fin (b.testBit 19 && k != 0) m e ∧
      (m : ℚ) * 2 ^ e = Claims.magnitude s20 k)) ∧
  (∀ b : Nat, ∃ m8 m16 m32 m64 : Nat,
    let i8 := (BitVec.ofNat 8 b).toInt
    let i16 := (BitVec.ofNat 16 b).toInt
    let i32 := (BitVec.ofNat 32 b).toInt
    let i64 := (BitVec.ofNat 64 b).toInt
    decodeFmt .int8 b = .fin (decide (i8 < 0)) m8 0 ∧ m8 = i8.natAbs ∧
    decodeFmt .int16 b = .fin (decide (i16 < 0)) m16 0 ∧ m16 = i16.natAbs ∧
    decodeFmt .int32 b = .fin (decide (i32 < 0)) m32 0 ∧ m32 = i32.natAbs ∧
    decodeFmt .int64 b = .fin (decide (i64 < 0)) m64 0 ∧ m64 = i64.natAbs)

/-- 05 R94, R95: rounding to T8, T6 or S20. `val` gives the magnitudes in rising order up to that of `top`, `sign` is the sign
bit, `nav` the pattern a NaN gives. -/
def Sys2Proof.Claims.RoundsSmall (mode : RMode) (val : Nat → ℚ) (top sign nav : Nat) (x : Machine.Num) (y : SatBits) : Prop :=
  match x with
  | .nan => y = { bits := nav }
  | .inf neg => y = { bits := (if neg then sign else 0) + top, sat := true }
  | .fin neg m e =>
    let v := (m : ℚ) * 2 ^ e
    if val top < v then y = { bits := (if neg then sign else 0) + top, sat := true }
    else y.sat = false ∧ ∃ k, Claims.RoundsTo mode neg id val v k ∧
      k ≤ top ∧ y.bits = if k = 0 then 0 else (if neg then sign else 0) + k

/-- 05 R93, R95: rounding to an n-bit integer. -/
def Sys2Proof.Claims.RoundsInt (mode : RMode) (n : Nat) (x : Machine.Num) (y : SatBits) : Prop :=
  let high : SatBits := { bits := 2 ^ (n - 1) - 1, sat := true }
  let low : SatBits := { bits := 2 ^ (n - 1), sat := true }
  match x with
  | .nan => y = { bits := 0, sat := true }
  | .inf neg => y = if neg then low else high
  | .fin neg m e => ∃ k : Nat, Claims.RoundsTo mode neg id (fun j => (j : ℚ)) ((m : ℚ) * 2 ^ e) k ∧
      y = if neg = false ∧ 2 ^ (n - 1) ≤ k then high else if neg = true ∧ 2 ^ (n - 1) < k then low
        else { bits := (BitVec.ofInt n (if neg then -(k : Int) else k)).toNat }

/-- 05 R93 to R95, R98: one rounding of a value to the format `d`. -/
def Sys2Proof.Claims.RoundsOnce (mode : RMode) (d : Fmt) (x : Machine.Num) (y : SatBits) : Prop :=
  let binary := fun f : FFmt => y.sat = false ∧
    match x with
    | .nan => y.bits = f.infBits + 2 ^ (f.fbits - 1)
    | .inf neg => y.bits = f.signBit neg + f.infBits
    | .fin neg m e => Claims.Rounded f mode neg id ((m : ℚ) * 2 ^ e) y.bits
  match d with
  | .fp64 => binary fp64
  | .fp32 => binary fp32
  | .fp16 => binary fp16
  | .bf16 => binary bf16
  | .t8 => Claims.RoundsSmall mode (Claims.taperedMagnitude true) 0x7F 0x80 0x80 x y
  | .t6 => Claims.RoundsSmall mode (Claims.taperedMagnitude false) 0x1F 0x20 0x20 x y
  | .s20 => Claims.RoundsSmall mode (Claims.magnitude s20) 0x7F7FF 0x80000 0x7F800 x y
  | .int8 => Claims.RoundsInt mode 8 x y
  | .int16 => Claims.RoundsInt mode 16 x y
  | .int32 => Claims.RoundsInt mode 32 x y
  | .int64 => Claims.RoundsInt mode 64 x y

/-- 18 R366, 05 R93 to R96, R98: CVT between two formats: one rounding, or two, through FP32, where another format than FP32
becomes S20. Each Active lane takes the rounded value of its source; a saturating Active lane sets %satf, and nothing else
changes beside the result. A NaS is read as a NaN (log 84). -/
def Sys2Proof.Claims.Conversion : Prop :=
  ∀ (s : State) (o : AOp) (d f : Fmt), Fmt.ofCode o.srcB = some f → s.Passes (.cvt d o) →
    let c : State.SrcClass := if f = .fp32 ∨ f = .fp64 then .float else .int
    let x := fun l => decodeFmt f (if f = .fp64 ∨ f = .int64 then (s.srcQ c o.srcA l).toNat else (s.srcW c o.srcA l).toNat)
    ∃ y : Nat → SatBits,
      (∀ l, if d = .s20 ∧ f ≠ .fp32 then ∃ z, Claims.RoundsOnce s.rm .fp32 (x l) z ∧
            Claims.RoundsOnce s.rm .s20 (decodeFmt .fp32 z.bits) (y l)
          else Claims.RoundsOnce s.rm d (x l) (y l)) ∧
      ∃ t, exec (.cvt d o) s = .next t ∧ ∃ u : State,
        (if d = .fp64 ∨ d = .int64 then s.TakesQ u o fun l => BitVec.ofNat 64 (y l).bits
         else s.Takes u o fun l => BitVec.ofNat 32 (y l).bits) ∧
        ((∃ l, l < 32 ∧ s.active.getLsbD l = true ∧ (y l).sat = true) →
          t = u.updGrp s.gid fun g => { g with satf := true }) ∧
        ((∀ l, l < 32 → s.active.getLsbD l = true → (y l).sat = false) → t = u)

/-- FCMP and CVT, with the values CVT reads. -/
def Obligations.CompareAndConvert : Prop :=
  Claims.FloatCompare ∧ Claims.SourceValues ∧ Claims.Conversion

/-- 20 R414, R447, 18 R368, 19 R394: packing, unpacking, the dot products and MOV. -/
def Sys2Proof.Claims.PackAndDot : Prop :=
  ∀ (s : State) (o : AOp),
    let a := s.srcW .int o.srcA
    let b := s.srcW .int o.srcB
    let d := fun l => (s.vcur (s.vname o.dst) l).val
    (s.Gives (.mov o) o a) ∧
    (s.Gives (.packH o) o fun l => BitVec.ofNat 32 ((b l).toNat % 2 ^ 16 * 2 ^ 16 + (a l).toNat % 2 ^ 16)) ∧
    (s.Gives (.packBl o) o fun l =>
      BitVec.ofNat 32 ((d l).toNat / 2 ^ 16 * 2 ^ 16 + (b l).toNat % 2 ^ 8 * 2 ^ 8 + (a l).toNat % 2 ^ 8)) ∧
    (s.Gives (.packBh o) o fun l =>
      BitVec.ofNat 32 ((b l).toNat % 2 ^ 8 * 2 ^ 24 + (a l).toNat % 2 ^ 8 * 2 ^ 16 + (d l).toNat % 2 ^ 16)) ∧
    (∀ k, k < 4 → o.srcB = k →
      s.Gives (.unpk o) o fun l => BitVec.ofNat 32 ((a l).toNat / 2 ^ (8 * k) % 2 ^ 8)) ∧
    (∀ k, k < 4 → o.srcB = 4 + k →
      s.Gives (.unpk o) o fun l => BitVec.ofInt 32 ((a l).extractLsb' (8 * k) 8).toInt) ∧
    (∀ k, k < 2 → o.srcB = 8 + k →
      s.Gives (.unpk o) o fun l => BitVec.ofNat 32 ((a l).toNat / 2 ^ (16 * k) % 2 ^ 16)) ∧
    (∀ k, k < 2 → o.srcB = 10 + k →
      s.Gives (.unpk o) o fun l => BitVec.ofInt 32 ((a l).extractLsb' (16 * k) 16).toInt) ∧
    (s.Gives (.dp4 o) o fun l =>
      BitVec.ofInt 32 ((d l).toInt + ((List.range 4).map fun k => (byteOf (a l) k).toInt * (byteOf (b l) k).toInt).sum)) ∧
    (s.Gives (.dp4U o) o fun l =>
      BitVec.ofNat 32 ((d l).toNat + ((List.range 4).map fun k => (byteOf (a l) k).toNat * (byteOf (b l) k).toNat).sum)) ∧
    (s.Gives (.dp4T8 o) o fun l => toF32 s.rm (dotT8 s.rm (f32 (d l)) (a l) (b l)))

/-- 18 R368: the sum that DP4.T8 rounds is exact. A NaV or a NaN dst makes it a NaN, an infinite dst stays; an exact zero has
the common sign of dst and the products where they are zeros of one sign, and else the sign of a zero sum in the mode. -/
def Sys2Proof.Claims.TaperedDot : Prop :=
  ∀ (mode : RMode) (d : Machine.Num) (a b : Word),
    let x := fun k => decodeFmt .t8 (byteOf a k).toNat
    let y := fun k => decodeFmt .t8 (byteOf b k).toNat
    let r := dotT8 mode d a b
    ((d = .nan ∨ ∃ k, k < 4 ∧ (x k = .nan ∨ y k = .nan)) → r = .nan) ∧
    ∀ (sx sy : Nat → Bool) (mx my : Nat → Nat) (ex ey : Nat → Int), (∀ k, k < 4 →
        x k = .fin (sx k) (mx k) (ex k) ∧ y k = .fin (sy k) (my k) (ey k)) →
      (∀ z, d = .inf z → r = .inf z) ∧
      ∀ s m e, d = .fin s m e → ∃ t n f, r = .fin t n f ∧
        let term := fun k => Claims.value (sx k) (mx k) (ex k) * Claims.value (sy k) (my k) (ey k)
        let v := Claims.value t n f
        v = Claims.value s m e + (term 0 + term 1 + term 2 + term 3) ∧ (v < 0 → t = true) ∧ (0 < v → t = false) ∧
        let alike := m = 0 ∧ ∀ k, k < 4 → term k = 0 ∧ (sx k != sy k) = s
        (v = 0 → alike → t = s) ∧ (v = 0 → ¬ alike → t = decide (mode = .rd))

/-- 05 R93: the FP32 operations under RNE from which the rotations of R233 and R419 are made. -/
def Sys2Proof.Claims.add32 (a b : Word) : Word := toF32 .rne ((f32 a).add .rne (f32 b))
def Sys2Proof.Claims.sub32 (a b : Word) : Word := toF32 .rne ((f32 a).add .rne (f32 b).neg)
def Sys2Proof.Claims.mul32 (a b : Word) : Word := toF32 .rne ((f32 a).mul (f32 b))
def Sys2Proof.Claims.div32 (a b : Word) : Word := BitVec.ofNat 32 (fp32.div .rne (f32 a) (f32 b))

/-- 20 R419: entry (i, j) of the rotation of the quaternion (x, y, z, w). -/
def Sys2Proof.Claims.rotation (x y z w : Word) (i j : Nat) : Word :=
  let sq := fun a => Claims.mul32 a a
  let s := Claims.div32 0x40000000 (Claims.add32 (Claims.add32 (Claims.add32 (sq x) (sq y)) (sq z)) (sq w))
  let diag := fun a b => Claims.sub32 0x3F800000 (Claims.mul32 s (Claims.add32 (sq a) (sq b)))
  let plus := fun a b c d => Claims.mul32 s (Claims.add32 (Claims.mul32 a b) (Claims.mul32 c d))
  let less := fun a b c d => Claims.mul32 s (Claims.sub32 (Claims.mul32 a b) (Claims.mul32 c d))
  match i, j with
  | 0, 0 => diag y z
  | 0, 1 => less x y z w
  | 0, 2 => plus x z y w
  | 1, 0 => plus x y z w
  | 1, 1 => diag x z
  | 1, 2 => less y z x w
  | 2, 0 => less x z y w
  | 2, 1 => plus y z x w
  | _, _ => diag x y

/-- 20 R419, 11 R234: fma(r2, v2, fma(r1, v1, r0 × v0)), each with one rounding. -/
def Sys2Proof.Claims.along (r v : Nat → Word) : Word :=
  let fma := fun a b c => toF32 .rne (((f32 a).mul (f32 b)).add .rne (f32 c))
  fma (r 2) (v 2) (fma (r 1) (v 1) (Claims.mul32 (r 0) (v 0)))

/-- 12 R252: how the keys of VSORT rank: unsigned, signed, and FP32 numerically with −0 equal to +0 and every NaN above
every number and equal to every NaN. -/
def Sys2Proof.Claims.KeyOrder : Prop :=
  ∀ a b : Word,
    (sortKey .u a < sortKey .u b ↔ a.toNat < b.toNat) ∧ (sortKey .s a < sortKey .s b ↔ a.toInt < b.toInt) ∧
    (sortKey .f a < sortKey .f b ↔ f32IsNan a = false ∧ (f32IsNan b = true ∨ (f32 a).cmp (f32 b) = .lt)) ∧
    (sortKey .u a = sortKey .u b → a = b) ∧ (sortKey .s a = sortKey .s b → a = b)

/-- 20 R433 (Table 20.4), R419, 18 R339: SHFL reads srcA in the lane that srcB names; QROT rotates the three values of each
quad of lanes and copies the fourth; ANOP does nothing. -/
def Sys2Proof.Claims.LaneWords : Prop :=
  ∀ (s : State) (o : AOp),
    let a := s.srcW .int o.srcA
    let n := fun l => (s.srcW .int o.srcB l).toNat
    (s.Gives (.shfl .idx o) o fun l => a (n l % 32)) ∧
    (s.Gives (.shfl .up o) o fun l => if n l ≤ l then a (l - n l) else a l) ∧
    (s.Gives (.shfl .dn o) o fun l => if l + n l ≤ 31 then a (l + n l) else a l) ∧
    (s.Gives (.shfl .xor o) o fun l => a (l ^^^ (n l % 32))) ∧
    (s.Gives (.qrot o) o fun l =>
      if l % 4 = 3 then s.srcW .float o.srcA l
      else
        let v := fun i => s.srcW .float o.srcA (l / 4 * 4 + i)
        let q := fun i => s.srcW .float o.srcB (l / 4 * 4 + i)
        Claims.along (Claims.rotation (q 0) (q 1) (q 2) (q 3) (l % 4)) v) ∧
    (∀ p, s.Passes (.anop p) → exec (.anop p) s = .next s)

/-- 12 R252, 20 R450: VSORT sorts the Active lanes. Some permutation `p` of them puts the keys in increasing order and keeps the
order of equal keys; the keys go to vd and its latch, the values to vd + 1. -/
def Sys2Proof.Claims.LaneSort : Prop :=
  ∀ (s : State) (o : AOp) (k : SortKind),
    let c := if k = .f then State.SrcClass.float else .int
    let key := fun l => sortKey k (s.srcW c o.srcA l)
    let on := fun l => l < 32 ∧ s.active.getLsbD l = true
    let d := s.vname o.dst
    s.Passes (.vsort k o) → d + 1 < 120 → ∃ (p : Nat → Nat) (t : State),
      exec (.vsort k o) s = .next t ∧
      (∀ l, on l → on (p l)) ∧ (∀ l m, on l → on m → p l = p m → l = m) ∧
      (∀ l m, on l → on m → l < m → key (p l) < key (p m) ∨ key (p l) = key (p m) ∧ p l < p m) ∧
      s.LatchTakes t (d % 4) (fun l => s.srcW c o.srcA (p l)) ∧
      (if o.nwb then s.OnlyResult t []
       else s.RegTakes t d o.mm (fun l => s.srcW c o.srcA (p l)) ∧
         s.RegTakes t (d + 1) o.mm (fun l => s.srcW c o.srcB (p l)) ∧ s.OnlyResult t [d, d + 1])

/-- Packing and dot products, words that move between lanes, and the sort. -/
def Obligations.LaneOperations : Prop :=
  Claims.PackAndDot ∧ Claims.TaperedDot ∧ Claims.LaneWords ∧ Claims.KeyOrder ∧ Claims.LaneSort

/-! ### Control -/

/-- 18 R335: a C-word with no Active lane has no effect, and no check after issue is made. -/
def Sys2Proof.Claims.NoActiveLane : Prop :=
  ∀ (s : State) (i : Instr), s.active = 0 → s.Passes i →
    (match i with
      | .nop | .imm _ | .sarg _ | .bra .. | .brc .. | .brx _ | .call .. | .ret _ | .jset _ | .join _ | .exit | .rep ..
      | .trap _ | .bkpt | .eret | .fence _ | .sMov .. | .sLi .. | .sAdd .. | .sSub .. | .sMul .. | .sAnd .. | .sOr ..
      | .sXor .. | .sShl .. | .sShr .. | .sSra .. | .sCmp .. | .sRsr .. | .sWsr .. | .sLd .. | .vbc .. | .sxv ..
      | .vote .. | .barInit .. | .barArv _ | .barWait .. | .barArw _ | .barTx .. | .barRem .. | .acInit _ | .acTake _
      | .acGive _ | .acRead _ | .acDrop _ | .cpy _ | .cpyG .. | .cpyS .. | .sclCpy _ | .capBnd _ | .capPrm _ | .capOfs _
      | .capGet .. | .capTst _ | .oclaim .. | .orel .. | .accLd .. | .accSt .. | .qlaunch _ | .qtake .. | .selk _
      | .splat _ | .inbox | .commit | .jobpost .. | .ld .. | .ldInv .. | .st .. | .ldc _ | .ldcSpair _ | .stc _
      | .mwatch _ | .mwait _ | .cacheCln _ | .cacheInv _ | .tlbInv .. | .atom .. | .red .. | .lds .. | .sts ..
      | .atoms .. => exec i s = .next s
      | _ => True)

/-- 15 R285, R286: every C-word and A-word one of whose issue-time checks fails takes that trap, and has no other effect. -/
def Sys2Proof.Claims.IssueTrap : Prop :=
  ∀ (s : State) (i : Instr) (k : State.Cause), s.issue.checked = false → s.issueCause i = some k →
    (encodeC i).isSome = true ∨ (encodeA i).isSome = true → exec i s = .next (s.takeIssueTrap k)

/-- 15 R286: of the checks of a word the first in the order ILLEGAL, PRIV, REGRANGE, ROLE, DIVSCALAR, LATCH, SAT,
JOINSTATE, MEMERR decides; and a word none of whose checks fails passes. A BAR.* word on a register that the group does not
have is ILLEGAL (18 R345), and so is ERET with %cause.ACT = 0 (15 R288), at issue by log 59. -/
def Sys2Proof.Claims.IssueOrder : Prop :=
  ∀ (s : State) (i : Instr),
    (∀ k, s.issueCause i = some k → k ∈ s.issueCauses i ∧ ∀ m ∈ s.issueCauses i, k.order ≤ m.order) ∧
    (s.issueCauses i = [] → s.Passes i) ∧
    (∀ b, i.barNo = some b → s.b.desc.nbar ≤ b → (s.issueCause i).map (·.code) = some 1) ∧
    (i = .eret → s.g.cause.getLsbD 63 = false → (s.issueCause i).map (·.code) = some 1)

/-- What a bundle's checks and an empty Active set do. -/
def Obligations.IssueChecks : Prop :=
  Claims.NoActiveLane ∧ Claims.IssueTrap ∧ Claims.IssueOrder

/-- 18 R353, 19 R384, 20 R411, R430: NOP, IMM and SARG change nothing; BRA moves the whole split, to the address of
its own bundle plus 8 × off modulo 2^57, or to the following bundle. -/
def Sys2Proof.Claims.Branch : Prop :=
  ∀ (s : State) (off : BitVec 16) (ext : Option Word) (k : Nat),
    let target := BitVec.ofInt 54 ((s.issue.addr / 8 : Nat) + match ext with
      | none => off.toInt
      | some x => x.toInt)
    let next := BitVec.ofNat 54 (s.issue.addr / 8 + 1)
    let jumps := fun pc => (s.updSl fun sl => { sl with pc }).setOut .jumped
    (s.Acts .nop → exec .nop s = .next s) ∧ (∀ v, s.Acts (.imm v) → exec (.imm v) s = .next s) ∧
    (s.Acts (.sarg k) → exec (.sarg k) s = .next s) ∧
    (s.Acts (.bra 0 k off ext) → exec (.bra 0 k off ext) s = .next (jumps target)) ∧
    (s.Acts (.bra 1 k off ext) → exec (.bra 1 k off ext) s = .next (jumps (if s.sreg k = 0 then target else next))) ∧
    (s.Acts (.bra 2 k off ext) → exec (.bra 2 k off ext) s = .next (jumps (if s.sreg k = 0 then next else target)))

/-- 18 R354, 03 R46: BRC. Where all running lanes go to one address the split moves whole. Otherwise the falling lanes keep
the slot and the taking lanes get the lowest free slot; with no free slot the taking lanes keep it and the falling lanes
are deferred. -/
def Sys2Proof.Claims.ConditionalBranch : Prop :=
  ∀ (s : State) (inv : Bool) (m : Nat) (off : BitVec 16) (ext : Option Word), s.Acts (.brc inv m off ext) →
    let target := s.branchPc off ext
    let k := s.issue.slot
    let takes := fun l => s.active.getLsbD l && ((s.vcur (116 + m) l).val.getLsbD 0 != inv)
    let on := fun l => s.sl.run.getLsbD l
    ∃ t, exec (.brc inv m off ext) s = .next t ∧ t.issue.out = .jumped ∧
      ((∀ l, l < 32 → takes l = false) → t = (s.updSl fun sl => { sl with pc := s.nextPc }).setOut .jumped) ∧
      ((∃ l, l < 32 ∧ takes l = true) → (∀ l, l < 32 → on l = true → takes l = true) →
        t = (s.updSl fun sl => { sl with pc := target }).setOut .jumped) ∧
      (target = s.nextPc → t = (s.updSl fun sl => { sl with pc := target }).setOut .jumped) ∧
      ((∃ l, l < 32 ∧ takes l = true) → (∃ l, l < 32 ∧ on l = true ∧ takes l = false) → target ≠ s.nextPc →
        ∃ mt mf : LaneMask, (∀ l, l < 32 → mt.getLsbD l = takes l) ∧
          (∀ l, l < 32 → mf.getLsbD l = (on l && !takes l)) ∧
          (∀ n rest, s.freeSlots s.gid = n :: rest → s.sl.occ = true →
            t.sl = { s.sl with pc := s.nextPc, run := mf } ∧ (t.grp s.gid).defer = s.g.defer ∧
            t.slotAt s.gid n =
              { occ := true, pc := target, run := mt, fmt := s.sl.fmt, age := s.sl.age }) ∧
          (s.freeSlots s.gid = [] → s.sl.occ = true →
            t.sl = { s.sl with pc := target, run := mt } ∧
            (t.grp s.gid).defer = s.g.defer ++ [{ owner := k, pc := s.nextPc, mask := mf, fmt := s.sl.fmt }]))

/-- 18 R356, R358, 20 R425: BRX with one destination, CALL and RET. A target that is not a multiple of 8 traps with MISALIGN
(code 10); RET's is a split-level cause, whose LANE is 0 (15 Table 15.2 as log 88 reads it). -/
def Sys2Proof.Claims.IndirectBranch : Prop :=
  ∀ (s : State) (v : Nat) (off : BitVec 16) (ext : Option Word),
    let jumps := fun (s : State) (pc : BitVec 54) => (s.updSl fun sl => { sl with pc }).setOut .jumped
    let low := fun l => (s.vcell s.gid (s.vname v) l).val
    let on := fun l => l < 32 ∧ s.active.getLsbD l = true
    (∀ w : Word, s.Acts (.brx v) → s.sl.run = s.active → (∀ l, on l → low l = w) → w.toNat % 8 = 0 →
      ∃ t, exec (.brx v) s = .next t ∧
        t = jumps s (BitVec.ofNat 54 ((s.issue.addr / 2 ^ 32 * 2 ^ 32 + w.toNat) / 8))) ∧
    (s.Acts (.brx v) → (∃ l, on l ∧ (low l).toNat % 8 ≠ 0) → ∃ l, on l ∧ (low l).toNat % 8 ≠ 0 ∧
      (∀ m, on m → (low m).toNat % 8 ≠ 0 → l ≤ m) ∧
      exec (.brx v) s = .next (s.takeTrap { code := 10, lane := l, info := (low l).toNat })) ∧
    (s.Acts (.call v off ext) → ∃ t, exec (.call v off ext) s = .next t ∧
      t.sl = { s.sl with pc := s.branchPc off ext } ∧ t.issue.out = .jumped ∧
      (∀ r l, l < 32 → t.vcell s.gid r l =
        if s.sl.run.getLsbD l then
          if r = s.vname v then { val := BitVec.ofNat 32 (s.nextPc.toNat * 8) }
          else if r = s.vname v + 1 then { val := BitVec.ofNat 32 (s.nextPc.toNat * 8 / 2 ^ 32) }
          else s.vcell s.gid r l
        else s.vcell s.gid r l) ∧
      t.mem = s.mem ∧ t.blks = s.blks ∧ (∀ j, t.sreg j = s.sreg j)) ∧
    (∀ l, s.Acts (.ret v) → on l → (∀ m, on m → l ≤ m) →
      exec (.ret v) s = .next
        (if (low l).toNat % 8 = 0 then
          jumps s (BitVec.ofNat 54 (((s.vcell s.gid (s.vname v + 1) l).val.toNat * 2 ^ 32 + (low l).toNat) % 2 ^ 57 / 8))
        else s.takeTrap { code := 10, info := (low l).toNat }))

/-- The direct, conditional and indirect branches, calls and returns. -/
def Obligations.Branches : Prop :=
  Claims.Branch ∧ Claims.ConditionalBranch ∧ Claims.IndirectBranch

/-- 18 R356, 03 R46: after BRX every running lane stands at its own destination: in the issuing slot, in a slot that was
free, or in a deferral entry of the issuing slot. -/
def Obligations.BranchDivides : Prop :=
  ∀ (s : State) (v : Nat), s.Acts (.brx v) → s.sl.occ = true →
    (∀ l, l < 32 → s.active.getLsbD l = true → (s.vcell s.gid (s.vname v) l).val.toNat % 8 = 0) →
    (∀ l, l < 32 → s.active.getLsbD l = true → s.sl.run.getLsbD l = true) →
    ∃ t ds, exec (.brx v) s = .next t ∧ (t.grp s.gid).defer = s.g.defer ++ ds ∧
      ∀ l, l < 32 → s.sl.run.getLsbD l = true →
        let dest := if s.active.getLsbD l then
          BitVec.ofNat 54 ((s.issue.addr / 2 ^ 32 * 2 ^ 32 + (s.vcell s.gid (s.vname v) l).val.toNat) / 8) else s.nextPc
        (∃ k, (k = s.issue.slot ∨ (s.slotAt s.gid k).occ = false) ∧ (t.slotAt s.gid k).occ = true ∧
          (t.slotAt s.gid k).pc = dest ∧ (t.slotAt s.gid k).run.getLsbD l = true) ∨
        (∃ d ∈ ds, d.owner = s.issue.slot ∧ d.pc = dest ∧ d.mask.getLsbD l = true)

/-- 03 R49, 19 R388 (JSET): the register is armed with EXPECTED the running lanes, FMT the split's %fmt, rank 0; the
ranks of registers armed more recently than its old arming go up by one. Nothing else changes. -/
def Sys2Proof.Claims.JoinSet : Prop :=
  ∀ (s : State) (j : Nat), s.Acts (.jset j) →
    ∃ t, exec (.jset j) s = .next t ∧ s.OnlyGroup t ∧ t.free = s.free ∧ t.g = { s.g with joins := t.g.joins } ∧
      t.join s.gid j = { armed := true, rank := 0, expected := s.sl.run, arrived := 0, fmt := s.sl.fmt } ∧
      ∀ m, m ≠ j →
        let old := s.join s.gid m
        t.join s.gid m =
          if old.armed && (!(s.join s.gid j).armed || old.rank < (s.join s.gid j).rank)
          then { old with rank := old.rank + 1 } else old

/-- 03 R50 to R52, 19 R388: JOIN. At a register that is not armed LOSTJ is set and the split goes on. At an armed one the lanes that
are expected are deposited and leave the split; the others stay in its slot. The lanes deposited complete the register
only when all it expects have arrived, and then resume at the bundle after this one, under its FMT: in the slot when it is
empty, else in the lowest free slot, else as a deferral entry. An emptied slot takes its newest deferral entry (R47). Of
two JOINs of one clock on the register the first only deposits (R51; the turns of a clock, log 14). The age stamp of a slot
is the one that it keeps (log 66). -/
def Sys2Proof.Claims.JoinArrive : Prop :=
  ∀ (s : State) (j : Nat), s.Acts (.join j) →
    let r := s.join s.gid j
    let run := s.sl.run
    let after := BitVec.ofNat 54 (s.issue.addr / 8) + 1
    let newest := fun (ds es : List Deferral) (d : Deferral) => s.sl.occ = true ∧ s.g.defer = ds ++ d :: es ∧
      d.owner = s.issue.slot ∧ ∀ e ∈ es, e.owner ≠ s.issue.slot
    let resumes := fun (t : State) (d : Deferral) =>
      t.sl.occ = true ∧ t.sl.pc = d.pc ∧ t.sl.run = d.mask ∧ t.sl.fmt = d.fmt ∧ t.sl.age = s.sl.age
    ∃ t, exec (.join j) s = .next t ∧ t.issue.out = .jumped ∧ t.mem = s.mem ∧ t.blks = s.blks ∧
      (t.grp s.gid).vregs = s.g.vregs ∧ (t.grp s.gid).sregs = s.g.sregs ∧ (∀ g, g ≠ s.gid → t.grp g = s.grp g) ∧
      (r.armed = false →
        t = ((s.updGrp s.gid fun g => { g with gstat := g.gstat ||| 1 }).updSl fun sl =>
          { sl with pc := s.nextPc }).setOut .jumped) ∧
      (r.armed = true → run &&& r.expected ≠ 0 → r.arrived ||| (run &&& r.expected) ≠ r.expected →
        t.join s.gid j =
          { r with arrived := r.arrived ||| (run &&& r.expected), dpc := BitVec.ofNat 54 (s.issue.addr / 8) } ∧
        (run &&& ~~~r.expected ≠ 0 → t.sl = { s.sl with run := run &&& ~~~r.expected, pc := s.nextPc }) ∧
        (run &&& ~~~r.expected = 0 → (∀ d ∈ s.g.defer, d.owner ≠ s.issue.slot) → t.sl.occ = false ∧ t.sl.age = s.sl.age) ∧
        (∀ ds es d, run &&& ~~~r.expected = 0 → newest ds es d → resumes t d ∧ (t.grp s.gid).defer = ds ++ es)) ∧
      (r.armed = true → run &&& r.expected ≠ 0 → s.issue.joins = 1 →
        t.join s.gid j =
          { r with arrived := r.arrived ||| (run &&& r.expected), dpc := BitVec.ofNat 54 (s.issue.addr / 8) }) ∧
      (r.armed = true → run &&& r.expected ≠ 0 → s.issue.joins ≠ 1 → r.arrived ||| (run &&& r.expected) = r.expected →
        run &&& ~~~r.expected = 0 → (∀ d ∈ s.g.defer, d.owner ≠ s.issue.slot) →
        (t.join s.gid j).armed = false ∧ t.sl.occ = true ∧ t.sl.run = r.expected ∧
        t.sl.pc = after ∧ t.sl.fmt = r.fmt ∧ t.sl.wait = .ready) ∧
      (∀ ds es d, r.armed = true → run &&& r.expected ≠ 0 → s.issue.joins ≠ 1 →
        r.arrived ||| (run &&& r.expected) = r.expected → run &&& ~~~r.expected = 0 → newest ds es d →
        (t.join s.gid j).armed = false ∧ resumes t d ∧
        (∀ m rest, s.freeSlots s.gid = m :: rest → (t.grp s.gid).defer = ds ++ es ∧
          t.slotAt s.gid m = { age := s.sl.age, occ := true, pc := after, run := r.expected, fmt := r.fmt }) ∧
        (s.freeSlots s.gid = [] → (t.grp s.gid).defer =
          ds ++ es ++ [{ owner := s.issue.slot, pc := after, mask := r.expected, fmt := r.fmt }]))

/-- JSET and JOIN. -/
def Obligations.Joins : Prop :=
  Claims.JoinSet ∧ Claims.JoinArrive

/-- 18 R371, 03 R47: EXIT ends the Active lanes. A split that keeps lanes goes on with the following bundle; an emptied slot
takes its newest deferral entry, with its PC, mask and %fmt, or becomes free. The slot keeps its age stamp (log 66). -/
def Sys2Proof.Claims.Exit : Prop :=
  ∀ s : State, s.Acts .exit →
    let rest := s.sl.run &&& ~~~s.active
    ∃ t, exec .exit s = .next t ∧ t.issue.out = .jumped ∧ (t.grp s.gid).ended = s.g.ended ||| s.active ∧
      (t.grp s.gid).vregs = s.g.vregs ∧ (t.grp s.gid).joins = s.g.joins ∧
      (rest ≠ 0 → s.sl.occ = true → s.g.par = none → s.g.ended ||| s.active ≠ -1 →
        t.sl = { s.sl with run := rest, pc := s.nextPc } ∧ t.blks = s.blks ∧
          ∀ g, g ≠ s.gid → t.grp g = s.grp g) ∧
      (rest = 0 → s.g.par = none → (∀ d ∈ s.g.defer, d.owner ≠ s.issue.slot) → t.sl = { age := s.sl.age }) ∧
      (∀ ds es d, rest = 0 → s.g.par = none → s.g.defer = ds ++ d :: es → d.owner = s.issue.slot →
        (∀ e ∈ es, e.owner ≠ s.issue.slot) →
        t.sl.occ = true ∧ t.sl.pc = d.pc ∧ t.sl.run = d.mask ∧ t.sl.fmt = d.fmt ∧ t.sl.age = s.sl.age ∧
          (d.wt = 0 → t.sl.wait = .ready) ∧ (t.grp s.gid).defer = ds ++ es)

/-- 20 R423, 04 Table 4.3: REP sets the split's repetition state; its body begins with the following bundle. -/
def Sys2Proof.Claims.Repeat : Prop :=
  ∀ (s : State) (cnt len stride floor : Nat), s.Acts (.rep cnt len stride floor) →
    ∃ t, exec (.rep cnt len stride floor) s = .next t ∧ t.issue.out = .jumped ∧
      t.sl = { s.sl with act := true, pass := 0, idx := 0, pc := s.nextPc, repBody := s.nextPc, repCnt := cnt + 1,
                         repLen := len + 1, repStride := stride, repFloor := floor } ∧
      s.OnlyGroup { t with issue := s.issue } ∧ t.g = { s.g with slots := t.g.slots } ∧
      ∀ k, k ≠ s.issue.slot → t.slotAt s.gid k = s.slotAt s.gid k

/-- EXIT and REP. -/
def Obligations.ExitAndRepeat : Prop :=
  Claims.Exit ∧ Claims.Repeat

/-- 15 R288 and Tables 15.1, 15.2; 18 R350, 20 R444: TRAP and BKPT take their traps. %cause gets the code, the slot and,
for TRAP, the code of the word; %epc gets the address of the following bundle; the split goes on at the context's
TVEC. -/
def Sys2Proof.Claims.SoftwareTrap : Prop :=
  ∀ (s : State) (code : BitVec 16),
    let tvec := (s.ctx s.ctxId).tvec
    s.g.cause.getLsbD 63 = false → tvec ≠ 0 →
      (s.Acts (.trap code) → ∃ t, exec (.trap code) s = .next t ∧
        t.g.cause = BitVec.ofNat 64 (2 ^ 63 + s.issue.slot * 2 ^ 61 + 15 * 2 ^ 48 + code.toNat) ∧
        t.g.epc = BitVec.ofNat 64 ((s.issue.addr + 8) % 2 ^ 57) ∧
        t.sl = { s.sl with pc := BitVec.ofNat 54 (tvec / 8) } ∧ t.issue.out = .trapped ∧
        t.g = { s.g with cause := t.g.cause, epc := t.g.epc, slots := t.g.slots } ∧
        (∀ k, k ≠ s.issue.slot → t.slotAt s.gid k = s.slotAt s.gid k) ∧
        (∀ g, g ≠ s.gid → t.grp g = s.grp g) ∧ t.mem = s.mem ∧ t.blks = s.blks) ∧
      (s.Acts .bkpt → ∃ t, exec .bkpt s = .next t ∧
        t.g.cause = BitVec.ofNat 64 (2 ^ 63 + s.issue.slot * 2 ^ 61 + 16 * 2 ^ 48) ∧
        t.g.epc = BitVec.ofNat 64 ((s.issue.addr + 8) % 2 ^ 57) ∧
        t.sl = { s.sl with pc := BitVec.ofNat 54 (tvec / 8) } ∧ t.issue.out = .trapped ∧
        t.g = { s.g with cause := t.g.cause, epc := t.g.epc, slots := t.g.slots } ∧
        (∀ k, k ≠ s.issue.slot → t.slotAt s.gid k = s.slotAt s.gid k) ∧
        (∀ g, g ≠ s.gid → t.grp g = s.grp g) ∧ t.mem = s.mem ∧ t.blks = s.blks)

/-- 15 R288 to R290: any trap of the issuing split. With ACT = 0 and TVEC ≠ 0 it is taken: %cause and %epc are written, the
split's PC is TVEC and its chain ends. With ACT = 1 a split other than the handler's is held at its bundle; the
handler's own is a double trap; TVEC = 0 makes the trap unhandled. Both end the context, or in firmware are a firmware
error. -/
def Sys2Proof.Claims.TrapEntry : Prop :=
  ∀ (s : State) (k : State.Cause),
    let act := s.g.cause.getLsbD 63
    let slot := s.g.cause.toNat / 2 ^ 61 % 4
    let tvec := (s.ctx s.ctxId).tvec
    let word := fun a : Nat => BitVec.ofNat 64
      (a * 2 ^ 63 + s.issue.slot * 2 ^ 61 + k.code * 2 ^ 48 + k.sub * 2 ^ 40 + k.lane * 2 ^ 35 + k.info % 2 ^ 32)
    let pc := if k.following then s.issue.addr + 8 else s.issue.addr
    (act = false → tvec ≠ 0 →
      (s.takeTrap k).g.cause = word 1 ∧ (s.takeTrap k).g.epc = BitVec.ofNat 64 (pc % 2 ^ 57) ∧
      (s.takeTrap k).sl = { s.sl with pc := BitVec.ofNat 54 (tvec / 8) } ∧
      (∀ p, p ∈ (s.takeTrap k).ports → p.2.owner = some (s.gid, s.issue.slot) → False) ∧
      (s.takeTrap k).mem = s.mem ∧ (s.takeTrap k).g.vregs = s.g.vregs ∧ (s.takeTrap k).g.sregs = s.g.sregs) ∧
    (act = true → slot ≠ s.issue.slot →
      s.takeTrap k = (s.updSl fun sl => { sl with held := true }).setOut .stay) ∧
    (act = true → slot = s.issue.slot → (s.ctx s.ctxId).fw = false →
      s.takeTrap k = (s.endContext s.ctxId .double
        { cause := word 1, epc := pc, bid := some s.bid, group := s.issue.gid % 32, slot }).setOut .trapped) ∧
    (act = false → tvec = 0 → (s.ctx s.ctxId).fw = false →
      s.takeTrap k = (s.endContext s.ctxId .unhandled
        { cause := word 0, epc := pc, bid := some s.bid, group := s.issue.gid % 32, slot := s.issue.slot }).setOut .trapped) ∧
    ((s.ctx s.ctxId).fw = true → (act = true ∧ slot = s.issue.slot ∨ act = false ∧ tvec = 0) →
      (s.takeTrap k).dev.fwerr = true ∧ (s.takeTrap k).sl.held = true)

/-- 15 R288, R289, 18 R370: ERET with ACT = 1 clears ACT, sends the split to %epc and frees the splits held behind the
handler. A free slot keeps only its age stamp (log 66). -/
def Sys2Proof.Claims.TrapReturn : Prop :=
  ∀ s : State, s.Acts .eret → s.sl.occ = true → Tbl.wf {} s.g.slots = true →
    ∃ t, exec .eret s = .next t ∧ t.issue.out = .jumped ∧
      t.g.cause = s.g.cause &&& 0x7FFFFFFFFFFFFFFF ∧ t.g.epc = s.g.epc ∧
      t.sl = { s.sl with pc := s.g.epc.extractLsb' 3 54, held := false } ∧
      (∀ k, k ≠ s.issue.slot → t.slotAt s.gid k = if (s.slotAt s.gid k).occ then { s.slotAt s.gid k with held := false }
        else { age := (s.slotAt s.gid k).age }) ∧
      t.g = { s.g with cause := t.g.cause, slots := t.g.slots } ∧ (∀ g, g ≠ s.gid → t.grp g = s.grp g) ∧
      (∀ p, p ∈ t.ports → p.2.owner = some (s.gid, s.issue.slot) → False) ∧ t.mem = s.mem ∧ t.blks = s.blks

/-- TRAP, BKPT, the entry that every trap takes, and ERET. -/
def Obligations.Traps : Prop :=
  Claims.SoftwareTrap ∧ Claims.TrapEntry ∧ Claims.TrapReturn

/-! ### Scalar words -/

/-- 20 R426, R427, Table 20.2: the scalar words. Results wrap modulo 2^64; a shift takes all of b as its unsigned count. -/
def Obligations.ScalarWords : Prop :=
  ∀ (s : State) (d m : Nat) (x : SArg12) (y : SArg9) (c : SCond) (v : BitVec 17) (e : Word),
    let a := s.sreg m
    let b := match x with
      | .reg k => s.sreg k
      | .imm v => BitVec.ofInt 64 v.toInt
      | .ext w => BitVec.ofInt 64 w.toInt
    let b9 := match y with
      | .reg k => s.sreg k
      | .imm v => BitVec.ofInt 64 v.toInt
      | .ext w => BitVec.ofInt 64 w.toInt
    (s.GivesS (.sMov d m) d a) ∧ (s.GivesS (.sAdd d m x) d (a + b)) ∧ (s.GivesS (.sSub d m x) d (a - b)) ∧
    (s.GivesS (.sMul d m x) d (BitVec.ofNat 64 (a.toNat * b.toNat))) ∧ (s.GivesS (.sAnd d m x) d (a &&& b)) ∧
    (s.GivesS (.sOr d m x) d (a ||| b)) ∧ (s.GivesS (.sXor d m x) d (a ^^^ b)) ∧
    (s.GivesS (.sShl d m x) d (BitVec.ofNat 64 (if b.toNat < 64 then a.toNat * 2 ^ b.toNat else 0))) ∧
    (s.GivesS (.sShr d m x) d (BitVec.ofNat 64 (if b.toNat < 64 then a.toNat / 2 ^ b.toNat else 0))) ∧
    (s.GivesS (.sSra d m x) d
      (if b.toNat < 64 then BitVec.ofInt 64 (a.toInt / 2 ^ b.toNat) else if a.toInt < 0 then -1 else 0)) ∧
    (s.GivesS (.sCmp d m y c) d (if scmpRel c a b9 then 1 else 0)) ∧
    (s.GivesS (.sLi d false v none) d (BitVec.ofInt 64 v.toInt)) ∧
    (s.GivesS (.sLi d false v (some e)) d (BitVec.ofInt 64 e.toInt)) ∧
    (s.GivesS (.sLi d true v (some e)) d (BitVec.ofNat 64 (e.toNat * 2 ^ 32 + (s.sreg d).toNat % 2 ^ 32)))

/-- 20 R439: SXV reads the lane whether or not it is running, and clears the pair's tag; V is staggered and S is not. A
group that is not converged meets DIVSCALAR (5) among the checks of 15 R286; a word with MODE or bits [3:0] not zero, or with
LONE = 1, is no instruction. -/
def Obligations.SxvReads : Prop :=
  (∀ (s : State) (k v lane : Nat),
    (s.GivesS (.sxv k v lane) k (BitVec.ofNat 64 (s.vcur (s.vname v) lane).val.toNat)) ∧
    (s.converged s.gid = false → { code := 5 } ∈ s.issueCauses (.sxv k v lane)) ∧
    (s.converged s.gid = true → { code := 5 } ∉ s.issueCauses (.sxv k v lane))) ∧
  ∀ c x, Sys2Proof.fld c 23 8 = 0x1F → Sys2Proof.fld c 0 6 ≠ 0 ∨ Sys2Proof.fld c 31 1 = 1 → ∃ e, decodeC c x = .error e

/-- 20 R449: a lane of Active votes true when its register is not 0. ANY, ALL and BALLOT write their results. A group that
is not converged meets DIVSCALAR (5) among the checks of 15 R286; a word with MODE 3, LANE or bits [3:0] not zero, or with
LONE = 1, is no instruction. -/
def Obligations.VoteResults : Prop :=
  (∀ (s : State) (k v : Nat),
    let yes := fun l => s.active.getLsbD l = true ∧ (s.vcur (s.vname v) l).val ≠ 0
    ((∃ l, l < 32 ∧ yes l) → s.GivesS (.vote .any k v) k 1) ∧
    ((∀ l, l < 32 → ¬ yes l) → s.GivesS (.vote .any k v) k 0) ∧
    ((∀ l, l < 32 → s.active.getLsbD l = true → yes l) → s.GivesS (.vote .all k v) k 1) ∧
    ((∃ l, l < 32 ∧ s.active.getLsbD l = true ∧ ¬ yes l) → s.GivesS (.vote .all k v) k 0) ∧
    (∃ m : Quad, (∀ l, l < 64 → (m.getLsbD l = true ↔ l < 32 ∧ yes l)) ∧ s.GivesS (.vote .ballot k v) k m) ∧
    (∀ m, s.converged s.gid = false → { code := 5 } ∈ s.issueCauses (.vote m k v))) ∧
  ∀ c x, Sys2Proof.fld c 23 8 = 0x20 →
    Sys2Proof.fld c 4 2 = 3 ∨ Sys2Proof.fld c 6 5 ≠ 0 ∨ Sys2Proof.fld c 0 4 ≠ 0 ∨ Sys2Proof.fld c 31 1 = 1 →
    ∃ e, decodeC c x = .error e

/-- 20 R448: VBC copies the low word of an s-register to the Active lanes; no latch is written. -/
def Sys2Proof.Claims.Broadcast : Prop :=
  ∀ (s : State) (v k : Nat), s.Acts (.vbc v k) →
    ∃ t, exec (.vbc v k) s = .next t ∧
      s.RegTakes t (s.vname v) s.issue.mm (fun _ => BitVec.ofNat 32 (s.sreg k).toNat) ∧ s.OnlyRegs t [s.vname v]

/-- 04 R84, R85, Table 4.7, 20 R429: S.RSR and S.WSR of every special register. A register of split scope is the
issuing split's; reserved bits of %fmt, %gstat and %epc are not written. %swapthresh reads SWAPT as it stands (log 28), and
S.WSR ignores its immediate where it takes a register (log 85). -/
def Sys2Proof.Claims.SpecialRegisters : Prop :=
  ∀ (s : State) (k : Nat) (v : Quad),
    (s.GivesS (.sRsr k 0x00) k (BitVec.ofNat 64 (s.ctx s.ctxId).swapt)) ∧
    (s.GivesS (.sRsr k 0x01) k (BitVec.ofNat 64 (s.gid % 32))) ∧
    (s.GivesS (.sRsr k 0x02) k (BitVec.ofNat 64 s.b.no)) ∧
    (s.GivesS (.sRsr k 0x03) k (BitVec.ofNat 64 (s.b.no / (s.b.desc.gang + 1)))) ∧
    (s.GivesS (.sRsr k 0x04) k (BitVec.ofNat 64 (s.b.no % (s.b.desc.gang + 1)))) ∧
    (s.GivesS (.sRsr k 0x05) k (BitVec.ofNat 64 (s.logicalCore s.core))) ∧
    (s.GivesS (.sRsr k 0x06) k (BitVec.ofNat 64 s.sl.fmt.toNat)) ∧
    (s.GivesS (.sRsr k 0x07) k (BitVec.ofNat 64 s.g.satf.toNat)) ∧
    (s.GivesS (.sRsr k 0x08) k s.g.gstat) ∧ (s.GivesS (.sRsr k 0x09) k s.g.cause) ∧
    (s.GivesS (.sRsr k 0x0A) k s.g.epc) ∧
    (s.GivesS (.sRsr k 0x0B) k
      (BitVec.ofNat 64 (s.sl.act.toNat * 2 ^ 19 + s.sl.idx % 8 * 2 ^ 16 + s.sl.pass % 256 * 2 ^ 8))) ∧
    (s.GivesS (.sRsr k 0x0D) k (BitVec.ofNat 64 s.g.opthr.toNat)) ∧
    (k % 2 = 0 → s.Acts (.sRsr k 0x0C) → ∃ t, exec (.sRsr k 0x0C) s = .next t ∧
      t.pairCap (k / 2) = scrCap s.b.desc.scr ∧ s.OnlyScalars t [k, k + 1]) ∧
    (∀ w : WsrArg, (match w with
        | .reg r _ => v = s.sreg r
        | .imm i => v.toNat = i.toNat
        | .ext e => v.toNat = e.toNat) →
      (s.Acts (.sWsr 0x06 w) → exec (.sWsr 0x06 w) s =
        .next (s.updSl fun sl => { sl with fmt := BitVec.ofNat 32 (v.toNat % 4 + v.toNat / 2 ^ 7 % 2 * 2 ^ 7) })) ∧
      (s.Acts (.sWsr 0x07 w) → exec (.sWsr 0x07 w) s =
        .next (s.updGrp s.gid fun g => { g with satf := v.getLsbD 0 })) ∧
      (s.Acts (.sWsr 0x08 w) → exec (.sWsr 0x08 w) s =
        .next (s.updGrp s.gid fun g =>
          { g with gstat := BitVec.ofNat 64 (v.toNat % 2 + v.toNat / 2 ^ 4 % 8 * 2 ^ 4) })) ∧
      (s.Acts (.sWsr 0x0A w) → exec (.sWsr 0x0A w) s =
        .next (s.updGrp s.gid fun g => { g with epc := BitVec.ofNat 64 (v.toNat % 2 ^ 57 / 8 * 8) })) ∧
      (s.Acts (.sWsr 0x0D w) → exec (.sWsr 0x0D w) s =
        .next (s.updGrp s.gid fun g => { g with opthr := BitVec.ofNat 32 v.toNat })))

/-- VBC, S.RSR and S.WSR. -/
def Obligations.BroadcastAndSpecial : Prop :=
  Claims.Broadcast ∧ Claims.SpecialRegisters

/-! ### Barriers -/

/-- 18 R345: a barrier number at or above NBAR raises the illegal-instruction trap at issue; and after every update of a
word Check completes the phase when the arrivals expected have come and no bytes are pending. -/
def Obligations.BarrierCheck : Prop :=
  (∀ (s : State) (i : Instr) (b : Nat), i.barNo = some b → s.b.desc.nbar ≤ b → s.issue.checked = false →
    ∃ k : State.Cause, k.code = 1 ∧ exec i s = .next (s.takeIssueTrap k)) ∧
  (∀ (s : State) (bid n : Nat) (f : State.Bar → State.Bar),
    let w := f (State.Bar.ofWord (s.barWord bid n))
    (s.updBar bid n f).barWord bid n =
      (if w.exp ≠ 0 ∧ w.arr = w.exp ∧ w.pend = 0 then
        { w with phase := !w.phase, arr := 0, rema := false : State.Bar } else w).toWord) ∧
  (∀ (s : State) (bid n g k : Nat) (p : Bool) (f : State.Bar → State.Bar), g / 32 = bid →
    (s.slotAt g k).waitFor = .bar n p → State.phaseOf ((s.updBar bid n f).barWord bid n) ≠ p →
      (s.updBar bid n f).slotAt g k = { s.slotAt g k with wait := .ready, waitFor := .none })

/-- 18 R344, R346, R347: BAR.INIT and BAR.TX are one read-modify-write of the 64-bit word at scratchpad offset 8b, and
change no other byte of the scratchpad. -/
def Sys2Proof.Claims.BarrierUpdate : Prop :=
  ∀ (s : State) (b cnt sv : Nat) (ext : Option Word),
    let bytes := if sv < 24 then (s.sreg sv).toNat % 2 ^ 32 else (match ext with
      | some x => x.toNat
      | none => 0)
    let w := State.Bar.ofWord (s.barWord s.bid b)
    let keeps := fun t : State => t.mem = s.mem ∧ (t.grp s.gid).vregs = s.g.vregs ∧
      ∀ a, a < 8 * b ∨ 8 * b + 8 ≤ a → Tbl.get 0 (t.blk s.bid).scratch a = Tbl.get 0 (s.blk s.bid).scratch a
    (s.Acts (.barInit b cnt sv ext) → ∃ t, exec (.barInit b cnt sv ext) s = .next t ∧ keeps t ∧
      t.barWord s.bid b = (State.Bar.check
        (if w.exp = 0 then
          { w with arr := if cnt < w.arr then cnt else w.arr, exc := w.exc || decide (cnt < w.arr),
                   pend := (w.pend + bytes) % 2 ^ 32, exp := cnt, init := true }
        else { w with arr := 0, pend := bytes % 2 ^ 32, rema := false, exp := cnt, init := true })).toWord) ∧
    (s.Acts (.barTx b sv ext) → ∃ t, exec (.barTx b sv ext) s = .next t ∧ keeps t ∧
      t.barWord s.bid b = (State.Bar.check { w with pend := (w.pend + bytes) % 2 ^ 32 }).toWord)

/-- 18 R348, R349, 03 R57: arrivals and waits. With no reduction of the block on its way, the context without reduction
faults and no record of another identity, the Active lanes join the record; when the record and the ended lanes cover
the group the arrival counts (BAR.REM at the named rank) and the record clears. BAR.ARW then waits for the phase to
change, BAR.WAIT waits while PHASE is P. The arrival of BAR.REM is under way until it reaches its block (log 90), where it
counts; a block that is stopped logs it (09 R196, R201). -/
def Sys2Proof.Claims.BarrierArrive : Prop :=
  ∀ (s : State) (b k : Nat), s.Accepted →
    (let free := fun rem => ∀ r, s.g.par = some r → r.bar = b ∧ r.rem = rem
     let mask := s.active ||| (match s.g.par with
       | some r => r.mask
       | none => 0)
     let all := mask ||| s.g.ended = -1
     let record := fun rem : Option Nat =>
       (s.publish s.gid (if rem.isSome then 2 else 1)).updGrp s.gid fun g => { g with par := some { bar := b, rem, mask } }
     let waits := fun t : State => t.updSl fun sl => { sl with wait := .barrier, waitFor := .arw b }
     (s.Acts (.barArv b) → free none → ¬ all → exec (.barArv b) s = .next (record none)) ∧
     (s.Acts (.barArw b) → free none → ¬ all → exec (.barArw b) s = .next (waits (record none))) ∧
     (s.Acts (.barRem b k) → free (some k) → ¬ all → s.peerCause k = none →
       exec (.barRem b k) s = .next (record (some k))) ∧
     (s.Acts (.barRem b k) → free (some k) → all → s.peerCause k = none →
       ∃ t, exec (.barRem b k) s = .next t ∧ (t.grp s.gid).par = none ∧ t.blks = s.blks ∧
         t.arrivals = s.arrivals ++ [{ bid := s.b.gangIds.getD k s.bid, bar := b, src := s.rankOf s.bid }]) ∧
     (s.Acts (.barArv b) → free none → all → (s.blk s.bid).phase = .resident → (s.blk s.bid).stopped = false →
       ∃ t, exec (.barArv b) s = .next t ∧ (t.grp s.gid).par = none ∧
         t.barWord s.bid b = (State.Bar.check
           (let w := State.Bar.ofWord (s.barWord s.bid b)
            { w with arr := (w.arr + 1) % 4096 })).toWord) ∧
     (s.Acts (.barArw b) → free none → all → (s.blk s.bid).phase = .resident → (s.blk s.bid).stopped = false →
       ∃ t, exec (.barArw b) s = .next t ∧ (t.grp s.gid).par = none ∧
         (State.phaseOf (t.barWord s.bid b) = State.phaseOf (s.barWord s.bid b) →
           t.sl.waitFor = .bar b (State.phaseOf (s.barWord s.bid b))) ∧
         (State.phaseOf (t.barWord s.bid b) ≠ State.phaseOf (s.barWord s.bid b) →
           t.sl.waitFor = .none ∧ t.sl.wait = .ready))) ∧
    (s.Acts (.barArv b) → (∃ r, s.g.par = some r ∧ (r.bar ≠ b ∨ r.rem ≠ none)) →
      exec (.barArv b) s = .next (((s.publish s.gid 1).updSl fun sl => { sl with wait := .barrier, waitFor := .record }).setOut .stay)) ∧
    (s.Acts (.barRem b k) → s.b.desc.gang < k →
      exec (.barRem b k) s = .next (s.takeTrap { code := 12, sub := 1, info := k })) ∧
    (∀ p, s.Acts (.barWait b p) → exec (.barWait b p) s =
      .next (if State.phaseOf (s.barWord s.bid b) = p
        then s.updSl fun sl => { sl with wait := .barrier, waitFor := .bar b p } else s)) ∧
    (∀ i x, s.arrivals[i]? = some x → Tbl.has s.blks x.bid = true → (s.blk x.bid).phase = .resident →
      let u := s.arrivalTurn i
      u.arrivals = s.arrivals.eraseIdx i ∧
      ((s.blk x.bid).stopped = false → u.barWord x.bid x.bar = (State.Bar.check
        (let w := State.Bar.ofWord (s.barWord x.bid x.bar)
         { w with arr := (w.arr + 1) % 4096, rema := true })).toWord) ∧
      ((s.blk x.bid).stopped = true → (s.blk x.bid).absLog.length < 1024 → (u.blk x.bid).scratch = (s.blk x.bid).scratch ∧
        (u.blk x.bid).absLog =
          (s.blk x.bid).absLog ++ [{ charge := false, bar := x.bar, src := x.src, count := 1, bytes := 1 }]))

/-- What an arrival does to a barrier word and to the split. -/
def Obligations.Barriers : Prop :=
  Claims.BarrierUpdate ∧ Claims.BarrierArrive

/-- 19 R376, 07 R136, R156, 08 R170, 06 R115: a FENCE with nothing to wait for completes. It is a release and an acquire: it
changes only which writes on the way it orders, and at DEVICE or SYSTEM scope it empties the instruction caches (all of
them: log 33). A FENCE that goes on leaves no reduction of its block unaccepted. At SYSTEM scope it waits for the group's
writes to the paired card; while the context has reduction faults logged the split is held at it. -/
def Obligations.Fence : Prop :=
  ∀ (s : State) (scope : Nat), s.Acts (.fence scope) →
    let icache := if scope < 3 then s.icache else []
    (s.pending = [] → s.Accepted → exec (.fence scope) s = .next { s with icache }) ∧
    (s.Accepted → scope ≠ 4 ∨ s.Released → ∃ t, exec (.fence scope) s = .next t ∧
      t = { s with pending := t.pending, icache } ∧
      t.pending.map (fun p => (p.id, p.tgt, p.gid, p.write, p.red)) = s.pending.map (fun p => (p.id, p.tgt, p.gid, p.write, p.red))) ∧
    (∃ t, exec (.fence scope) s = .next t ∧ (t.issue.out ≠ .stay →
      (∀ r ∈ t.farSent, r.bid ≠ s.bid) ∧ ∀ p ∈ t.pending, p.red = none ∨ p.gid / 32 ≠ s.bid)) ∧
    (s.Accepted → scope = 4 → (∃ p ∈ s.pending, s.gid ∈ p.seen) → exec (.fence scope) s = .next (s.setOut .stay)) ∧
    ((∀ r ∈ s.farSent, r.bid ≠ s.bid) → (s.ctx s.ctxId).rfcount ≠ 0 → exec (.fence scope) s =
      .next ((s.updSl fun sl => { sl with wait := .parked, parked := some { rflog := true } }).setOut .stay))

/-! ### Capabilities -/

/-- 18 R360: the fields and tags that CAP.BND, CAP.PRM, CAP.OFS and CAP.TST compute. The base of CAP.BND is taken
modulo 2^57, the width of its field; where no exponent serves, E and M are free (log 26). -/
def Obligations.CapResults : Prop :=
  ∀ (c : Cap) (x o e : Nat) (y : Int),
    let valid := c.tag = true ∧ c.resv = 0 ∧ c.exp ≤ 47
    (let r := capBnd c x o
     r.base = (c.base + c.offset) % 2 ^ 57 ∧ r.offset = 0 ∧ r.perms = c.perms ∧ r.resv = c.resv ∧
     (r.tag = true → valid ∧ x ≤ r.len ∧ c.offset + r.len ≤ c.len) ∧
     (e ≤ 47 → (x + 2 ^ e - 1) / 2 ^ e ≤ 1023 → (∀ f, f < e → 1023 < (x + 2 ^ f - 1) / 2 ^ f) →
       r.exp = e ∧ r.mant = (x + 2 ^ e - 1) / 2 ^ e ∧ (r.tag = true ↔ valid ∧ c.offset + r.len ≤ c.len))) ∧
    (let r := capPrm c x
     r = { bits := r.bits, tag := decide valid } ∧ r.base = c.base ∧ r.offset = c.offset ∧ r.len = c.len ∧
     r.scratchref = c.scratchref ∧ ∀ i, i < 9 → r.perms.testBit i = (c.perms.testBit i && x.testBit i)) ∧
    (let r := capOfs c y
     r.base = c.base ∧ (r.offset : Int) = (c.offset + y) % 2 ^ 41 ∧ r.exp = c.exp ∧ r.mant = c.mant ∧
     r.perms = c.perms ∧ r.resv = c.resv ∧ (r.tag = true ↔ valid ∧ 0 ≤ c.offset + y ∧ c.offset + y < 2 ^ 41)) ∧
    (capTst c = true ↔ valid ∧ c.offset ≤ c.mant * 2 ^ c.exp)

/-- 18 R359, R360: the CAP.* words at a quad destination. Each Active lane takes the capability computed from its own
source; the four registers carry its bits and its tag, and nothing but that quad changes. -/
def Sys2Proof.Claims.CapQuads : Prop :=
  ∀ (s : State) (o : CapOp), o.dk = false → o.d < 30 →
    let takes := fun (t : State) (f : Nat → Cap) =>
      (∀ i l, i < 4 → l < 32 → s.active.getLsbD l = true →
        t.vcell s.gid (4 * o.d + i) l = { val := (f l).bits.extractLsb' (32 * i) 32, tag := (f l).tag }) ∧
      (∀ i l, i < 4 → l < 32 → s.sl.run.getLsbD l = false → s.active.getLsbD l = false →
        t.vcell s.gid (4 * o.d + i) l = s.vcell s.gid (4 * o.d + i) l) ∧
      s.OnlyRegs t [4 * o.d, 4 * o.d + 1, 4 * o.d + 2, 4 * o.d + 3]
    (s.Acts (.capBnd o) → ∃ (t : State) (w : Nat → Nat), exec (.capBnd o) s = .next t ∧
      takes t fun l => capBnd (s.capSrc o l) (s.capV o l).toNat (w l)) ∧
    (s.Acts (.capPrm o) → ∃ t, exec (.capPrm o) s = .next t ∧
      takes t fun l => capPrm (s.capSrc o l) (s.capV o l).toNat) ∧
    (s.Acts (.capOfs o) → ∃ t, exec (.capOfs o) s = .next t ∧ takes t fun l => capOfs (s.capSrc o l) (s.capVs o l)) ∧
    (∀ f, s.Acts (.capGet o f) → ∃ t, exec (.capGet o f) s = .next t ∧ s.OnlyRegs t [s.vname o.v] ∧
      s.RegTakes t (s.vname o.v) s.issue.mm fun l => BitVec.ofNat 32 (match f with
        | 0 => (s.capSrc o l).base
        | 1 => (s.capSrc o l).offset
        | 2 => min (s.capSrc o l).len 0xFFFFFFFF
        | 3 => (s.capSrc o l).perms
        | 4 => (s.capSrc o l).base + (s.capSrc o l).offset
        | _ => (s.capSrc o l).tag.toNat)) ∧
    (s.Acts (.capTst o) → ∃ t, exec (.capTst o) s = .next t ∧ s.OnlyRegs t [s.vname o.v] ∧
      s.RegTakes t (s.vname o.v) s.issue.mm fun l => if capTst (s.capSrc o l) then 1 else 0)

/-- 18 R359, R360: the CAP.* words at an s-pair or s-register, once for the split; a quad source is read in the lowest lane
of Active. -/
def Sys2Proof.Claims.CapPairs : Prop :=
  ∀ (s : State) (o : CapOp) (l : Nat), o.dk = true → o.d < 12 → l < 32 → s.active.getLsbD l = true →
    (∀ m, m < l → s.active.getLsbD m = false) →
    let c := s.capSrc o l
    let gives := fun (i : Instr) (r : Nat → Cap) =>
      s.Acts i → ∃ t w, exec i s = .next t ∧ t.pairCap o.d = r w ∧ s.OnlyScalars t [2 * o.d, 2 * o.d + 1]
    (gives (.capBnd o) fun w => capBnd c (s.sreg (o.v / 4)).toNat w) ∧
    (gives (.capPrm o) fun _ => capPrm c (s.sreg (o.v / 4)).toNat) ∧
    (gives (.capOfs o) fun _ => capOfs c (s.sreg (o.v / 4)).toInt) ∧
    (s.GivesS (.capGet o 0) (o.v / 4) (BitVec.ofNat 64 c.base)) ∧
    (s.GivesS (.capGet o 1) (o.v / 4) (BitVec.ofNat 64 c.offset)) ∧
    (s.GivesS (.capGet o 2) (o.v / 4) (BitVec.ofNat 64 c.len)) ∧
    (s.GivesS (.capGet o 3) (o.v / 4) (BitVec.ofNat 64 c.perms)) ∧
    (s.GivesS (.capGet o 4) (o.v / 4) (BitVec.ofNat 64 (c.base + c.offset))) ∧
    (s.GivesS (.capGet o 5) (o.v / 4) (BitVec.ofNat 64 c.tag.toNat)) ∧
    (s.GivesS (.capTst o) (o.v / 4) (if capTst c then 1 else 0))

/-- The capability words on quads of vector registers and on pairs of s-registers. -/
def Obligations.Capabilities : Prop :=
  Claims.CapQuads ∧ Claims.CapPairs

/-- 04 R76 to R79, 18 R360: a capability derived by CAP.BND, CAP.PRM or CAP.OFS gives no access that its source does not
give: what it admits at any offset, its source admits at the same address. The range of the source must end within the
2^57 bytes of the address space, and the range of what is derived then does. -/
def Obligations.CapMonotone : Prop :=
  ∀ (c d : Cap) (scratch : Bool) (eo : Int) (size perm a : Nat), c.base + c.len ≤ 2 ^ 57 → 0 < size →
    ((∃ x o, d = capBnd c x o) ∨ (∃ x, d = capPrm c x) ∨ ∃ y, d = capOfs c y) → d.tag = true →
      d.base + d.len ≤ 2 ^ 57 ∧
      (checkCap scratch d eo size perm = .ok a → checkCap scratch c ((a : Int) - c.base) size perm = .ok a)

/-- 04 R79: CheckCap gives BASE + eo exactly when the capability is tagged and well formed, names the space of the access,
has the permissions and covers the bytes; otherwise it gives the subcode of the first test that fails. -/
def Obligations.CheckCap : Prop :=
  ∀ (scratch : Bool) (c : Cap) (eo : Int) (size perm : Nat),
    (∀ a, checkCap scratch c eo size perm = .ok a ↔
      c.tag = true ∧ c.resv = 0 ∧ c.exp ≤ 47 ∧ c.scratchref = scratch ∧ c.perms &&& perm = perm ∧ 0 ≤ eo ∧
        eo + size ≤ c.len ∧ c.base + eo + size ≤ 2 ^ 57 ∧ (a : Int) = c.base + eo) ∧
    (∀ k, checkCap scratch c eo size perm = .error k →
      (k = 1 ↔ c.tag = false) ∧ (k = 2 ↔ c.tag = true ∧ (c.resv ≠ 0 ∨ 47 < c.exp)) ∧
      (k = 3 ↔ c.tag = true ∧ c.resv = 0 ∧ c.exp ≤ 47 ∧ c.scratchref ≠ scratch) ∧
      (k = 4 ↔ c.tag = true ∧ c.resv = 0 ∧ c.exp ≤ 47 ∧ c.scratchref = scratch ∧ c.perms &&& perm ≠ perm) ∧
      (k = 1 ∨ k = 2 ∨ k = 3 ∨ k = 4 ∨ k = 5))

/-! ### Memory -/

/-- 07 R139, 06 R81: after a write at the home every byte written reads as written and every other byte as before. -/
def Sys2Proof.Claims.HomeWrite : Prop :=
  ∀ (s : State) (pa : Nat) (bs : List Byte) (a : Nat),
    (s.homeWrite pa bs).peek a = if pa ≤ a ∧ a < pa + bs.length then bs.getD (a - pa) 0 else s.peek a

/-- 06 R115, 08 R161, 07 R139: a core's store to a line that is no counter, through its L1: every byte stored reads as
stored and every other byte of memory as before; the caches stay in order. -/
def Sys2Proof.Claims.CacheStore : Prop :=
  ∀ (s : State) (core pa : Nat) (bs : List Byte), s.L1Ok → core < 152 → pa % 128 + bs.length ≤ 128 → bs ≠ [] →
    (s.dir (State.lineOf pa)).ctr = false →
      (s.l1Write core pa bs).L1Ok ∧
      ∀ a, (s.l1Write core pa bs).peek a = if pa ≤ a ∧ a < pa + bs.length then bs.getD (a - pa) 0 else s.peek a

/-- A write at the home and a store of an L1, as every reader sees them. -/
def Obligations.HomeAndCacheStores : Prop :=
  Claims.HomeWrite ∧ Claims.CacheStore

/-- 08 R157, R162 to R165: loads, own requests, write-backs, invalidations, an L1's eviction and a slice's leave the value of
every byte as it is. -/
def Obligations.CachesKeepValues : Prop :=
  ∀ (s : State) (core line a : Nat), s.L1Ok →
    (s.shareLine core line).peek a = s.peek a ∧ (s.ownLine core line).peek a = s.peek a ∧
    (s.cleanLine line).peek a = s.peek a ∧ (s.invalidate none line).peek a = s.peek a ∧
    (s.homeShare core line).peek a = s.peek a ∧ (s.cacheDrop core line).peek a = s.peek a ∧
    (s.evictLine core line).peek a = s.peek a ∧ (s.evictSlice line).peek a = s.peek a

/-- 15 R286, Table 15.2, 04 R79, R80, 06 R114: the checks of a per-lane memory word come before anything performs. The lowest
lane whose capability check fails traps with CAP (9), its subcode and the low 32 bits of its offset; then the lowest
misaligned lane traps with MISALIGN (10) and the low 32 bits of its address. MWATCH forgets what an earlier load of its lanes
noted. -/
def Sys2Proof.Claims.VectorChecks : Prop :=
  ∀ (s : State) (o : VmOp) (k : State.Cause) (as : List (Nat × Nat)) (l a : Nat), s.issue.replay = false → s.Released →
    -- a word with .REL or .AR releases first
    let rel := if o.ord < 2 then s else s.publish s.gid o.scope
    let bad := fun (u : State) (i : Instr) (n perm : Nat) =>
      (s.Acts i → s.laneAddrs false n perm o.sel 63 o.off o.ext s.active = .error k → exec i s = .next (u.takeTrap k)) ∧
      (s.Acts i → s.laneAddrs false n perm o.sel 63 o.off o.ext s.active = .ok as → misaligned n as = some (l, a) →
        exec i s = .next (u.takeTrap { code := 10, lane := l, info := a % 2 ^ 32 }))
    (∀ sz, bad s (.ld sz o) sz.bytes pLOAD) ∧ (∀ sz, bad s (.ldInv sz o) sz.bytes pLOAD) ∧
    (∀ sz, bad rel (.st sz o) sz.bytes pSTORE) ∧
    (∀ op z, bad rel (.atom op z o) (atomBytes z) (pLOAD + pSTORE + pATOMIC)) ∧
    (∀ op z, bad rel (.red op z o) (atomBytes z) (pSTORE + pATOMIC)) ∧
    bad (s.updSl fun sl => { sl with watching := [] }) (.mwatch o) 4 pLOAD ∧
    (s.sl.monitor = {} → bad s (.mwait o) 4 pLOAD)

/-- 15 R286, 18 R343, 19 R393, 20 R438, 06 R121: the same for a scratchpad word, through a capability of the scratchpad; then
a rank that the gang does not have or that has retired traps with PEER (12). -/
def Sys2Proof.Claims.ScratchChecks : Prop :=
  ∀ (s : State) (o : SpOp) (k : State.Cause) (as : List (Nat × Nat)) (l a : Nat), s.issue.replay = false →
    let bad := fun (i : Instr) (n perm : Nat) => s.Acts i →
      (s.laneAddrs true n perm o.sel 31 o.off o.ext s.active = .error k → exec i s = .next (s.takeTrap k)) ∧
      (s.laneAddrs true n perm o.sel 31 o.off o.ext s.active = .ok as → misaligned n as = some (l, a) →
        exec i s = .next (s.takeTrap { code := 10, lane := l, info := a % 2 ^ 32 })) ∧
      (s.laneAddrs true n perm o.sel 31 o.off o.ext s.active = .ok as → misaligned n as = none → o.peer = true →
        (s.b.desc.gang < o.rank → exec i s = .next (s.takeTrap { code := 12, sub := 1, info := o.rank })) ∧
        (o.rank ≤ s.b.desc.gang → (s.blk (s.b.gangIds.getD o.rank 0)).phase = .retired →
          exec i s = .next (s.takeTrap { code := 12, sub := 2, info := o.rank })))
    (∀ sz, bad (.lds sz o) sz.bytes pLOAD) ∧ (∀ sz, bad (.sts sz o) sz.bytes pSTORE) ∧
    ∀ op, bad (.atoms op o) 4 (pLOAD + pSTORE + pATOMIC)

/-- 04 R79, R80, Table 15.2: the trap of the first lane whose capability check fails, and the lowest misaligned lane. -/
def Sys2Proof.Claims.FirstFailure : Prop :=
  ∀ (s : State) (scratch : Bool) (n perm sel none_ off : Nat) (ext : Option Word) (m : LaneMask),
    let check := fun l => checkCap scratch (s.selCap sel l) (s.effOff sel none_ off ext l) n perm
    (∀ j, s.laneAddrs scratch n perm sel none_ off ext m = .error j →
      ∃ l, l < 32 ∧ m.getLsbD l = true ∧ j.code = 9 ∧ j.lane = l ∧ check l = .error j.sub ∧
        (j.info : Int) = s.effOff sel none_ off ext l % 2 ^ 32 ∧
        ∀ i, i < l → m.getLsbD i = true → ∃ b, check i = .ok b) ∧
    (∀ as, s.laneAddrs scratch n perm sel none_ off ext m = .ok as →
      (∀ l a, (l, a) ∈ as ↔ l < 32 ∧ m.getLsbD l = true ∧ check l = .ok a) ∧
      (∀ l a, misaligned n as = some (l, a) → (l, a) ∈ as ∧ a % n ≠ 0 ∧ ∀ p ∈ as, p.1 < l → p.2 % n = 0) ∧
      (misaligned n as = none ↔ ∀ p ∈ as, p.2 % n = 0))

/-- 04 R81, 19 R392, 20 R437: LDC and STC check each lane in turn, its alignment (subcode 6) with it. -/
def Sys2Proof.Claims.GranuleChecks : Prop :=
  ∀ (s : State) (o : VmOp) (l sub : Nat), s.issue.replay = false → s.Released → l < 32 → s.active.getLsbD l = true →
    let rel := if o.ord < 2 then s else s.publish s.gid o.scope
    let fails := fun (perm : Nat → Nat) (l sub : Nat) =>
      let check := checkCap false (s.selCap o.sel l) (s.effOff o.sel 63 o.off o.ext l) 16 (perm l)
      check = .error sub ∨ ∃ a, check = .ok a ∧ a % 16 ≠ 0 ∧ sub = 6
    let bad := fun (u : State) (i : Instr) (perm : Nat → Nat) =>
      s.Acts i → fails perm l sub → (∀ j c, j < l → s.active.getLsbD j = true → ¬ fails perm j c) → ∃ info : Nat,
        (info : Int) = s.effOff o.sel 63 o.off o.ext l % 2 ^ 32 ∧
        exec i s = .next (u.takeTrap { code := 9, sub, lane := l, info })
    bad s (.ldc o) (fun _ => pLOAD) ∧
    bad rel (.stc o) fun l => if (s.quadCap (o.data / 4) l).tag then pSTORE + pSTORECAP else pSTORE

/-- 20 R428, 19 R392: S.LD and LDC.SPAIR check the one address that the lowest Active lane's capability gives. The trap
concerns the split: its LANE is 0 (Table 15.2 as log 88 reads it). -/
def Sys2Proof.Claims.ScalarChecks : Prop :=
  ∀ (s : State) (o : SmOp) (m : Nat), s.issue.replay = false → m < 32 → s.active.getLsbD m = true →
    (∀ l, l < m → s.active.getLsbD l = false) →
    let eo := ((s.selCap o.sel m).offset : Int) + (if o.so = 31 then 0 else (s.sreg o.so).toInt) + match o.ext with
      | some x => x.toInt
      | none => 0
    let check := fun n => checkCap false (s.selCap o.sel m) eo n pLOAD
    ∀ i n, (∃ sz, sz < 4 ∧ i = .sLd sz o ∧ n = 2 ^ sz) ∨ i = .ldcSpair o ∧ n = 16 → s.Acts i →
      (∀ c, check n = .error c → ∃ info : Nat, (info : Int) = eo % 2 ^ 32 ∧
        exec i s = .next (s.takeTrap { code := 9, sub := c, info })) ∧
      (∀ a, check n = .ok a → a % n ≠ 0 → ∃ info : Nat, (info : Int) = eo % 2 ^ 32 ∧
        exec i s = .next (s.takeTrap
          (if n = 16 then { code := 9, sub := 6, info } else { code := 10, info := a % 2 ^ 32 })))

/-- The checks of every word that names memory or a scratchpad by a capability. -/
def Obligations.MemoryChecks : Prop :=
  Claims.VectorChecks ∧ Claims.ScratchChecks ∧ Claims.FirstFailure ∧ Claims.GranuleChecks ∧ Claims.ScalarChecks

/-- 19 R390, R391, Table 19.5: LD and LD.INV. Each Active lane takes the little-endian value of its bytes, extended to a
word as the size says, its tags cleared; no byte of memory changes. A counter line gives its home image. -/
def Sys2Proof.Claims.Load : Prop :=
  ∀ (s : State) (sz : LdSize) (o : VmOp) (as : List (Nat × Nat)) (pa : Nat → Nat), s.Quiet →
    s.laneAddrs false sz.bytes pLOAD o.sel 63 o.off o.ext s.active = .ok as → misaligned sz.bytes as = none →
    s.Hits .read sz.bytes as pa →
    let d := s.vname o.data
    let bytes := fun l =>
      if (s.dir (State.lineOf (pa l))).ctr then s.homeBytes (pa l) sz.bytes else s.peekBytes (pa l) sz.bytes
    let val := fun l => State.leNum (bytes l)
    let word := fun j l => match sz with
      | .bs => BitVec.ofInt 32 (BitVec.ofNat 8 (val l)).toInt
      | .hs => BitVec.ofInt 32 (BitVec.ofNat 16 (val l)).toInt
      | _ => BitVec.ofNat 32 (val l / 2 ^ (32 * j))
    let loads := fun i : Instr => s.Acts i → ∃ t, exec i s = .next t ∧
      (∀ j l, 4 * j < sz.bytes → l < 32 → s.active.getLsbD l = true →
        t.vcell s.gid (d + j) l = { val := word j l }) ∧
      (∀ r l, l < 32 → (∀ j, 4 * j < sz.bytes → r ≠ d + j) ∨ s.sl.run.getLsbD l = false ∧ s.active.getLsbD l = false →
        t.vcell s.gid r l = s.vcell s.gid r l) ∧
      (t.grp s.gid).sregs = s.g.sregs ∧ (t.grp s.gid).stags = s.g.stags ∧ t.blks = s.blks ∧
      ∀ a, t.peek a = s.peek a
    loads (.ld sz o) ∧ loads (.ldInv sz o)

/-- 19 R436: ST. Every byte that lanes store reads as some lane stored it, so as its lane stored it where the lanes'
bytes are apart; every other byte of memory reads as before, and no register changes. -/
def Sys2Proof.Claims.Store : Prop :=
  ∀ (s : State) (sz : StSize) (o : VmOp) (as : List (Nat × Nat)) (pa : Nat → Nat), s.Quiet → s.L1Ok → s.core < 152 →
    s.MayRelease o.ord →
    s.laneAddrs false sz.bytes pSTORE o.sel 63 o.off o.ext s.active = .ok as → misaligned sz.bytes as = none →
    s.Hits .write sz.bytes as pa → (∀ p ∈ as, (s.dir (State.lineOf (pa p.1))).ctr = false) →
    let on := fun l => l < 32 ∧ s.active.getLsbD l = true
    let byte := fun l i =>
      BitVec.ofNat 8 ((s.vcur (s.vname o.data + i / 4) l).val.toNat / 2 ^ (8 * (i % 4)))
    s.Acts (.st sz o) → ∃ t, exec (.st sz o) s = .next t ∧
      (∀ l i, on l → i < sz.bytes → ∃ m, on m ∧ pa m ≤ pa l + i ∧ pa l + i < pa m + sz.bytes ∧
        t.peek (pa l + i) = byte m (pa l + i - pa m)) ∧
      (∀ l i, on l → i < sz.bytes → (∀ m, on m → m ≠ l → State.Apart (pa l) (pa m) sz.bytes) →
        t.peek (pa l + i) = byte l i) ∧
      (∀ a, (∀ l, on l → a < pa l ∨ pa l + sz.bytes ≤ a) → t.peek a = s.peek a) ∧
      (t.grp s.gid).vregs = s.g.vregs ∧ (t.grp s.gid).sregs = s.g.sregs ∧ t.blks = s.blks

/-- 20 R428, 19 R392: S.LD zero-extends the bytes that the lowest Active lane's address names into the s-register;
LDC.SPAIR loads a capability into a pair. -/
def Sys2Proof.Claims.ScalarLoad : Prop :=
  ∀ (s : State) (sz : Nat) (o : SmOp) (a pa : Nat) (c : Cap), s.Quiet → (s.dir (State.lineOf pa)).ctr = false →
    let hit := fun n => s.Cached .read a 0 pa ∧ pa % n = 0 ∧
      s.blocked 0 pa n = false ∧ s.bad pa n = false
    (s.smAddr o (2 ^ sz) none = .ok (a, c) → sz < 4 → hit (2 ^ sz) → s.Acts (.sLd sz o) →
      ∃ t, exec (.sLd sz o) s = .next t ∧ t.sreg o.sd = BitVec.ofNat 64 (State.leNum (s.peekBytes pa (2 ^ sz))) ∧
        (∀ k, k ≠ o.sd → t.sreg k = s.sreg k) ∧ Tbl.get false t.g.stags (o.sd / 2) = false ∧
        (t.grp s.gid).vregs = s.g.vregs ∧ ∀ b, t.peek b = s.peek b) ∧
    (s.smAddr o 16 (some subALIGN) = .ok (a, c) → hit 16 → s.Acts (.ldcSpair o) →
      ∃ t, exec (.ldcSpair o) s = .next t ∧
        t.pairCap (o.sd / 2) = { bits := BitVec.ofNat 128 (State.leNum (s.peekBytes pa 16)),
                                 tag := c.perms &&& pLOADCAP != 0 && s.memTag pa } ∧
        (∀ k, k / 2 ≠ o.sd / 2 → t.sreg k = s.sreg k) ∧ (t.grp s.gid).vregs = s.g.vregs ∧ ∀ b, t.peek b = s.peek b)

/-- The vector and the scalar loads. -/
def Obligations.Loads : Prop :=
  Claims.Load ∧ Claims.ScalarLoad

/-- 04 R81, 19 R392, 20 R437: LDC gives each Active lane its granule with the tag, if the capability has LOADCAP; STC
stores a quad and its tag. With the lanes' granules apart each granule holds what its lane stored. -/
def Sys2Proof.Claims.CapabilityMemory : Prop :=
  ∀ (s : State) (o : VmOp) (as : List (Nat × Nat)) (pa : Nat → Nat), s.Quiet → o.data % 4 = 0 →
    (∀ p ∈ as, (s.dir (State.lineOf (pa p.1))).ctr = false) → misaligned 16 as = none →
    let on := fun l => l < 32 ∧ s.active.getLsbD l = true
    (s.laneAddrs false 16 pLOAD o.sel 63 o.off o.ext s.active = .ok as → s.Hits .read 16 as pa → s.Acts (.ldc o) →
      ∃ t, exec (.ldc o) s = .next t ∧ (∀ b, t.peek b = s.peek b) ∧
        (∀ i l, i < 4 → on l → t.vcell s.gid (o.data + i) l =
          { val := BitVec.ofNat 32 (State.leNum (s.peekBytes (pa l + 4 * i) 4)),
            tag := (s.selCap o.sel l).perms &&& pLOADCAP != 0 && s.memTag (pa l) }) ∧
        (∀ r l, l < 32 → r < o.data ∨ o.data + 4 ≤ r → t.vcell s.gid r l = s.vcell s.gid r l)) ∧
    (∀ perm, perm = pSTORE + pSTORECAP ∨ perm = pSTORE ∧ (∀ l, on l → (s.quadCap (o.data / 4) l).tag = false) →
      s.laneAddrs false 16 perm o.sel 63 o.off o.ext s.active = .ok as → s.Hits .write 16 as pa → s.L1Ok → s.core < 152 → s.MayRelease o.ord →
      (∀ l, on l → (s.quadCap (o.data / 4) l).tag = true → s.hasTags (pa l) = true) →
      (∀ l m, on l → on m → m ≠ l → State.Apart (pa l) (pa m) 16) → s.Acts (.stc o) →
      ∃ t, exec (.stc o) s = .next t ∧
        (∀ i l, i < 16 → on l → t.peek (pa l + i) = BitVec.ofNat 8 ((s.quadCap (o.data / 4) l).bits.toNat / 2 ^ (8 * i))) ∧
        (∀ l, on l → t.memTag (pa l) = (s.quadCap (o.data / 4) l).tag) ∧
        (∀ b, (∀ l, on l → b < pa l ∨ pa l + 16 ≤ b) → t.peek b = s.peek b) ∧
        (t.grp s.gid).vregs = s.g.vregs)

/-- The stores, and capabilities in memory. -/
def Obligations.Stores : Prop :=
  Claims.Store ∧ Claims.CapabilityMemory

/-- 18 R340, R341, Table 18.2: one lane's ATOM takes the old value and leaves the operation's result; no other byte of
memory changes. -/
def Sys2Proof.Claims.AtomOneLane : Prop :=
  ∀ (s : State) (op : AtomOp) (z : Bool) (o : VmOp) (l a pa : Nat), s.Quiet → s.L1Ok → s.core < 152 →
    s.MayRelease o.ord → s.OneLane l →
    let n := if z then 8 else 4
    let d := s.vname o.data
    s.laneAddrs false n (pLOAD + pSTORE + pATOMIC) o.sel 63 o.off o.ext s.active = .ok [(l, a)] → a % n = 0 →
    s.Hits .rmw n [(l, a)] (fun _ => pa) → (s.dir (State.lineOf pa)).ctr = false → s.Acts (.atom op z o) →
    let reg := fun k => (s.vcur (d + k) l).val.toNat
    let one := fun k => if z then reg k + 2 ^ 32 * reg (k + 1) else reg k
    let old := State.leNum (s.peekBytes pa n)
    let x := if op = .cas then one (n / 4) else one 0
    let new := (atomApply op z s.rm (BitVec.ofNat 64 old) (BitVec.ofNat 64 x) (BitVec.ofNat 64 (one 0))).toNat
    ∃ t, exec (.atom op z o) s = .next t ∧
      (∀ k, 4 * k < n → t.vcell s.gid (d + k) l = { val := BitVec.ofNat 32 (old / 2 ^ (32 * k)) }) ∧
      (∀ i, i < n → t.peek (pa + i) = BitVec.ofNat 8 (new / 2 ^ (8 * i))) ∧
      (∀ b, b < pa ∨ pa + n ≤ b → t.peek b = s.peek b) ∧
      (∀ r m, m < 32 → (m ≠ l ∧ s.sl.run.getLsbD m = false) ∨ (∀ k, 4 * k < n → r ≠ d + k) →
        t.vcell s.gid r m = s.vcell s.gid r m)

/-- 18 Table 18.2 by its rows: what each atomic operation computes on 32 and on 64 bits. FADD is one rounded exact sum; FMIN
and FMAX take the smaller and the larger number, −0 below +0, and the number where the other is a NaN (05 R93, R100). -/
def Sys2Proof.Claims.AtomicTable : Prop :=
  ∀ (m : RMode) (z : Bool) (old x c : Quad),
    let w := if z then 64 else 32
    let a := old.toNat % 2 ^ w
    let b := x.toNat % 2 ^ w
    let sg := fun v : Nat => if v < 2 ^ (w - 1) then (v : Int) else v - 2 ^ w
    let r := fun op => (atomApply op z m old x c).toNat
    r .add = (a + b) % 2 ^ w ∧ r .and = a &&& b ∧ r .or = a ||| b ∧ r .xor = a ^^^ b ∧
    sg (r .min) = min (sg a) (sg b) ∧ sg (r .max) = max (sg a) (sg b) ∧ r .umin = min a b ∧ r .umax = max a b ∧
    r .xchg = b ∧ r .cas = (if a = c.toNat % 2 ^ w then b else a) ∧
    (∀ op, op ≠ .fadd → op ≠ .fmin → op ≠ .fmax → r op < 2 ^ w) ∧
    (let f := if z then fp64 else fp32
     let p := f.decode a
     let q := f.decode b
     let nan := f.infBits + 2 ^ (f.fbits - 1)
     r .fadd = f.encode m (p.add m q) ∧
     (p.isNan = true → q.isNan = true → r .fmin = nan ∧ r .fmax = nan) ∧
     (p.isNan = true → q.isNan = false → r .fmin = b ∧ r .fmax = b) ∧
     (p.isNan = false → q.isNan = true → r .fmin = a ∧ r .fmax = a) ∧
     (p.isNan = false → q.isNan = false →
       (p.cmp q = .lt → r .fmin = a ∧ r .fmax = b) ∧ (p.cmp q = .gt → r .fmin = b ∧ r .fmax = a) ∧
       (p.cmp q = .eq → (p.sign = true → r .fmin = a ∧ r .fmax = b) ∧ (p.sign = false → r .fmin = b ∧ r .fmax = a))))

/-- Atomics on memory, and the table of their operations. -/
def Obligations.Atomics : Prop :=
  Claims.AtomOneLane ∧ Claims.AtomicTable

/-- 20 R421, 08 R168 and Table 8.4: one lane's RED. At GROUP, BLOCK or GANG scope, or on a line that the L1 owns, it is
performed at once; at a wider scope it goes to the home as a far reduction. No register changes. -/
def Sys2Proof.Claims.Reduction : Prop :=
  ∀ (s : State) (op : AtomOp) (z : Bool) (o : VmOp) (l a pa : Nat), s.Quiet → s.L1Ok → s.core < 152 →
    s.MayRelease o.ord → s.OneLane l →
    let n := if z then 8 else 4
    let d := s.vname o.data
    s.laneAddrs false n (pSTORE + pATOMIC) o.sel 63 o.off o.ext s.active = .ok [(l, a)] → a % n = 0 →
    s.Hits .rmw n [(l, a)] (fun _ => pa) → (s.dir (State.lineOf pa)).ctr = false → s.Acts (.red op z o) →
    let x := if z then (s.vcur d l).val.toNat + 2 ^ 32 * (s.vcur (d + 1) l).val.toNat else (s.vcur d l).val.toNat
    let line := State.lineOf pa
    let new := (atomApply op z s.rm (BitVec.ofNat 64 (State.leNum (s.peekBytes pa n))) (BitVec.ofNat 64 x) 0).toNat
    ∃ t, exec (.red op z o) s = .next t ∧ (t.grp s.gid).vregs = s.g.vregs ∧ t.blks = s.blks ∧
      (o.scope < 3 ∨ (s.l1 (s.l1Core s.core line) line).owned = true →
        (∀ i, i < n → t.peek (pa + i) = BitVec.ofNat 8 (new / 2 ^ (8 * i))) ∧ t.farSent = [] ∧
        (∀ b, b < pa ∨ pa + n ≤ b → t.peek b = s.peek b)) ∧
      (3 ≤ o.scope → (s.l1 (s.l1Core s.core line) line).owned = false →
        (∀ b, t.peek b = s.peek b) ∧ ∃ r, t.farSent = [r] ∧ r.pa = pa ∧ r.op = op ∧ r.z = z ∧
          r.operand = BitVec.ofNat 64 x ∧ r.scope = o.scope ∧ r.bid = s.bid ∧ r.lane = l ∧ r.va = a)

/-- 19 R393, 20 R438, 18 R343: LDS, STS and ATOMS on the block's scratchpad, or with PEER on a gang member's. LDS gives
each Active lane its bytes; STS changes only the bytes its lanes name; one lane's ATOMS takes the old word and leaves
the operation's result. -/
def Obligations.Scratchpad : Prop :=
  ∀ (s : State) (o : SpOp) (sz : StSize) (op : AtomOp) (as : List (Nat × Nat)) (bid : Nat),
    s.issue.replay = false → s.issue.upTo = none → (o.peer = true → s.peerCause o.rank = none) → bid = s.spTarget o →
    s.MayRelease o.ord → (∀ i, Tbl.get false (s.blk bid).scrBad i = false) →
    let d := s.vname o.data
    let scr := fun (t : State) (a : Nat) => Tbl.get 0 (t.blk bid).scratch a
    let byte := fun l i => BitVec.ofNat 8 ((s.vcur (d + i / 4) l).val.toNat / 2 ^ (8 * (i % 4)))
    let addrs := fun (n perm : Nat) =>
      s.laneAddrs true n perm o.sel 31 o.off o.ext s.active = .ok as ∧ misaligned n as = none
    (addrs sz.bytes pLOAD → s.Acts (.lds sz o) → ∃ t, exec (.lds sz o) s = .next t ∧ t.blks = s.blks ∧ t.mem = s.mem ∧
      (∀ l a j, (l, a) ∈ as → 4 * j < sz.bytes → t.vcell s.gid (d + j) l =
        { val := BitVec.ofNat 32 (State.leNum (s.scrBytes bid a sz.bytes) / 2 ^ (32 * j)) }) ∧
      (∀ r l, l < 32 → (∀ j, 4 * j < sz.bytes → r ≠ d + j) ∨ s.sl.run.getLsbD l = false ∧ s.active.getLsbD l = false →
        t.vcell s.gid r l = s.vcell s.gid r l)) ∧
    (addrs sz.bytes pSTORE → s.Acts (.sts sz o) →
      ∃ t, exec (.sts sz o) s = .next t ∧ (t.grp s.gid).vregs = s.g.vregs ∧ t.mem = s.mem ∧
        (∀ l a i, (l, a) ∈ as → i < sz.bytes → (∀ p ∈ as, p.1 ≠ l → State.Apart a p.2 sz.bytes) →
          scr t (a + i) = byte l i) ∧
        (∀ b, (∀ p ∈ as, b < p.2 ∨ p.2 + sz.bytes ≤ b) → scr t b = scr s b) ∧
        (∀ b, b ≠ bid → t.blk b = s.blk b)) ∧
    (∀ l a, as = [(l, a)] → addrs 4 (pLOAD + pSTORE + pATOMIC) → s.Acts (.atoms op o) →
      let old := State.leNum (s.scrBytes bid a 4)
      let v := fun k => BitVec.ofNat 64 (s.vcur (d + k) l).val.toNat
      let new := (atomApply op false s.rm (BitVec.ofNat 64 old) (v (if op = .cas then 1 else 0)) (v 0)).toNat
      ∃ t, exec (.atoms op o) s = .next t ∧ t.vcell s.gid d l = { val := BitVec.ofNat 32 old } ∧
        (∀ i, i < 4 → scr t (a + i) = BitVec.ofNat 8 (new / 2 ^ (8 * i))) ∧
        (∀ b, b < a ∨ a + 4 ≤ b → scr t b = scr s b) ∧ (∀ b, b ≠ bid → t.blk b = s.blk b) ∧ t.mem = s.mem)

/-- 18 R341, R343: what lanes `as` (lane, address) that add to one word leave in the registers: the word ends at the old value
plus the sum of their operands; in some order of the lanes each receives the old value plus the operands before its own; and
nothing but their destination register changes. -/
def Sys2Proof.Claims.AddsSerially (s t : State) (d old new : Nat) (as : List (Nat × Nat)) : Prop :=
  let x := fun l => (s.vcur d l).val.toNat
  new = (old + (as.map fun p => x p.1).sum) % 2 ^ 32 ∧
  (∃ order : List Nat, order.Perm (as.map (·.1)) ∧ ∀ before l after, order = before ++ l :: after →
    t.vcell s.gid d l = { val := BitVec.ofNat 32 (old + (before.map x).sum) }) ∧
  ∀ r l, l < 32 → r ≠ d ∨ s.sl.run.getLsbD l = false ∧ s.active.getLsbD l = false →
    t.vcell s.gid r l = s.vcell s.gid r l

/-- 18 R341, R343: lanes that add to one word each take effect once, whatever their operands: ATOMS on a word of the block's
scratchpad, and ATOM on a word of device memory. No other byte changes. -/
def Obligations.AtomicAddLanes : Prop :=
  (∀ (s : State) (o : SpOp) (as : List (Nat × Nat)) (a : Nat), s.issue.replay = false → s.issue.upTo = none →
    o.peer = false → (∀ i, Tbl.get false (s.blk s.bid).scrBad i = false) → s.MayRelease o.ord →
    s.laneAddrs true 4 (pLOAD + pSTORE + pATOMIC) o.sel 31 o.off o.ext s.active = .ok as → a % 4 = 0 →
    (∀ p ∈ as, p.2 = a) → s.Acts (.atoms .add o) →
    ∃ t, exec (.atoms .add o) s = .next t ∧
      Claims.AddsSerially s t (s.vname o.data) (State.leNum (s.scrBytes s.bid a 4)) (State.leNum (t.scrBytes s.bid a 4)) as ∧
      (∀ b, b < a ∨ a + 4 ≤ b → Tbl.get 0 (t.blk s.bid).scratch b = Tbl.get 0 (s.blk s.bid).scratch b) ∧
      (∀ b, b ≠ s.bid → t.blk b = s.blk b) ∧ t.mem = s.mem) ∧
  ∀ (s : State) (o : VmOp) (as : List (Nat × Nat)) (va pa : Nat), s.Quiet → s.L1Ok → s.core < 152 → s.MayRelease o.ord →
    s.laneAddrs false 4 (pLOAD + pSTORE + pATOMIC) o.sel 63 o.off o.ext s.active = .ok as → va % 4 = 0 →
    (∀ p ∈ as, p.2 = va) → s.Hits .rmw 4 as (fun _ => pa) → (s.dir (State.lineOf pa)).ctr = false → s.Acts (.atom .add false o) →
    ∃ t, exec (.atom .add false o) s = .next t ∧
      Claims.AddsSerially s t (s.vname o.data) (State.leNum (s.peekBytes pa 4)) (State.leNum (t.peekBytes pa 4)) as ∧
      (∀ b, b < pa ∨ pa + 4 ≤ b → t.peek b = s.peek b) ∧ t.blks = s.blks

/-- 19 R395, R396, 08 R171: one lane's MWATCH loads its word, arms the split's monitor on its line and sets the watch bit;
more than four lines overflow the monitor. MWAIT on a line that the monitor names, with no event yet, waits; with an
event it loads and disarms. A write to the line at the home sets the event and ends the wait. MWATCH on more than four
lines, however many lanes name them, leaves the monitor overflowed. -/
def Sys2Proof.Claims.Monitors : Prop :=
  ∀ (s : State) (o : VmOp) (l va pa : Nat), s.Quiet → s.OneLane l → s.core < 152 →
    s.laneAddrs false 4 pLOAD o.sel 63 o.off o.ext s.active = .ok [(l, va)] → va % 4 = 0 →
    s.Hits .read 4 [(l, va)] (fun _ => pa) → (s.dir (State.lineOf pa)).ctr = false →
    let line := State.lineOf pa
    let loads := fun t : State => (∀ a, t.peek a = s.peek a) ∧
      t.vcell s.gid (s.vname o.data) l = { val := BitVec.ofNat 32 (State.leNum (s.peekBytes pa 4)) }
    (s.Acts (.mwatch o) → s.sl.monitor = {} → s.watchCount s.core < 128 → ∃ t, exec (.mwatch o) s = .next t ∧ loads t ∧
      t.sl.monitor = { vlines := [va / 128], lines := [line] } ∧ (t.l1 (t.l1Core t.core line) line).watch = true) ∧
    (s.Acts (.mwait o) → va / 128 ∈ s.sl.monitor.vlines → s.sl.monitor.overflow = false → s.sl.monitor.ev = false →
      exec (.mwait o) s = .next ((s.updSl fun sl => { sl with wait := .long, waitFor := .mwait }).setOut .stay)) ∧
    (s.Acts (.mwait o) → s.sl.monitor.ev = true ∨ s.sl.monitor.overflow = true ∨ va / 128 ∉ s.sl.monitor.vlines →
      s.sl.held = false → s.issue.out ≠ .trapped → ∃ t, exec (.mwait o) s = .next t ∧ loads t ∧ t.sl.monitor = {}) ∧
    (∀ bs, bs ≠ [] → State.lineOf (pa + bs.length - 1) = line → line ∈ s.sl.monitor.lines → s.sl.waitFor = .mwait →
      (s.l1 s.core line).watch = true →
      let t := s.homeWrite pa bs
      t.sl.monitor.ev = true ∧ t.sl.waitFor = .none ∧ t.sl.wait = .ready)
/-- 19 R395: MWATCH whose lanes name more than four lines loads them and leaves the monitor overflowed. -/
def Sys2Proof.Claims.MonitorOverflow : Prop :=
  ∀ (s : State) (o : VmOp) (as : List (Nat × Nat)) (pa : Nat → Nat), s.Quiet → s.core < 152 →
    s.laneAddrs false 4 pLOAD o.sel 63 o.off o.ext s.active = .ok as → misaligned 4 as = none → s.Hits .read 4 as pa →
    (∀ p ∈ as, (s.dir (State.lineOf (pa p.1))).ctr = false) → 4 < (as.map (·.2 / 128)).dedup.length → s.Acts (.mwatch o) →
    ∃ t, exec (.mwatch o) s = .next t ∧ t.sl.monitor = { overflow := true } ∧ (∀ a, t.peek a = s.peek a) ∧
      ∀ p ∈ as, t.vcell s.gid (s.vname o.data) p.1 = { val := BitVec.ofNat 32 (State.leNum (s.peekBytes (pa p.1) 4)) }

/-- 18 R357, 20 R443: the firmware's cache words change no value of memory. One lane's CACHE.CLN leaves no dirty word of its
line in the L1 that acts for the core, and none in any L1 where that one held the dirty words; CACHE.INV drops that L1's
copy of a line that is not pinned. TLB.INV removes the cached translations of its range, from the L1 and the L2 TLBs at once
(log 34), and nothing else. The split waits with WAIT = 2 while an access translated through one of them has not performed,
and goes on when none is left. -/
def Sys2Proof.Claims.CacheWords : Prop :=
  ∀ (s : State) (o : DaOp) (l va pa sa sb : Nat), s.Quiet → s.L1Ok → s.core < 152 →
    s.laneAddrs false 1 pLOAD o.sel 124 o.off o.ext s.active = .ok [(l, va)] →
    s.Hits .read 1 [(l, va)] (fun _ => pa) →
    let line := State.lineOf pa
    let c := s.l1Core s.core line
    (s.Acts (.cacheCln o) → ∃ t, exec (.cacheCln o) s = .next t ∧ (∀ a, t.peek a = s.peek a) ∧ (t.l1 c line).dirty = 0 ∧
      (t.grp s.gid).vregs = s.g.vregs ∧ ((s.l1 c line).dirty ≠ 0 → ∀ c', (t.l1 c' line).dirty = 0)) ∧
    (s.Acts (.cacheInv o) → (s.l1 c line).pins = 0 → ∃ t, exec (.cacheInv o) s = .next t ∧
      (∀ a, t.peek a = s.peek a) ∧ t.l1 c line = {} ∧ (t.grp s.gid).vregs = s.g.vregs) ∧
    (let ctx := (s.sreg sa).toNat % 2 ^ 16
     let code := (s.sreg sb).toNat % 8
     let base := (s.sreg sb).toNat / 2 ^ 12 % 2 ^ 45 * 2 ^ 12
     let pages := s.coveredPages ctx code base
     let keeps := fun x : Tlb => State.tlbCovered ctx code base x = false
     let removed := fun t : State =>
       (∀ k x, x ∈ Tbl.get [] t.l1tlb k ↔ x ∈ Tbl.get [] s.l1tlb k ∧ keeps x) ∧
       ∀ k x, x ∈ Tbl.get [] t.l2tlb k ↔ x ∈ Tbl.get [] s.l2tlb k ∧ keeps x
     (Tbl.wf [] s.l1tlb = true → Tbl.wf [] s.l2tlb = true → s.Acts (.tlbInv sa sb) →
       s.translatedLeft ctx code base pages = false →
       ∃ t, exec (.tlbInv sa sb) s = .next t ∧ t = { s with l1tlb := t.l1tlb, l2tlb := t.l2tlb, hist := t.hist } ∧
         removed t) ∧
     (Tbl.wf [] s.l1tlb = true → Tbl.wf [] s.l2tlb = true → s.Acts (.tlbInv sa sb) →
       s.translatedLeft ctx code base pages = true → ∃ t, exec (.tlbInv sa sb) s = .next t ∧
       t.sl = { s.sl with wait := .barrier, waitFor := .tlbInv ctx code base pages } ∧
       t = { s with l1tlb := t.l1tlb, l2tlb := t.l2tlb, grps := t.grps } ∧ removed t)) ∧
    (∀ g k x y z ps, (s.slotAt g k).waitFor = .tlbInv x y z ps →
      (s.translatedLeft x y z ps = true → goOnTurn exec g k s = .next s) ∧
      (s.translatedLeft x y z ps = false → ∃ t, goOnTurn exec g k s = .next t ∧
        t.slotAt g k = { s.slotAt g k with wait := .ready, waitFor := .none } ∧ t.mem = s.mem))

/-- Monitors, and the cache and TLB words. -/
def Obligations.MonitorsAndCacheWords : Prop :=
  Claims.Monitors ∧ Claims.MonitorOverflow ∧ Claims.CacheWords

/-- 09 R189 to R191, Tables 9.3, 9.4: a load or store whose one lane's translation faults parks the split. UNF holds the
lane, nothing is performed, and a fault record names the address, the access and the group. -/
def Sys2Proof.Claims.Park : Prop :=
  ∀ (s u : State) (o : VmOp) (l va c lv : Nat), s.Quiet → s.OneLane l → c ≠ 0 →
    let rec_ := fun (acc : Acc) => s.splitFault va c lv acc (BitVec.ofNat 32 (2 ^ l)) 0
    let parks := fun (i : Instr) (n perm : Nat) (acc : Acc) =>
      s.Acts i → s.laneAddrs false n perm o.sel 63 o.off o.ext s.active = .ok [(l, va)] → va % n = 0 →
      s.translate (some s.core) s.ctxId va acc = (.fault c lv, u) →
      u.grps = s.grps → u.issue = s.issue → u.blks = s.blks → u.ctxs = s.ctxs → u.cards = s.cards →
        ∃ t, exec i s = .next t ∧ t.issue.out = .stay ∧ t.sl.wait = .parked ∧
          t.sl.unf = BitVec.ofNat 32 (2 ^ l) ∧ t.sl.pc = s.sl.pc ∧ t.sl.run = s.sl.run ∧ t.mem = u.mem ∧
          t.flt.held = u.flt.held ++ [{ rec_ acc with fid := (s.ctx s.ctxId).nextFid }] ∧
          (t.grp s.gid).vregs = s.g.vregs ∧
          ∃ p, t.sl.parked = some p ∧ p.pages = [va] ∧ p.resolved = false ∧ p.lanes.map (·.lane) = [l]
    (∀ sz, parks (.ld sz o) sz.bytes pLOAD .read) ∧
    (∀ sz, s.MayRelease o.ord → s.pending = [] → parks (.st sz o) sz.bytes pSTORE .write) ∧
    (∀ op z, s.MayRelease o.ord → s.pending = [] → parks (.atom op z o) (if z then 8 else 4) (pLOAD + pSTORE + pATOMIC) .rmw)

/-- 07 R155, 16 R310, 06 R114: a load of host memory waits for its completion. The request goes on the link under a number
of its own and the split stays at its bundle; the completion of that number marks the lane answered. A load of 16 bytes
sends two requests, one for each half. -/
def Sys2Proof.Claims.HostLoadWaits : Prop :=
  ∀ (s : State) (sz : LdSize) (o : VmOp) (l va pa : Nat), s.Quiet → s.OneLane l →
    s.laneAddrs false sz.bytes pLOAD o.sel 63 o.off o.ext s.active = .ok [(l, va)] → va % sz.bytes = 0 →
    s.Cached .read va 1 pa → (∀ p ∈ s.pending, s.gid ∉ p.seen) → s.Acts (.ld sz o) →
    (sz.bytes < 16 → ∃ t id, exec (.ld sz o) s = .next t ∧ t.issue.out = .stay ∧ (∀ p ∈ s.pending, p.id < id) ∧
      t.pending = s.pending ++ [{ id, tgt := 1, gid := s.gid, slot := s.issue.slot, ctx := s.ctxId, va }] ∧
      (t.grp s.gid).vregs = s.g.vregs ∧ t.hostMem = s.hostMem ∧ (∀ a, t.peek a = s.peek a) ∧
      (∃ p, t.sl.parked = some p ∧ p.resolved = false ∧ p.lanes.map (·.out) = [some id]) ∧
      ∃ u, exec (.hostCompletion id) t = .next u ∧ u.pending = s.pending ∧
        ∃ p, u.sl.parked = some p ∧ p.resolved = true ∧ p.lanes.map (·.ok) = [true]) ∧
    (sz.bytes = 16 → ∃ t i j, exec (.ld sz o) s = .next t ∧ t.issue.out = .stay ∧ i ≠ j ∧
      (∀ p ∈ s.pending, p.id < i ∧ p.id < j) ∧
      t.pending = s.pending ++ [{ id := i, tgt := 1, gid := s.gid, slot := s.issue.slot, ctx := s.ctxId, va },
        { id := j, tgt := 1, gid := s.gid, slot := s.issue.slot, ctx := s.ctxId, va }] ∧
      (t.grp s.gid).vregs = s.g.vregs ∧ ∃ p, t.sl.parked = some p ∧ p.resolved = false ∧
        p.lanes.map (·.out) = [some i, some j] ∧ ∃ k, (k = 1 ∨ k = 2) ∧ p.lanes.map (·.half) = [k, 3 - k])

/-- Loads whose page faults, and loads from host memory. -/
def Obligations.ParkedLoads : Prop :=
  Claims.Park ∧ Claims.HostLoadWaits

/-! ### Allowance counters -/

/-- 18 R336, R337, Table 18.1, 08 R173, R174: AC.TAKE and AC.GIVE served by the core's own allowance, and what they and
AC.DROP send to the home otherwise; n = 0 makes no request. A word that has sent something waits for it to arrive
(log 93), and the answer is its result. -/
def Sys2Proof.Claims.CounterTakeGive : Prop :=
  ∀ (s : State) (o : AcOp) (a pa : Nat), s.Quiet → s.acAddr o = .ok a → s.Cached .rmw a 0 pa → s.sl.answer = none →
    s.inFlight pa s.core = false → s.acQueue s.core (State.allowKey pa s.core) = [] → s.Accepted →
    let n := if o.sn < 24 then (s.sreg o.sn).toNat % 2 ^ 32 else o.sn - 23
    let e := s.allowOf pa s.core
    let sent := fun (kind : CtrMsgKind) (units : Nat) =>
      ({ pa, core := s.core, kind, units, va := a, ctx := s.ctxId } : CtrMsg)
    let waits := fun (t : State) => t.issue.out = .stay ∧ t.sl.waitFor = .give ∧ (∀ k, t.sreg k = s.sreg k) ∧ t.mem = s.mem
    let res := fun (t : State) (r : Quad) =>
      (∀ k, t.sreg k = if o.sd ≠ 31 ∧ k = o.sd then r else s.sreg k) ∧ (t.grp s.gid).vregs = s.g.vregs ∧ t.mem = s.mem
    (s.Acts (.acTake o) → n = 0 → ∃ t, exec (.acTake o) s = .next t ∧ res t 1 ∧ t.allows = s.allows) ∧
    (s.Acts (.acTake o) → 0 < n → s.hasAllow pa s.core = true → n ≤ e.allow →
      ∃ t, exec (.acTake o) s = .next t ∧ res t 1 ∧ (t.allowOf pa s.core).allow = e.allow - n ∧ t.ctrMsgs = s.ctrMsgs) ∧
    (s.Acts (.acTake o) → 0 < n → s.hasAllow pa s.core = false ∨ e.allow < n →
      ∃ t, exec (.acTake o) s = .next t ∧ t.issue.out = .stay ∧ t.sl.waitFor = .take ∧ t.hasAllow pa s.core = false ∧
        t.ctrMsgs = s.ctrMsgs ++ [sent (.take n s.gid s.issue.slot o.wt) e.allow]) ∧
    (s.Acts (.acGive o) → n = 0 → ∃ t, exec (.acGive o) s = .next t ∧ res t 0 ∧ t.ctrMsgs = s.ctrMsgs) ∧
    (s.Acts (.acGive o) → 0 < n → s.hasAllow pa s.core = true → s.ctrCentral pa = false →
      e.allow + n ≤ e.cap → ∃ t, exec (.acGive o) s = .next t ∧ res t 0 ∧
        (t.allowOf pa s.core).allow = e.allow + n ∧ t.ctrMsgs = s.ctrMsgs) ∧
    (s.Acts (.acGive o) → 0 < n → s.hasAllow pa s.core = true → s.ctrCentral pa = false → e.cap < e.allow + n →
      ∃ t, exec (.acGive o) s = .next t ∧ waits t ∧ (t.allowOf pa s.core).allow = e.cap / 2 ∧
        t.ctrMsgs = s.ctrMsgs ++ [sent (.sent s.gid s.issue.slot (some 0)) (e.allow + n - e.cap / 2)]) ∧
    (s.Acts (.acGive o) → 0 < n → s.hasAllow pa s.core = false ∨ s.ctrCentral pa = true →
      ∃ t, exec (.acGive o) s = .next t ∧ waits t ∧ t.ctrMsgs = s.ctrMsgs ++ [sent (.sent s.gid s.issue.slot none) n]) ∧
    (s.Acts (.acDrop o) → s.hasAllow pa s.core = true → ∃ t, exec (.acDrop o) s = .next t ∧ waits t ∧
      t.hasAllow pa s.core = false ∧
      t.ctrMsgs = s.ctrMsgs ++ [sent (.sent s.gid s.issue.slot (some (BitVec.ofNat 64 e.allow))) e.allow]) ∧
    (s.Acts (.acDrop o) → s.hasAllow pa s.core = false → ∃ t, exec (.acDrop o) s = .next t ∧ res t 0)
/-- 18 R336: the answer that an AC.TAKE, AC.GIVE or AC.DROP has waited for is the word's result. -/
def Sys2Proof.Claims.CounterAnswers : Prop :=
  ∀ (s : State) (o : AcOp) (r : Quad), s.sl.answer = some r →
    let completes := fun i : Instr => s.Acts i → ∃ t, exec i s = .next t ∧ t.sl.answer = none ∧
      (∀ k, t.sreg k = if o.sd ≠ 31 ∧ k = o.sd then r else s.sreg k) ∧ (t.grp s.gid).vregs = s.g.vregs ∧
      t.mem = s.mem ∧ t.ctrMsgs = s.ctrMsgs
    completes (.acTake o) ∧ completes (.acGive o) ∧ completes (.acDrop o)

/-- 18 R337, 08 R172, R174: AC.INIT and AC.READ of a line that nothing holds. AC.INIT of a line that is no counter makes it
one, with its value, INIT and CAP and no holder; AC.READ of a counter without holders gives its value and OVF, and of a
line that is none UNINIT. -/
def Sys2Proof.Claims.CounterInitRead : Prop :=
  ∀ (s : State) (o : AcOp) (a pa : Nat), s.Quiet → s.acAddr o = .ok a → s.Cached .rmw a 0 pa → pa % 64 = 0 →
    s.blocked 0 pa 64 = false → s.inFlight pa s.core = false → s.acQueue s.core (State.allowKey pa s.core) = [] →
    State.queued s.ctrMsgs (State.lineOf pa) = false → s.Accepted →
    let quad := fun i => State.leNum (s.homeBytes (pa + 8 * i) 8)
    (s.Acts (.acInit o) → s.L1Ok → quad 1 / 2 ^ 63 = 0 → ∃ t, exec (.acInit o) s = .next t ∧
      (t.dir (State.lineOf pa)).ctr = true ∧
      t.peekNat pa 8 = (s.sreg o.sn).toNat % 2 ^ 48 ∧ t.peekNat (pa + 8) 8 = 2 ^ 63 + (s.sreg (o.sn + 1)).toNat % 2 ^ 48 ∧
      (∀ i, i < 48 → t.peek (pa + 16 + i) = 0) ∧ (∀ b, b < pa ∨ pa + 64 ≤ b → t.peek b = s.peek b) ∧
      (∀ k, t.sreg k = if o.sd ≠ 31 ∧ k = o.sd then BitVec.ofNat 64 (2 ^ 63) else s.sreg k)) ∧
    (s.Acts (.acRead o) → quad 1 / 2 ^ 63 = 1 → s.ctrHolders pa = [] → o.sd < 24 → ∃ t, exec (.acRead o) s = .next t ∧
      t.sreg o.sd = BitVec.ofNat 64 (quad 0 % 2 ^ 48 + quad 1 / 2 ^ 62 % 2 * 2 ^ 62) ∧ t.mem = s.mem ∧
      ∀ k, k ≠ o.sd → t.sreg k = s.sreg k) ∧
    (s.Acts (.acRead o) → quad 1 / 2 ^ 63 = 0 → o.sd < 24 → ∃ t, exec (.acRead o) s = .next t ∧
      t.sreg o.sd = BitVec.ofNat 64 (2 ^ 63) ∧ t.mem = s.mem ∧ ∀ k, k ≠ o.sd → t.sreg k = s.sreg k)

/-! ### Copies -/

/-- 18 R361 to R364, 20 R431: a copy word whose descriptor and rows pass their checks starts a copy of its own with what
the descriptor names; a descriptor that breaks Table 18.6, or R431 for SCL.CPY, traps ILLEGAL. CPY.G's offsets apply to both
global sides (log 18), as do those of a CPY.S that has them. -/
def Sys2Proof.Claims.CopyStarts : Prop :=
  ∀ (s : State) (db off : Nat),
    let q := fun i => (s.sreg (8 * db + i)).toNat
    let d := CpyDesc.ofQuads (q 4) (q 5) (q 6) (q 7)
    let sc := s.pairCap (4 * db)
    let dc := s.pairCap (4 * db + 1)
    let starts := fun (i : Instr) (nrow rowb : Nat) (bar : Option Nat) =>
      ∃ t cid k, exec i s = .next t ∧ s.copy cid = none ∧ t.copy cid = some k ∧ k.bid = some s.bid ∧ k.gid = s.gid ∧
        k.ctx = s.ctxId ∧ k.core = s.core ∧ k.nrow = nrow ∧ k.rowb = rowb ∧ k.bar = bar ∧ k.row = 0 ∧ k.off = 0 ∧
        k.fix = [] ∧ k.withdrawn = false ∧ (t.grp s.gid).sregs = s.g.sregs ∧ (t.grp s.gid).vregs = s.g.vregs
    let room := (s.inFlightCopies s.core).length < 64 ∧ s.farQ = [] ∧ s.b.poisoned = false ∧ ∀ l, s.lineHeld l = false
    let bar := if d.bind then some d.bar else none
    let eo := fun (c : Cap) (str j : Nat) => ((c.offset + j * str : Nat) : Int)
    let lane := fun (c : Cap) (j : Nat) =>
      (c.offset : Int) + (s.vcur (s.vname off) ((lanesOf s.active).getD j 0)).val.toInt
    let rows := fun (c : Cap) (scr : Bool) (perm n : Nat) (f : Nat → Int) =>
      ∀ j, j < n → ∃ a, checkCap scr c (f j) d.rowb perm = .ok a
    (s.Acts (.cpy db) → d.bad .cpy false s.b.desc.mxs s.b.desc.nbar dc.bits = false → d.dkind = 0 → room →
      rows sc false pCOPYSRC (d.nrow + 1) (eo sc d.sstr) → rows dc false pCOPYDST (d.nrow + 1) (eo dc d.dstr) →
      starts (.cpy db) (d.nrow + 1) d.rowb bar) ∧
    (s.Acts (.cpyG db off) → d.bad .gather true s.b.desc.mxs s.b.desc.nbar dc.bits = false → d.dkind = 0 → room →
      rows sc false pCOPYSRC (lanesOf s.active).length (lane sc) →
      rows dc false pCOPYDST (lanesOf s.active).length (lane dc) →
      starts (.cpyG db off) (lanesOf s.active).length d.rowb bar) ∧
    (s.Acts (.cpyS db 124) → d.bad .scratch false s.b.desc.mxs s.b.desc.nbar dc.bits = false → d.peer = false → room →
      rows sc (d.skind == 1) pCOPYSRC (d.nrow + 1) (eo sc d.sstr) →
      rows dc (d.dkind == 1) pCOPYDST (d.nrow + 1) (eo dc d.dstr) →
      starts (.cpyS db 124) (d.nrow + 1) d.rowb bar) ∧
    (d.bad .cpy false s.b.desc.mxs s.b.desc.nbar dc.bits = true → (s.issueCause (.cpy db)).map (·.code) = some 1) ∧
    (d.bad .gather true s.b.desc.mxs s.b.desc.nbar dc.bits = true → (s.issueCause (.cpyG db off)).map (·.code) = some 1) ∧
    (d.bad .scratch (off != 124) s.b.desc.mxs s.b.desc.nbar dc.bits = true → (s.issueCause (.cpyS db off)).map (·.code) = some 1) ∧
    (q 2 ≠ 0 ∨ q 3 ≠ 0 ∨ q 4 = 0 ∨ 4096 < q 4 ∨ q 5 ≠ 0 ∨ q 6 ≠ 0 ∨ q 7 / 2 ^ 12 % 2 ^ 45 ≠ 0 ∨ 4096 < q 7 % 2 ^ 12 + q 4 ∨
      (q 7 / 2 ^ 57 % 2 = 1 ∧ s.b.desc.nbar ≤ q 7 / 2 ^ 58) → (s.issueCause (.sclCpy db)).map (·.code) = some 1) ∧
    (∀ n, s.Acts (.sclCpy db) → n = q 4 → 1 ≤ n → n ≤ 4096 → q 2 = 0 → q 3 = 0 → q 5 = 0 → q 6 = 0 →
      q 7 / 2 ^ 12 = 0 → q 7 % 2 ^ 12 + n ≤ 4096 → room →
      (∃ a, checkCap false sc sc.offset (4 * n) pCOPYSRC = .ok a) → starts (.sclCpy db) 1 (4 * n) none)

/-! ### Operand slots and accumulators -/

/-- 10 R207, Table 10.4, 20 R412: OCLAIM and OREL change all their slots at once, or none: a slot in another state traps
MATRIX with SLOTSTATE, INFO the first such slot. A slot that no copy named since its claim is zero when it is filled. -/
def Sys2Proof.Claims.SlotClaims : Prop :=
  ∀ (s : State) (slot cnt : Nat),
    let named := fun k => ∃ i, i ≤ cnt ∧ k = (slot + i) % 32
    let all := fun st : SlotState => ∀ k, named k → (s.hdr s.bid k).st = st
    let others := fun t : State => (∀ k, ¬ named k → t.hdr s.bid k = s.hdr s.bid k) ∧ t.mem = s.mem ∧
      t.grps = s.grps ∧ (t.blk s.bid).scratch = (s.blk s.bid).scratch
    (s.Acts (.oclaim slot cnt) → all .empty → ∃ t, exec (.oclaim slot cnt) s = .next t ∧ others t ∧
      ∀ k, named k → t.hdr s.bid k = { s.hdr s.bid k with st := .claimed, stamp := false }) ∧
    (s.Acts (.orel slot cnt) → all .claimed → ∃ t, exec (.orel slot cnt) s = .next t ∧ others t ∧
      ∀ k, named k →
        ((s.hdr s.bid k).stamp = true → t.hdr s.bid k = { s.hdr s.bid k with st := .filled }) ∧
        ((s.hdr s.bid k).stamp = false → t.hdr s.bid k = { st := .filled } ∧
          ∀ b, b / 8192 = k → Tbl.get 0 (t.mx s.bid).opmem b = 0)) ∧
    (∀ i, i ≤ cnt → (s.hdr s.bid ((slot + i) % 32)).st ≠ .empty →
      (∀ j, j < i → (s.hdr s.bid ((slot + j) % 32)).st = .empty) → s.Acts (.oclaim slot cnt) →
      exec (.oclaim slot cnt) s = .next (s.takeTrap { code := 13, sub := 1, info := (slot + i) % 32 })) ∧
    (∀ i, i ≤ cnt → (s.hdr s.bid ((slot + i) % 32)).st ≠ .claimed →
      (∀ j, j < i → (s.hdr s.bid ((slot + j) % 32)).st = .claimed) → s.Acts (.orel slot cnt) →
      exec (.orel slot cnt) s = .next (s.takeTrap { code := 13, sub := 1, info := (slot + i) % 32 }))

/-- 18 R338, 10 R216, R217: ACC.LD and ACC.ST of segment q of the rectangle in s(SD): 32 elements of a row, one for each
lane. A descriptor or segment out of range traps MATRIX with TILERANGE. -/
def Sys2Proof.Claims.AccumulatorWords : Prop :=
  ∀ (s : State) (v sd q : Nat) (lone : Bool),
    let t := (s.sreg sd).toNat % 2 ^ 32
    let c0 := t % 16
    let r0 := t / 2 ^ 4 % 8
    let nc := t / 2 ^ 7 % 16
    let nr := t / 2 ^ 11 % 8
    let bad := t / 2 ^ 14 ≠ 0 ∨ 11 < c0 ∨ 11 < nc ∨ 8 < r0 + nr + 1 ∨ 12 < c0 + nc + 1 ∨ 32 * (nr + 1) * (nc + 1) ≤ q
    let key := fun l => 384 * (32 * r0 + q / (nc + 1)) + 32 * (c0 + q % (nc + 1)) + l
    (s.Acts (.accLd v sd q lone) → ¬ bad → ∃ u, exec (.accLd v sd q lone) s = .next u ∧
      s.RegTakes u (s.vname v) s.issue.mm (fun l => s.accAt s.bid (key l)) ∧ s.OnlyRegs u [s.vname v]) ∧
    (s.Acts (.accSt v sd q lone) → ¬ bad → ∃ u, exec (.accSt v sd q lone) s = .next u ∧ u.grps = s.grps ∧ u.mem = s.mem ∧
      (∀ l, l < 32 → s.active.getLsbD l = true → u.accAt s.bid (key l) = (s.vcur (s.vname v) l).val) ∧
      (∀ k, (∀ l, l < 32 → s.active.getLsbD l = true → k ≠ key l) → u.accAt s.bid k = s.accAt s.bid k)) ∧
    (bad → (s.Acts (.accLd v sd q lone) → exec (.accLd v sd q lone) s =
        .next (s.takeTrap { code := 13, sub := 2, info := t })) ∧
      (s.Acts (.accSt v sd q lone) → exec (.accSt v sd q lone) s =
        .next (s.takeTrap { code := 13, sub := 2, info := t })))

/-- Operand slots and accumulator segments. -/
def Obligations.SlotsAndAccumulator : Prop :=
  Claims.SlotClaims ∧ Claims.AccumulatorWords

/-! ### Engines and tasks -/

/-- 20 R418, R420, 11 R239: one lane's QLAUNCH sends its record to the core's TRP; QTAKE gives the context's records of the
queue to the Active lanes in order, and zero bytes to the lanes for which there is none. -/
def Sys2Proof.Claims.Queries : Prop :=
  ∀ (s : State) (o : DaOp) (v cq l va pa : Nat),
    (s.Quiet → s.OneLane l → s.Accepted → (s.dir (State.lineOf pa)).ctr = false →
      s.laneAddrs false 64 (pLOAD + pNODE) o.sel 124 o.off o.ext s.active = .ok [(l, va)] → va % 64 = 0 →
      s.Hits .read 64 [(l, va)] (fun _ => pa) → (Tbl.get [] s.ingress s.core).length < 256 → s.Acts (.qlaunch o) →
      ∃ t r, exec (.qlaunch o) s = .next t ∧ Tbl.get [] t.ingress s.core = Tbl.get [] s.ingress s.core ++ [r] ∧
        r.ctx = s.ctxId ∧ r.card = s.b.card ∧ r.block = s.b.no ∧ r.va = va ∧ r.cap = s.selCap o.sel l ∧
        r.quads = (List.range 8).map (fun i => BitVec.ofNat 64 (State.leNum (s.peekBytes (pa + 8 * i) 8))) ∧
        (t.grp s.gid).vregs = s.g.vregs ∧ (∀ b, t.peek b = s.peek b) ∧
        ∀ c, c ≠ s.core → Tbl.get [] t.ingress c = Tbl.get [] s.ingress c) ∧
    (s.Acts (.qtake v cq) →
      let q := Tbl.get [] s.cqs (4 * (s.core / 4) + cq)
      let mine := q.filter fun r => r.ctx == s.ctxId
      let rank := fun l => ((List.range l).filter fun m => s.active.getLsbD m).length
      ∃ t, exec (.qtake v cq) s = .next t ∧
        (∀ l i, l < 32 → s.active.getLsbD l = true → i < 8 → t.vcell s.gid (s.vname v + i) l =
          { val := match mine[rank l]? with
              | some r => BitVec.ofNat 32 ((r.words.getD (i / 2) 0).toNat / 2 ^ (32 * (i % 2)))
              | none => 0 }) ∧
        ((Tbl.get [] t.cqs (4 * (s.core / 4) + cq)).filter fun r => r.ctx == s.ctxId) = mine.drop (lanesOf s.active).length ∧
        (∀ k, k ≠ 4 * (s.core / 4) + cq → Tbl.get [] t.cqs k = Tbl.get [] s.cqs k) ∧
        (∀ r l, l < 32 → r < s.vname v ∨ s.vname v + 8 ≤ r → t.vcell s.gid r l = s.vcell s.gid r l))

/-- 12 R243, 20 R432, R435: SELK and SPLAT check their descriptor's address and queue a command of their block, unless 16
commands that have not started already wait (log 39). A misaligned descriptor traps with MISALIGN, LANE 0 (log 88). -/
def Sys2Proof.Claims.SortSplatIssue : Prop :=
  ∀ (s : State) (o : DaOp) (l a : Nat), l < 32 → s.active.getLsbD l = true → (∀ m, m < l → s.active.getLsbD m = false) →
    checkCap false (s.selCap o.sel l) (s.effOff o.sel 124 o.off o.ext l) 64 pLOAD = .ok a →
    let q := Tbl.get [] s.ssus (s.core / 4)
    let cmd := fun isSplat : Bool =>
      { gid := s.gid, bid := s.bid, no := s.b.no, core := s.core, nbar := s.b.desc.nbar, scrKib := s.b.desc.scr,
        ctx := s.ctxId, card := s.b.card, va := a, isSplat, cap := s.selCap o.sel l, opthr := s.g.opthr : SsuCmd }
    let queued := fun isSplat => Host.Outcome.next { s with ssus := Tbl.set [] s.ssus (s.core / 4) (q ++ [cmd isSplat]) }
    let waiting := (q.filter fun c => !c.started).length
    (a % 64 = 0 → waiting < 16 → (s.Acts (.selk o) → exec (.selk o) s = queued false) ∧
      (s.Acts (.splat o) → exec (.splat o) s = queued true)) ∧
    (a % 64 = 0 → 16 ≤ waiting → (s.Acts (.selk o) → exec (.selk o) s = .next (s.setOut .stay)) ∧
      (s.Acts (.splat o) → exec (.splat o) s = .next (s.setOut .stay))) ∧
    (a % 64 ≠ 0 → (s.Acts (.selk o) → exec (.selk o) s = .next (s.takeTrap { code := 10, info := a % 2 ^ 32 })) ∧
      (s.Acts (.splat o) → exec (.splat o) s = .next (s.takeTrap { code := 10, info := a % 2 ^ 32 })))

/-- Query launch and take, SELK and SPLAT. -/
def Obligations.QueriesAndSort : Prop :=
  Claims.Queries ∧ Claims.SortSplatIssue

/-- 19 R385 to R387, 13 R265, R266, R268: INBOX gives the oldest record of its block's context and descriptor to the group,
or waits; COMMIT marks the task committed; JOBPOST appends its entry and advances the tail, waits on a full ring, and
traps CARDPOST, LANE 0 (log 88), on a queue that its context may not post to. The ring's base is a physical address and its
entry is the 32 bytes of log 42. -/
def Obligations.Tasks : Prop :=
  ∀ (s : State) (q : Nat) (o : DaOp),
    (∀ r l₁ l₂, s.Acts .inbox → s.g.task = none → Tbl.get [] s.inbox s.core = l₁ ++ r :: l₂ →
      (∀ x ∈ l₁, ¬ (x.ctx = s.ctxId ∧ x.descVa = s.b.descVa)) → r.ctx = s.ctxId → r.descVa = s.b.descVa →
      ∃ t, exec .inbox s = .next t ∧ Tbl.get [] t.inbox s.core = l₁ ++ l₂ ∧
        (∀ i, i < 8 → t.sreg (16 + i) = r.quads.getD i 0) ∧ (∀ k, k < 16 ∨ 24 ≤ k → t.sreg k = s.sreg k) ∧
        t.g.task = some { record := r.quads, pins := r.pins, card := r.card, committed := false,
                          restart := BitVec.ofNat 54 (s.issue.addr / 8) } ∧
        (t.grp s.gid).vregs = s.g.vregs ∧ t.mem = s.mem) ∧
    (s.Acts .inbox → s.g.task = none → (∀ x ∈ Tbl.get [] s.inbox s.core, ¬ (x.ctx = s.ctxId ∧ x.descVa = s.b.descVa)) →
      exec .inbox s = .next ((s.updSl fun sl => { sl with wait := .long, waitFor := .inbox }).setOut .stay)) ∧
    (s.Acts .commit → ∃ t, exec .commit s = .next t ∧ s.OnlyGroup t ∧ t.g = { s.g with task := t.g.task } ∧
      t.g.task = s.g.task.map fun k => { k with committed := true }) ∧
    (∀ l a, l < 32 → s.active.getLsbD l = true → (∀ m, m < l → s.active.getLsbD m = false) →
      s.Accepted → s.Acts (.jobpost q o) →
      checkCap false (s.selCap o.sel l) (s.effOff o.sel 124 o.off o.ext l) 128 pLOAD = .ok a → a % 128 = 0 →
      let k := s.queue q
      let u := s.publish s.gid 3
      let len := 2 ^ (if 4 ≤ k.size.toNat % 32 ∧ k.size.toNat % 32 ≤ 16 then k.size.toNat % 32 else 4)
      let full := (k.tail.toNat + 1) % len = k.head.toNat % len
      let mayPost := k.en = true ∧ k.devpost = true ∧ k.ctx = s.ctxId
      (¬ mayPost → exec (.jobpost q o) s = .next (u.takeTrap { code := 14, info := q })) ∧
      (mayPost → full → exec (.jobpost q o) s =
        .next ((u.updSl fun sl => { sl with wait := .long, waitFor := .jobpost q }).setOut .stay)) ∧
      (mayPost → ¬ full → k.base.getLsbD 63 = false → s.farQ = [] →
        let at_ := k.base.toNat / 2 ^ 5 % 2 ^ 52 * 32 + 32 * (k.tail.toNat % len)
        s.blocked 0 at_ 32 = false → (s.dir (State.lineOf at_)).ctr = false →
        ∃ t, exec (.jobpost q o) s = .next t ∧ (t.queue q).tail.toNat = (k.tail.toNat + 1) % len ∧
          t.peekNat at_ 8 = 2 ^ 63 + a ∧ t.peekNat (at_ + 8) 16 = (s.selCap o.sel l).bits.toNat ∧
          t.peekNat (at_ + 24) 8 = 0 ∧ (∀ b, b < at_ ∨ at_ + 32 ≤ b → t.peek b = s.peek b)))

/-! ### Stream words of the matrix engine -/

/-- 19 R400, R403, 10 R211: the turn of a sequencer that holds an MX.LOOP of COUNT 0, or an MX.PROG with an operation whose
OP is 7, whose DST is 3, whose S is not zero without SELGT, that is NONE and not all zero or that follows a NONE and is not
NONE, faults ILLEGAL (FCODE 1) and leaves PROG and PC as they were. -/
def Sys2Proof.Claims.StreamIllegal : Prop :=
  ∀ (s : State) (bid : Nat) (word : Quad),
    let w := word.toNat
    let op := fun i => w / 2 ^ (14 * i) % 2 ^ 14
    let code := fun i => op i / 2 ^ 11
    let bad := fun i => code i = 7 ∨ op i / 2 ^ 9 % 4 = 3 ∨ (op i % 8 ≠ 0 ∧ code i ≠ 6) ∨ (code i = 0 ∧ op i ≠ 0) ∨
      (0 < i ∧ code (i - 1) = 0 ∧ code i ≠ 0)
    s.seqLive bid = true → (s.seq bid).word = some word →
    (w / 2 ^ 58 = 9 ∧ w / 2 ^ 40 % 2 ^ 16 = 0) ∨ (w / 2 ^ 58 = 4 ∧ ∃ i, i < 4 ∧ bad i) →
    ∃ u, seqTurn exec bid s = .next u ∧ (u.seq bid).st = .fault ∧ (u.seq bid).fcode = 1 ∧
      (u.seq bid).pc = (s.seq bid).pc ∧ (u.seq bid).prog = (s.seq bid).prog ∧
      ∀ b, (u.mx b).acc = (s.mx b).acc ∧ (u.mx b).hdrs = (s.mx b).hdrs ∧ (u.mx b).opmem = (s.mx b).opmem

/-- 10 R209, R211, R213, R214, R216, R217, R219, R221, 19 R398 to R407: a stream word that passes its checks has its effect
on the matrix memories of its block and the sequencer moves to the next word; one that fails a check changes neither the
memories nor PC, and the sequencer holds its FCODE. -/
def Sys2Proof.Claims.StreamEffects : Prop :=
  ∀ (s : State),
    let bid := s.bid
    let q := s.seq bid
    let nextSeq : Seq := { q with st := .run, pc := (q.pc + 8) % 2 ^ 57, word := none }
    let slot := fun n => (n + q.sbase) % 32
    -- the block keeps everything but the memory `f` writes and the sequencer
    let moves := fun (u : State) (m : Matrix) (v : Seq) =>
      u.blk bid = { s.blk bid with mx := { m with seq := v } } ∧ (∀ b, b ≠ bid → u.blk b = s.blk b) ∧
        u.grps = s.grps ∧ u.mem = s.mem ∧ u.cards = s.cards
    let acc := fun (u : State) (f : Nat → Nat → Word) =>
      moves u { s.mx bid with acc := (u.mx bid).acc } nextSeq ∧
        ∀ r c, r < 256 → c < 384 → u.accAt bid (384 * r + c) = f r c
    let old := fun r c => s.accAt bid (384 * r + c)
    let okRect := fun (t nr nc : Nat) => t < 96 ∧ t / 12 + nr + 1 ≤ 8 ∧ t % 12 + nc + 1 ≤ 12
    (exec .mxNop s = .next (s.updSeq bid fun _ => nextSeq)) ∧
    (exec .mxEnd s = .next (s.updSeq bid fun q => { q with st := .done, word := none })) ∧
    (∀ p, exec (.mxProg p) s = .next (s.updSeq bid fun _ => { nextSeq with prog := p })) ∧
    (∀ t nr nc, okRect t nr nc → ∃ u, exec (.mxZero t nr nc) s = .next u ∧ acc u fun r c =>
      if t / 12 ≤ r / 32 ∧ r / 32 ≤ t / 12 + nr ∧ t % 12 ≤ c / 32 ∧ c / 32 ≤ t % 12 + nc then 0 else old r c) ∧
    (∀ t nr nc c, okRect t nr nc → c + 32 * (nr + 1) ≤ 4096 → ∃ u, exec (.mxScl t nr nc c) s = .next u ∧
      acc u fun r k => if t / 12 ≤ r / 32 ∧ r / 32 ≤ t / 12 + nr ∧ t % 12 ≤ k / 32 ∧ k / 32 ≤ t % 12 + nc then
        toF32 .rne (Machine.Num.mul (f32 (old r k)) (decodeS20 (s.scaleAt bid (c + (r - 32 * (t / 12)))).toNat)) else old r k) ∧
    (∀ t nr nc c, ¬ okRect t nr nc ∨ 4096 < c + 32 * (nr + 1) → exec (.mxScl t nr nc c) s = .next (s.seqFault 5)) ∧
    (∀ t nr nc, ¬ okRect t nr nc → exec (.mxZero t nr nc) s = .next (s.seqFault 5)) ∧
    (∀ b, b < s.b.desc.nbar → b < 64 →
      (State.phaseOf (s.barWord bid b) ≠ q.ep.getLsbD b → exec (.mxWait b) s =
        .next (s.updSeq bid fun _ => { nextSeq with ep := q.ep ^^^ BitVec.ofNat 64 (2 ^ b) })) ∧
      (State.phaseOf (s.barWord bid b) = q.ep.getLsbD b → exec (.mxWait b) s =
        .next (s.updSeq bid fun q => { q with st := .waitBar, wbar := b })) ∧
      ((s.blk bid).phase = .resident → (s.blk bid).stopped = false → ∃ u, exec (.mxArv b) s = .next u ∧
        u.seq bid = nextSeq ∧ u.mem = s.mem ∧ (u.mx bid).acc = (s.mx bid).acc ∧
        u.barWord bid b = (State.Bar.check
          (let w := State.Bar.ofWord (s.barWord bid b)
           { w with arr := (w.arr + 1) % 4096 })).toWord)) ∧
    (∀ b, s.b.desc.nbar ≤ b → exec (.mxWait b) s = .next (s.seqFault 1) ∧ exec (.mxArv b) s = .next (s.seqFault 1)) ∧
    (∀ n m, m ≤ 32 →
      let named := fun k => ∃ i, i < m ∧ k = (slot n + i) % 32
      ((∀ k, named k → (s.hdr bid k).st = .filled) → ∃ u, exec (.mxRel n m) s = .next u ∧
        moves u { s.mx bid with hdrs := (u.mx bid).hdrs } nextSeq ∧ (∀ k, named k → (u.hdr bid k).st = .empty) ∧
        ∀ k, ¬ named k → u.hdr bid k = s.hdr bid k) ∧
      (∀ k, named k → (s.hdr bid k).st ≠ .filled → exec (.mxRel n m) s = .next (s.seqFault 4))) ∧
    (∀ x count step off, 0 < count →
      let l : LoopCtr := Tbl.get {} q.lc x
      let left := (if l.arm then l.rem else count) - 1
      (0 < left → ∃ u, exec (.mxLoop x count step off) s = .next u ∧ (u.seq bid).sbase = (q.sbase + step) % 32 ∧
        (u.seq bid).pc = (((q.pc : Int) + 8 * off.toInt) % 2 ^ 57).toNat ∧
        Tbl.get {} (u.seq bid).lc x = { arm := true, rem := left } ∧
        (∀ y, y ≠ x → Tbl.get {} (u.seq bid).lc y = Tbl.get {} q.lc y) ∧
        moves u (s.mx bid) { q with st := .run, pc := (u.seq bid).pc, sbase := (u.seq bid).sbase,
                                    lc := (u.seq bid).lc, word := none }) ∧
      (left = 0 → ∃ u, exec (.mxLoop x count step off) s = .next u ∧
        (Tbl.get {} (u.seq bid).lc x).arm = false ∧
        (∀ y, y ≠ x → Tbl.get {} (u.seq bid).lc y = Tbl.get {} q.lc y) ∧
        moves u (s.mx bid) { nextSeq with lc := (u.seq bid).lc })) ∧
    (∀ code, let u := s.seqFault code
      (u.seq bid).st = .fault ∧ (u.seq bid).fcode = code ∧ (u.seq bid).pc = q.pc ∧
      ((∀ p ∈ s.copies, p.2.owned = []) → u.mem = s.mem ∧ u.grps = s.grps) ∧
      (∀ b, (u.mx b).acc = (s.mx b).acc ∧ (u.mx b).hdrs = (s.mx b).hdrs ∧ (u.mx b).opmem = (s.mx b).opmem) ∧
      (∀ b ∈ (s.blk bid).gangIds, Tbl.has s.blks b = true → (u.blk b).stopped = true) ∧
      (u.card (s.blk bid).card).err = (s.card (s.blk bid).card).err.or
        (some (4, code, (((q.pc : Int) - (s.blk bid).desc.stream) % 2 ^ 32).toNat)))

/-- The effects and checks of the stream words, and the words that are ILLEGAL. -/
def Obligations.StreamWords : Prop :=
  Claims.StreamEffects ∧ Claims.StreamIllegal

/-- 05 R101, R103, R104, 10 R214, R215, R219, 19 R401, R404: MX.MMA performs one K-step in a turn and moves on after the
last, and MX.REC does all its steps in one turn (log 16); in INT8 the element takes the sum of 32 products modulo 2^32, else
the exact sum of products under the scales (log 17 on their signs), rounded once. MX.REC applies the microprogram for each k. Slots that are not FILLED, another swizzle, a combination of
formats that is refused or a number outside its range change nothing. -/
def Obligations.StreamArithmetic : Prop :=
  ∀ (s : State) (o : MmaOp),
    let bid := s.bid
    let q := s.seq bid
    let p := (o.pa + q.sbase) % 32
    let p' := (o.pb + q.sbase) % 32
    let hp := s.hdr bid p
    let hq := s.hdr bid p'
    let inTile := fun r c => r / 32 = o.t / 12 ∧ c / 32 = o.t % 12
    let old := fun r c => s.accAt bid (384 * r + c)
    let deep := fun fmt => if fmt ≤ 1 then 4 else 8
    let states := hp.st = .filled ∧ hq.st = .filled
    let swizzles := hp.swz = o.swa ∧ hq.swz = o.swb
    let range := o.t < 96 ∧ o.s + 1 ≤ deep hp.fmt ∧ o.s + 1 ≤ deep hq.fmt ∧
      (o.sa = true → o.ca + 32 * (o.s + 1) ≤ 4096) ∧ (o.sb = true → o.cb + 32 * (o.s + 1) ≤ 4096)
    let floats := hp.fmt ≤ 3 ∧ hq.fmt ≤ 3
    let ints := hp.fmt = 4 ∧ hq.fmt = 4 ∧ o.sa = false ∧ o.sb = false
    let k := q.step
    let tile := fun (u : State) (f : Nat → Nat → Word) =>
      (∀ r c, r < 256 → c < 384 → inTile r c → u.accAt bid (384 * r + c) = f (r % 32) (c % 32)) ∧
      (∀ r c, r < 256 → c < 384 → ¬ inTile r c → u.accAt bid (384 * r + c) = old r c)
    let was := fun i j => old (32 * (o.t / 12) + i) (32 * (o.t % 12) + j)
    let moved := fun u : State => u.mem = s.mem ∧ u.grps = s.grps ∧ (u.mx bid).hdrs = (s.mx bid).hdrs ∧
      (u.mx bid).opmem = (s.mx bid).opmem ∧ (u.mx bid).scale = (s.mx bid).scale
    let stepped := fun u : State => u.seq bid =
      if k < o.s then { q with step := k + 1 }
      else { q with st := .run, pc := (q.pc + 8) % 2 ^ 57, word := none, step := 0 }
    let byte := fun slot i n =>
      (Tbl.get 0 (s.mx bid).opmem (8192 * slot + swzOffset (s.hdr bid slot).swz 1 i (32 * k + n))).toInt
    let sc := fun (on : Bool) (c i : Nat) =>
      if on then decodeS20 (s.scaleAt bid (c + 32 * k + i)).toNat else (Machine.Num.fin false 1 0 : Machine.Num)
    (states → swizzles → range → ints → ∃ u, exec (.mxMma o) s = .next u ∧ moved u ∧ stepped u ∧ tile u fun i j =>
      was i j + BitVec.ofInt 32 (((List.range 32).map fun n => byte p i n * byte p' j n).foldl (· + ·) 0)) ∧
    (states → swizzles → range → floats → ∃ u, exec (.mxMma o) s = .next u ∧ moved u ∧ stepped u ∧ tile u fun i j =>
      toF32 .rne (Machine.Num.add .rne (f32 (was i j)) (State.mmaV (sc o.sa o.ca i) (sc o.sb o.cb j)
        ((List.range 32).map fun n => (s.operand bid p i (32 * k + n), s.operand bid p' j (32 * k + n)))))) ∧
    (states → swizzles → range → floats → o.sa = false → o.sb = false → microOps q.prog.toNat ≠ [] →
      ∃ u, exec (.mxRec o.t o.pa o.swa o.pb o.swb o.s) s = .next u ∧ moved u ∧
        u.seq bid = { q with st := .run, pc := (q.pc + 8) % 2 ^ 57, word := none } ∧ tile u fun i j =>
        (List.range (32 * (o.s + 1))).foldl (fun x n => microRun (microOps q.prog.toNat) x
          (toF32 .rne (s.operand bid p i n)) (toF32 .rne (s.operand bid p' j n))) (was i j)) ∧
    (k = 0 →
      (¬ states → exec (.mxMma o) s = .next (s.seqFault 4)) ∧
      (states → ¬ swizzles → exec (.mxMma o) s = .next (s.seqFault 2)) ∧
      (states → swizzles → (hp.fmt = 4 ∨ hq.fmt = 4) → ¬ ints → exec (.mxMma o) s = .next (s.seqFault 3)) ∧
      (states → swizzles → floats ∨ ints → ¬ range → exec (.mxMma o) s = .next (s.seqFault 5)))

/-! ### Traversal words -/

/-- 20 R440 to R442, 18 R352, Table 17.14, 19 R380: T.MOV, T.ADD, T.LD and T.CMP write one register of the thread and go
on; BR.T goes to its target exactly where its condition holds; HIT commits the candidate; T.END without sub-queries
outstanding writes the completion record and frees the thread. -/
def Obligations.TraversalRegisters : Prop :=
  ∀ (s : State) (d a b : Nat) (m : BitVec 13),
    let t := s.tp
    let imm := m.signExtend 64
    let sets := fun (i : Instr) (v : Quad) => ∃ u, exec i s = .next u ∧
      s.TrSteps u (fun t => { t with t := u.tp.t }) ∧ u.treg d = v ∧ ∀ k, k ≠ d → u.treg k = s.treg k
    let ends := fun (i : Instr) (st aux : Nat) => exec i s = .next (s.endQuery st aux)
    let lo := fun q : Quad => f32 (q.extractLsb' 0 32)
    let load := fun (i : Instr) (x : Nat) =>
      (∀ dn, x < 256 → t.node = some dn → x % 8 = 0 → x / 8 < (DecDesc.ofQuads dn.desc).children dn.bytes →
        sets i ((DecDesc.ofQuads dn.desc).child dn.bytes (x / 8))) ∧
      (x < 256 → (t.node = none ∨ x % 8 ≠ 0) → ends i 6 x) ∧
      (∀ dn, x < 256 → t.node = some dn → (DecDesc.ofQuads dn.desc).children dn.bytes ≤ x / 8 → ends i 6 x) ∧
      (256 ≤ x → x % 8 ≠ 0 → ends i 6 x) ∧
      (∀ k, 256 ≤ x → x % 8 = 0 → checkAddr t.ncap x 8 pLOAD = .error k → ends i 4 x) ∧
      (∀ bs, 256 ≤ x → x % 8 = 0 → s.NodeBytes x 8 bs → sets i (BitVec.ofNat 64 (State.leNum bs)))
    let cmp := fun (i : Instr) (c : TCmp) (y : Quad) (z : Machine.Num) =>
      (∃ v, sets i v ∧ (v = 0 ∨ v = 1)) ∧
      (c = .eq → (sets i 1 ↔ s.treg a = y)) ∧ (c = .ne → (sets i 1 ↔ s.treg a ≠ y)) ∧
      (c = .lt → (sets i 1 ↔ (s.treg a).toInt < y.toInt)) ∧ (c = .ge → (sets i 1 ↔ y.toInt ≤ (s.treg a).toInt)) ∧
      (c = .ltu → (sets i 1 ↔ (s.treg a).toNat < y.toNat)) ∧ (c = .geu → (sets i 1 ↔ y.toNat ≤ (s.treg a).toNat)) ∧
      (c = .flt → (sets i 1 ↔ FCond.holds .lt (lo (s.treg a)) z = true)) ∧
      (c = .fge → (sets i 1 ↔ FCond.holds .ge (lo (s.treg a)) z = true))
    sets (.tMov d a) (s.treg a) ∧ sets (.tMovImm d m) imm ∧
    sets (.tAdd d a b) (BitVec.ofNat 64 ((s.treg a).toNat + (s.treg b).toNat)) ∧
    sets (.tAddImm d a m) (BitVec.ofInt 64 ((s.treg a).toInt + m.toInt)) ∧
    load (.tLd d a b) (((s.treg a).toNat + (s.treg b).toNat) % 2 ^ 64) ∧
    load (.tLdImm d a m) (s.treg a + imm).toNat ∧
    (∀ c, cmp (.tCmp c d a b) c (s.treg b) (lo (s.treg b)) ∧ cmp (.tCmpImm c d a m) c imm (.ofInt m.toInt)) ∧
    (∀ c (off : BitVec 18),
      let holds := match c with
        | .al => true
        | .z => decide ((s.treg a).toNat = 0)
        | .nz => decide ((s.treg a).toNat ≠ 0)
        | .cle => decide (t.cl = [])
        | .ste => decide (t.stk = [] ∧ t.sd = 0)
        | .rmt => t.rmt
        | .cnd => decide (t.cand ≠ none)
        | .leaf => t.leaf
      exec (.brT c a off) s = .next (s.setTrp s.thr
        { t with pc := if holds then (((t.pc : Int) + 4 * off.toInt) % 2 ^ 57).toNat else (t.pc + 4) % 2 ^ 57 })) ∧
    (t.cand = none → exec .hit s = .next (s.setTrp s.thr { t with pc := (t.pc + 4) % 2 ^ 57 })) ∧
    (∀ c, t.cand = some c →
      let t' : Trp := { t with hit := c, hitValid := true, tmax := c.getD 0 0, cand := none }
      (State.qFIRST t = false → exec .hit s = .next (s.setTrp s.thr { t' with pc := (t.pc + 4) % 2 ^ 57 })) ∧
      (State.qFIRST t = true → exec .hit s = .next ((s.setTrp s.thr t').endQuery 2 (s.treg 15).toNat))) ∧
    (t.subs = [] → t.parts = [] → t.sent = 0 → t.echo = none →
      let key := 4 * s.trCluster + State.qField t 7 0 2
      let q := Tbl.get [] s.cqs key
      let w := fun i => (t.hit.getD i 0).toNat
      let st := if t.hitValid then 2 else 1
      q.length < 256 → ∃ u, exec .tEnd s = .next u ∧ u = { s with trps := u.trps, cqs := u.cqs } ∧ u.tp = {} ∧
        (∀ k, k ≠ s.thr → u.trpAt k = s.trpAt k) ∧ (∀ k, k ≠ key → Tbl.get [] u.cqs k = Tbl.get [] s.cqs k) ∧
        Tbl.get [] u.cqs key = q ++ [{ ctx := t.ctx, words :=
          [BitVec.ofNat 64 (w 1 * 2 ^ 32 + w 0), BitVec.ofNat 64 (w 3 * 2 ^ 32 + w 2),
           BitVec.ofNat 64 (State.qField t 7 32 32 * 2 ^ 32 + st * 2 ^ 24 + min t.nodes 65535), s.treg 15] }]) ∧
    (t.subs ≠ [] → ∃ u, exec .tEnd s = .next u ∧ u = { s with trps := u.trps } ∧ u.tp.phase = .ended ∧
      u.tp.own = some { status := if t.hitValid then 2 else 1, aux := s.treg 15, hit := t.hit, nodes := t.nodes })

/-- 20 R415, R417, R434, 19 R377, R378, 18 R369, 11 R231: the stack of a thread and its frame, EMIT and HANDOFF. A push
onto a full stack and SPILL move the bottom entry to the frame, FILL and POP of an empty stack bring it back; a full frame,
and nothing to bring back, end the query with STACK. EMIT at a misaligned address is BADNODE before NCAP is asked (log 89),
and from the fifth sub-query of a thread on its IDX is the next free one (log 100). -/
def Obligations.TraversalStack : Prop :=
  ∀ (s : State) (a d b : Nat) (pa : Nat → Nat),
    let t := s.tp
    let ends := fun (i : Instr) (st aux : Nat) => exec i s = .next (s.endQuery st aux)
    let sf := State.qSF t
    let full := t.sd = State.qSFLEN t
    let entry := s.treg (a + 1) ++ s.treg a
    let spot := sf + 16 * t.sd
    let below := sf + 16 * (t.sd - 1)
    let stores := fun (i : Instr) (f : Trp → Trp) (bs : List Byte) => ∃ u, exec i s = .next u ∧
      (∀ k, k ≠ s.thr → u.trpAt k = s.trpAt k) ∧ u.tp = { f t with pc := (t.pc + 4) % 2 ^ 57 } ∧
      (∀ i, i < bs.length → u.peek (pa i) = bs.getD i 0) ∧ ∀ x, (∀ i, i < bs.length → x ≠ pa i) → u.peek x = s.peek x
    let keeps := fun (i : Instr) (f : Trp → Trp) => ∃ u, exec i s = .next u ∧ s.TrSteps u f
    let loaded := BitVec.ofNat 128 (State.leNum ((List.range 16).map fun i => s.peek (pa i)))
    let popped := fun (e : BitVec 128) (rest : List (BitVec 128)) (sd : Nat) =>
      (e.toNat / 2 ^ 126 ≠ 3 → e.toNat / 2 ^ 96 % 2 ^ 25 = 0 → ∃ u, exec (.pop d) s = .next u ∧
        s.TrSteps u (fun t => { t with stk := rest, sd, leaf := decide (e.toNat / 2 ^ 126 = 1), t := u.tp.t }) ∧
        u.treg d = e.extractLsb' 0 64 ∧ u.treg (d + 1) = e.extractLsb' 64 64 ∧
        ∀ k, k ≠ d → k ≠ d + 1 → u.treg k = s.treg k)
    (t.stk.length < 4 → keeps (.push a) fun t => { t with stk := t.stk ++ [entry] }) ∧
    (∀ e r, t.stk = e :: r → 4 ≤ t.stk.length → full → ends (.push a) 5 t.pc) ∧
    (∀ e r, t.stk = e :: r → 4 ≤ t.stk.length → ¬ full → s.ThreadAt .write pSTORE spot 16 pa →
      stores (.push a) (fun t => { t with stk := r ++ [entry], sd := t.sd + 1 }) (State.toLe 16 e.toNat)) ∧
    (t.stk.length + t.cl.length ≤ 4 → keeps .pushCl fun t => { t with stk := t.stk ++ t.cl.reverse, cl := [] }) ∧
    (full → ends .spill 5 t.pc) ∧
    (¬ full → t.stk = [] → keeps .spill id) ∧
    (∀ e r, t.stk = e :: r → ¬ full → s.ThreadAt .write pSTORE spot 16 pa →
      stores .spill (fun t => { t with stk := r, sd := t.sd + 1 }) (State.toLe 16 e.toNat)) ∧
    (t.sd = 0 → ends .fill 5 t.pc) ∧
    (0 < t.sd → 4 ≤ t.stk.length → keeps .fill id) ∧
    (0 < t.sd → t.stk.length < 4 → s.ThreadAt .read pLOAD below 16 pa →
      keeps .fill fun t => { t with stk := loaded :: t.stk, sd := t.sd - 1 }) ∧
    (∀ e r, t.stk = r ++ [e] → popped e r t.sd) ∧
    (∀ e r, t.stk = r ++ [e] → e.toNat / 2 ^ 126 = 3 ∨ e.toNat / 2 ^ 96 % 2 ^ 25 ≠ 0 →
      ends (.pop d) 6 (e.toNat % 2 ^ 64)) ∧
    (t.stk = [] → t.sd = 0 → ends (.pop d) 5 t.pc) ∧
    (t.stk = [] → 0 < t.sd → s.ThreadAt .read pLOAD below 16 pa → popped loaded [] (t.sd - 1)) ∧
    ((s.treg a).toNat % 8 ≠ 0 → ends (.emit a b) 6 (s.treg a).toNat) ∧
    ((s.treg a).toNat % 8 = 0 → s.ThreadAt .write pSTORE (s.treg a).toNat 32 pa →
      stores (.emit a b) id ((List.range 32).map fun i =>
        BitVec.ofNat 8 ((s.treg (b + i / 8)).toNat / 2 ^ (8 * (i % 8))))) ∧
    (∀ k, (s.treg a).toNat % 8 = 0 → checkAddr t.ncap (s.treg a).toNat 32 pSTORE = .error k →
      ends (.emit a b) 4 (s.treg a).toNat) ∧
    (t.rmt = false → ends .handoff 6 t.pc) ∧
    (t.rmt = true → State.qNOHAND t = true ∨ t.echo ≠ none → ends .handoff 8 t.rmtPtr.toNat) ∧
    (t.rmt = true → State.qNOHAND t = false → t.echo = none → s.linkUp = false → ends .handoff 9 t.rmtPtr.toNat) ∧
    (t.rmt = true → State.qNOHAND t = false → t.echo = none → s.linkUp = true →
      (4 ≤ t.subs.length → exec .handoff s = .next s) ∧
      (t.subs.length < 4 → ∃ u x, exec .handoff s = .next u ∧ u = { s with trps := u.trps, dev := u.dev } ∧
        u.dev = { s.dev with peerOut := s.dev.peerOut ++ [s.subMessage t.rmtPtr x.idx (t.stk.filter fun e => e.getLsbD 63)] } ∧
        ((∀ y ∈ t.subs, y.idx ≠ t.sent % 4) → x.idx = t.sent % 4) ∧
        x.idx < 4 ∧ (∀ y ∈ t.subs, y.idx < 4 → y.idx ≠ x.idx) ∧ x.ord = t.sent ∧ x.ptr = t.rmtPtr ∧ x.sent = s.clock ∧
        (∀ k, k ≠ s.thr → u.trpAt k = s.trpAt k) ∧
        u.tp = { t with stk := t.stk.filter (fun e => !e.getLsbD 63), subs := t.subs ++ [x], sent := t.sent + 1, rmt := false,
                        pc := (t.pc + 4) % 2 ^ 57 }))

/-- 11 R233, R234, Tables 11.5 to 11.7: the candidates of BOXT are the children whose box the ray meets, by rising near end, ties
by lower child. -/
def Sys2Proof.Claims.BoxTest : Prop :=
  ∀ (b : List Byte) (o d : List Word) (tmin tmax : Word),
    let byte := fun i => (b.getD i 0).toNat
    let num := fun i n => State.leNum ((b.drop i).take n)
    let quat := fun i => Claims.div32 (toF32 .rne (.ofInt (BitVec.ofNat 8 (byte i)).toInt)) (toF32 .rne (.ofInt 127))
    let x := quat 12
    let y := quat 13
    let z := quat 14
    let sq := fun a => Claims.mul32 a a
    let left := Claims.sub32 0x3F800000 (Claims.add32 (Claims.add32 (sq x) (sq y)) (sq z))
    let w := BitVec.ofNat 32 (fp32.sqrt .rne (f32 (if (f32 left).cmp (f32 0) = .gt then left else 0)))
    let row := fun i j => Claims.rotation x y z w j i
    let org := fun i => BitVec.ofNat 32 (num (4 * i) 4)
    let o' := fun i => Claims.along (row i) (fun a => Claims.sub32 (o.getD a 0) (org a))
    let inv := fun i => Claims.div32 0x3F800000 (Claims.along (row i) (fun a => d.getD a 0))
    let lt := fun u v : Word => f32IsNan u = false ∧ f32IsNan v = false ∧ (f32 u).cmp (f32 v) = .lt
    let le := fun u v : Word => f32IsNan u = false ∧ f32IsNan v = false ∧ (f32 u).cmp (f32 v) ≠ .gt
    -- the place of a number in the order of FP32 encodings, both zeros at 0
    let place := fun u : Word => if u.getLsbD 31 then -((u.toNat - 2 ^ 31 : Nat) : Int) else (u.toNat : Int)
    ∃ near far : Nat → Nat → Word, ∃ tn tf : Nat → Word, ∃ cs : List Nat,
      (∀ c a, c < 8 → a < 3 →
        let t := fun i => Claims.mul32 (toF32 .rne
          ((Machine.Num.fin false (byte (i + 6 * c + a)) ((byte (16 + a) : Int) - 127)).add .rne (f32 (o' a)).neg)) (inv a)
        let t1 := t 32
        let t2 := t 35
        (f32IsNan t1 = true ∨ f32IsNan t2 = true → near c a = 0xFF800000 ∧ far c a = 0x7F800000) ∧
        (f32IsNan t1 = false → f32IsNan t2 = false →
          (near c a = t1 ∧ far c a = t2 ∨ near c a = t2 ∧ far c a = t1) ∧ le (near c a) (far c a))) ∧
      (∀ c, c < 8 → ∃ u v a a', a < 3 ∧ a' < 3 ∧ u = near c a ∧ v = far c a' ∧
        (∀ k, k < 3 → le (near c k) u ∧ le v (far c k)) ∧
        (if u.toNat % 2 ^ 31 = 0x7F800000 then tn c = u else place (tn c) = max (place u - 4) (-0x7F800000)) ∧
        (if v.toNat % 2 ^ 31 = 0x7F800000 then tf c = v else place (tf c) = min (place v + 4) 0x7F800000)) ∧
      (∀ c, c ∈ cs ↔ c < 8 ∧ (byte 15).testBit c = true ∧ le (tn c) (tf c) ∧ le tmin (tf c) ∧ le (tn c) tmax ∧
        ∀ a, a < 3 → byte (32 + 6 * c + a) ≤ byte (35 + 6 * c + a)) ∧
      cs.Pairwise (fun c c' => lt (tn c) (tn c') ∨ ¬ lt (tn c') (tn c) ∧ c < c') ∧
      boxTest b o d tmin tmax = cs.map fun c =>
        let word := num (80 + 4 * c) 4
        let leaf := word.testBit 30
        let off := word % 2 ^ (if leaf then 25 else 30)
        let ptr := (if word.testBit 31 then 2 ^ 63 else 0) + (num 24 8 + 16 * off) % 2 ^ 57
        BitVec.ofNat 128 (ptr + 2 ^ 64 * ((tn c).toNat + if leaf then 2 ^ 57 * (word / 2 ^ 25 % 32) + 2 ^ 62 else 0))

/-- 20 R446: the edge functions of TRIT, its refusal and its three quotients, each rounded once from the exact value; an exact
zero is +0. Points and directions are exact, in units of 2^−149. -/
def Sys2Proof.Claims.TriangleTest : Prop :=
  (∀ (l : List Word) (v : V3), exactV l = some v ↔
    ∀ i, i < 3 → ∃ s m e, f32 (l.getD i 0) = .fin s m e ∧
      Claims.value s m e = ((if i = 0 then v.1 else if i = 1 then v.2.1 else v.2.2 : Int) : ℚ) / 2 ^ 149) ∧
  ∀ o d p0 p1 p2 : V3,
    let triple := fun (u v w : V3) => u.1 * (v.2.1 * w.2.2 - v.2.2 * w.2.1) + u.2.1 * (v.2.2 * w.1 - v.1 * w.2.2) +
      u.2.2 * (v.1 * w.2.1 - v.2.1 * w.1)
    let less := fun (u v : V3) => ((u.1 - v.1, u.2.1 - v.2.1, u.2.2 - v.2.2) : V3)
    let edge := fun p q => triple d (less p o) (less q o)
    let e0 := edge p1 p2
    let e1 := edge p2 p0
    let e2 := edge p0 p1
    let misses := e0 = 0 ∧ e1 = 0 ∧ e2 = 0 ∨ (e0 < 0 ∨ e1 < 0 ∨ e2 < 0) ∧ (0 < e0 ∨ 0 < e1 ∨ 0 < e2)
    let is := fun (w : Word) (n m : Int) => if n = 0 then w = 0
      else Claims.Rounded fp32 .rne (decide (n < 0) != decide (m < 0)) id |(n : ℚ) / m| w.toNat
    (misses → triTest o d p0 p1 p2 = none) ∧
    (¬ misses → ∃ z, triTest o d p0 p1 p2 = some z ∧
      is z.1 (triple (less p0 o) (less p1 p0) (less p2 p0)) (triple d (less p1 p0) (less p2 p0)) ∧
      is z.2.1 e1 (e0 + e1 + e2) ∧ is z.2.2 e2 (e0 + e1 + e2))

/-- 18 R367, 11 R236, 05 R105: the sum of DIST is exact and rounded once to FP32 under RNE; an exact zero is +0, a NaN term or
infinite terms of both signs give the default NaN, infinite terms of one sign that infinity. -/
def Sys2Proof.Claims.DistanceSum : Prop :=
  ∀ (metric : Nat) (ps : List (Machine.Num × Machine.Num)), metric < 2 →
    let term := fun (p : Machine.Num × Machine.Num) =>
      if metric = 0 then (p.1.add .rne p.2.neg).mul (p.1.add .rne p.2.neg) else (p.1.mul p.2).neg
    let w := distOf metric ps
    ((∃ p ∈ ps, term p = .nan) → w = 0x7FC00000) ∧
    ((∃ p ∈ ps, term p = .inf true) → (∃ p ∈ ps, term p = .inf false) → w = 0x7FC00000) ∧
    (∀ z, (∃ p ∈ ps, term p = .inf z) → (∀ p ∈ ps, term p ≠ .nan ∧ term p ≠ .inf (!z)) →
      w = if z then 0xFF800000 else 0x7F800000) ∧
    (∀ v : Machine.Num × Machine.Num → ℚ, (∀ p ∈ ps, ∃ s m e, term p = .fin s m e ∧ v p = Claims.value s m e) →
      let sum := (ps.map v).sum
      if sum = 0 then w = 0 else Claims.Rounded fp32 .rne (decide (sum < 0)) id |sum| w.toNat)

/-- 19 R410, R408, R409, 18 R351, R367, 20 R445, R446, 19 R389, 11 R242: the words that read nodes. A REMOTE pointer is
noted and nothing is read; a misaligned node, a reserved bit or a failed check ends the query; a line that is not in the
node cache makes the thread wait. -/
def Sys2Proof.Claims.NodeWords : Prop :=
  ∀ (s : State) (d a b : Nat),
    let t := s.tp
    let ends := fun (i : Instr) (st aux : Nat) => exec i s = .next (s.endQuery st aux)
    let keeps := fun (i : Instr) (f : Trp → Trp) => ∃ u, exec i s = .next u ∧ s.TrSteps u f
    let num := fun (bs : List Byte) (i n : Nat) => State.leNum ((bs.drop i).take n)
    let quads := fun bs => (List.range 4).map fun i => BitVec.ofNat 64 (num bs (8 * i) 8)
    let p := (s.treg a).toNat
    let q := (s.treg b).toNat
    -- NFETCH
    (2 ^ 63 ≤ p → keeps (.nfetch a) fun t => { t with rmt := true, rmtPtr := s.treg a, node := none, wide := none }) ∧
    (p < 2 ^ 63 → (2 ^ 57 ≤ p ∨ p % 128 ≠ 0) → ends (.nfetch a) 6 p) ∧
    (∀ k, p < 2 ^ 57 → p % 128 = 0 → checkAddr t.ncap p 128 pLOAD = .error k → ends (.nfetch a) 4 p) ∧
    (∀ bs, p < 2 ^ 57 → p % 128 = 0 → s.NodeBytes p 128 bs → keeps (.nfetch a) fun t =>
      { t with rmt := false, wide := some { va := p, bytes := bs }, nodes := min (t.nodes + 1) 65535 }) ∧
    (∀ k x, p < 2 ^ 57 → p % 128 = 0 → checkAddr t.ncap p 128 pLOAD = .ok k →
      State.findTlb (Tbl.get [] s.l1tlb s.trCore) t.ctx p = some x → x.permits .read = true → s.fwRefused t.ctx x p = false →
      x.tgt = 0 → (s.dir (State.lineOf (State.Tlb.pa x p))).ctr = false →
      Tbl.get none s.ncache (64 * State.lineOf (State.Tlb.pa x p) + s.trCluster) = none →
      exec (.nfetch a) s = .next (s.setTrp s.thr { t with miss := some (State.lineOf (State.Tlb.pa x p)) })) ∧
    -- NDEC
    (2 ^ 63 ≤ q → keeps (.ndec a b) fun t => { t with rmt := true, rmtPtr := s.treg b, node := none }) ∧
    (q < 2 ^ 63 → p % 32 ≠ 0 → ends (.ndec a b) 6 p) ∧
    (∀ ds, q < 2 ^ 63 → p % 32 = 0 → s.NodeBytes p 32 ds →
      let x := DecDesc.ofQuads (quads ds)
      (x.bad = true → ends (.ndec a b) 6 p) ∧
      (x.bad = false → (2 ^ 57 ≤ q ∨ q % 16 ≠ 0) → ends (.ndec a b) 6 q) ∧
      (∀ bs, x.bad = false → q < 2 ^ 57 → q % 16 = 0 → s.NodeBytes q (16 * x.nsz) bs →
        (x.nodeBad bs = true → ends (.ndec a b) 6 q) ∧
        (x.nodeBad bs = false → keeps (.ndec a b) fun t =>
          { t with rmt := false, node := some { va := q, desc := quads ds, bytes := bs }, nodes := min (t.nodes + 2) 65535 }))) ∧
    -- BOXT and TRIT
    (t.wide = none → ends .boxt 6 t.pc) ∧
    (∀ w, t.wide = some w → (wideBad w.bytes = true → ends .boxt 6 w.va) ∧
      (wideBad w.bytes = false → keeps .boxt fun t => { t with cl := boxTest w.bytes t.o t.d t.tmin t.tmax })) ∧
    (∀ i x, i = Instr.trit a ∧ x = p ∨ (∃ m, i = Instr.tritImm a m ∧ x = (s.treg a + m.signExtend 64).toNat) →
      (x % 16 ≠ 0 → ends i 6 x) ∧
      (∀ bs, x % 16 = 0 → s.NodeBytes x 48 bs →
        (num bs 40 8 ≠ 0 → ends i 6 x) ∧
        (num bs 40 8 = 0 → ∃ u, exec i s = .next u ∧ s.TrSteps u (fun t => { t with cand := u.tp.cand }) ∧
          let v := fun k => exactV ((List.range 3).map fun i => BitVec.ofNat 32 (num bs (12 * k + 4 * i) 4))
          (∀ c, u.tp.cand = some c → ∃ o d' p0 p1 p2 z, exactV t.o = some o ∧ exactV t.d = some d' ∧ v 0 = some p0 ∧
            v 1 = some p1 ∧ v 2 = some p2 ∧ triTest o d' p0 p1 p2 = some z ∧
            c = [z.1, BitVec.ofNat 32 (num bs 36 4), z.2.1, z.2.2] ∧ f32Le t.tmin z.1 = true ∧ f32Le z.1 t.tmax = true) ∧
          (u.tp.cand = none → ∀ o d' p0 p1 p2 z, exactV t.o = some o → exactV t.d = some d' → v 0 = some p0 →
            v 1 = some p1 → v 2 = some p2 → triTest o d' p0 p1 p2 = some z →
            f32Le t.tmin z.1 = false ∨ f32Le z.1 t.tmax = false)))) ∧
    -- DIST and KCMP
    (t.node = none → ends (.dist d a) 6 t.pc ∧ ends (.kcmp d a) 6 t.pc) ∧
    (∀ dn, t.node = some dn →
      let x := DecDesc.ofQuads dn.desc
      let sets := fun (i : Instr) (v : Quad) => ∃ u, exec i s = .next u ∧
        s.TrSteps u (fun t => { t with t := u.tp.t }) ∧ u.treg d = v ∧ ∀ k, k ≠ d → u.treg k = s.treg k
      let es := vecBytes x.vtype
      let elem := fun (bs : List Byte) i => decodeFmt (vecFmt x.vtype) (num bs (i * es) es)
      (x.kind ≠ 2 → ends (.dist d a) 6 t.pc) ∧
      (x.kind = 2 → p % es ≠ 0 → ends (.dist d a) 6 p) ∧
      (∀ vs qs, x.kind = 2 → p % es = 0 → s.NodeBytes (nodeNum dn.bytes x.voff 8) (x.vdim * es) vs →
        s.NodeBytes p (x.vdim * es) qs → sets (.dist d a)
          ((distOf x.metric ((List.range x.vdim).map fun i => (elem qs i, elem vs i))).zeroExtend 64)) ∧
      (x.kind = 2 → ends (.kcmp d a) 6 t.pc) ∧
      (x.kind = 1 → sets (.kcmp d a) (BitVec.ofNat 64 (((List.range (x.count dn.bytes)).filter fun j =>
        !keyLt (keyVal x.ktype p) (x.key dn.bytes j)).length))) ∧
      (x.kind = 0 → let ax := nodeByte dn.bytes x.axoff
        (2 < ax ∨ 15 < a + ax → ends (.kcmp d a) 6 dn.va) ∧
        (ax ≤ 2 → a + ax ≤ 15 → sets (.kcmp d a)
          (if keyLt (keyVal x.ktype (s.treg (a + ax)).toNat) (x.key dn.bytes 0) then 0 else 1))))

/-- The words that read nodes, and the arithmetic of BOXT, TRIT and DIST. -/
def Obligations.TraversalNodes : Prop :=
  Claims.NodeWords ∧ Claims.BoxTest ∧ Claims.TriangleTest ∧ Claims.DistanceSum

/-! ### Messages of the home -/

/-- 08 R157 to R165: the messages that carry a line between the home and its holders. Each does its part of a read, own or
fill request, and none changes the value of a byte. -/
def Obligations.CoherenceMessages : Prop :=
  ∀ (s : State) (line : Nat), s.L1Ok →
    let d := s.dir line
    let txn := s.txns.lookup line
    let on := fun ag => ag < 152 ∧ s.agentOn ag = true ∧ s.l1Core ag line = ag ∧ d.ctr = false
    let free := (d.st = .x → d.cpe = false) ∧ s.farOf line = [] ∧ s.noWay line = false
    let ahead := (s.farOf line).length
    let same := fun t : State => ∀ a, t.peek a = s.peek a
    let keeps := fun (i : Instr) (P : State → Prop) => ∃ t, exec i s = .next t ∧ P t ∧ same t ∧ t.blks = s.blks
    let starts := fun (i : Instr) (x : Txn) =>
      ∃ t, exec i s = .next t ∧ t.txns.lookup line = some x ∧ t.dirs = s.dirs ∧ t.lines = s.lines ∧ t.mem = s.mem
    (∀ ag, on ag → free → txn = none →
      (d.st = .i → d.coarse = false → d.ptrs = [] → s.hasRoom ag line = true → keeps (.readRequest ag line) fun t =>
        (t.dir line).st = .s ∧ (t.dir line).ptrs = [ag] ∧ (t.l1 ag line).valid = -1 ∧ t.txns.lookup line = none) ∧
      (∀ o r, d.st = .x → d.cpe = false → d.ptrs = o :: r → o ≠ ag →
        starts (.readRequest ag line) { kind := .read ag, msgs := [.recall o true] })) ∧
    (∀ c data, on c → free → txn = none →
      (d.st = .i → keeps (.ownRequest c line data) fun t =>
        t.txns.lookup line = some { kind := .own c data, granted := true }) ∧
      (d.st = .s → d.coarse = false → starts (.ownRequest c line data)
        { kind := .own c data, granted := true, ackn := (d.ptrs.filter (· != c)).length,
          msgs := (d.ptrs.filter (· != c)).map fun a => .inv a c }) ∧
      (∀ o r, d.st = .x → d.cpe = false → d.ptrs = o :: r → o ≠ c →
        starts (.ownRequest c line data) { kind := .own c data, msgs := [.recall o false] })) ∧
    (∀ c data x, on c → txn = some x →
      starts (.ownRequest c line data) { x with queue := x.queue ++ [(ahead, .own c data)] }) ∧
    (∀ c, on c → ¬ free → txn = none → starts (.readRequest c line) { kind := .idle, queue := [(ahead, .read c)] }) ∧
    (∀ ag, s.agentOn ag = false → exec (.readRequest ag line) s = .next s) ∧
    (∀ c, on c → (s.l1 c line).owned = true → free → txn = none →
      keeps (.fillRequest c line) fun t => t.l1 c line = { s.l1 c line with valid := -1 }) ∧
    (∀ x ag dst, txn = some x → CohMsg.inv ag dst ∈ x.msgs → (ag < 152 → (s.l1 ag line).dirty = 0) →
      keeps (.invalidationReceipt ag line) fun t =>
        (ag < 152 → (t.l1 ag line).valid = 0 ∧ (t.l1 ag line).owned = false) ∧
        (152 ≤ ag → Tbl.get none t.ncache (64 * line + (ag - 152)) = none) ∧
        ∃ y e, t.txns.lookup line = some y ∧ CohMsg.ack ag e ∈ y.msgs ∧ CohMsg.inv ag e ∈ x.msgs ∧
          y.msgs.length = x.msgs.length) ∧
    (∀ x c data a, txn = some x → x.kind = .own c data → x.granted = true → CohMsg.ack a c ∈ x.msgs →
      CohMsg.completion c ∉ x.msgs → (s.l1 c line).owned = false →
      (x.acks + 1 = x.ackn → keeps (.acknowledgement c line) fun t =>
        (s.hasRoom c line = true → (t.l1 c line).owned = true ∧
          (t.l1 c line).valid = if data then -1 else (s.l1 c line).valid) ∧
        (s.hasRoom c line = false → t.lines = s.lines) ∧
        ∃ y, t.txns.lookup line = some y ∧ y.acks = x.ackn ∧ CohMsg.completion c ∉ y.msgs) ∧
      (x.acks + 1 ≠ x.ackn → keeps (.acknowledgement c line) fun t => t.lines = s.lines ∧
        ∃ y, t.txns.lookup line = some y ∧ y.acks = x.acks + 1 ∧ CohMsg.completion c ∉ y.msgs)) ∧
    -- between the last acknowledgement and the completion the requester writes the line (R161 step 3)
    (∀ x c data, txn = some x → x.kind = .own c data → x.granted = true → x.acks = x.ackn → (∀ a, CohMsg.ack a c ∉ x.msgs) →
      (s.l1 c line).owned = true → keeps (.acknowledgement c line) fun t => t.lines = s.lines ∧
        ∃ y, t.txns.lookup line = some y ∧ y.acks = x.acks ∧ CohMsg.completion c ∈ y.msgs) ∧
    (∀ x c data, txn = some x → x.kind = .own c data → CohMsg.completion c ∈ x.msgs → x.queue = [] →
      keeps (.ownCompletion line) fun t => t.txns.lookup line = none ∧
        t.dir line = { d with st := .x, coarse := false, cpe := false, shr := 0, ptrs := [c] }) ∧
    (∀ x c data o down, txn = some x → x.kind = .own c data → x.msgs = [.recall o down] →
      keeps (.recallLine line) fun t => t.txns.lookup line = some { x with msgs := [], granted := true } ∧
        (t.dir line).st = .i ∧ (t.dir line).ptrs = [] ∧ (down = false → o < 152 → (t.l1 o line).owned = false)) ∧
    (∀ x ag o r, txn = some x → x.kind = .read ag → x.msgs = [.recall o true] → x.queue = [] → ag < 152 → o < 152 →
      d.st = .x → d.cpe = false → d.ptrs = o :: r → o ≠ ag → s.hasRoom ag line = true → keeps (.recallLine line) fun t =>
        t.txns.lookup line = none ∧ (t.dir line).st = .s ∧ (t.dir line).ptrs = [o, ag] ∧ (t.l1 o line).owned = false ∧
        (t.l1 ag line).valid = -1) ∧
    (txn = none → keeps (.writeBack line) fun t => t.dirs = s.dirs ∧
      (∀ p ∈ t.lines, p.1 / 256 = line → p.2.dirty = 0) ∧
      ∀ i, i < 128 → Tbl.get 0 t.mem (128 * line + i) = s.peek (128 * line + i)) ∧
    (∀ c, c < 152 → (s.l1 c line).pins = 0 → txn = none → keeps (.evictionNotice c line) fun t =>
      (t.l1 c line).owned = false ∧ (t.l1 c line).valid = 0 ∧
        ((s.l1 c line).owned = true → (t.dir line).st = .i ∧ (t.dir line).ptrs = []) ∧
        ((s.l1 c line).owned = false → d.st = .s → d.coarse = false → c ∉ (t.dir line).ptrs)) ∧
    (∀ c, 152 ≤ c → d.st = .s → d.coarse = false → txn = none → keeps (.evictionNotice c line) fun t =>
      Tbl.get none t.ncache (64 * line + (c - 152)) = none ∧ (t.dir line).ptrs = d.ptrs.filter (· != c)) ∧
    (∀ c, (s.l1 c line).pins ≠ 0 → c < 152 → exec (.evictionNotice c line) s = .next s)

/-- 08 R168, R117: a reduction sent enters the queue of its line, up to 15, and the line is resident from then on; while its set
has no way for the line it waits (log 73). The home applies the oldest. -/
def Sys2Proof.Claims.FarReductions : Prop :=
  ∀ (s : State) (i line : Nat) (r : FarRed),
    (s.farSent[i]? = some r → r.cause = 0 → (s.farOf (State.lineOf r.pa)).length < 15 → s.noWay (State.lineOf r.pa) = false →
      s.L1Ok → ∃ t, exec (.farReductionAccept i) s = .next t ∧ t.farSent = s.farSent.eraseIdx i ∧
        State.lineOf r.pa ∈ t.l2Ways (State.lineOf r.pa) ∧ (∀ a, t.peek a = s.peek a) ∧
        (State.lineOf r.pa ∈ s.l2Ways (State.lineOf r.pa) →
          t = { s with farSent := s.farSent.eraseIdx i, farQ := t.farQ }) ∧
        t.farOf (State.lineOf r.pa) = s.farOf (State.lineOf r.pa) ++ [r] ∧
        ∀ l, l ≠ State.lineOf r.pa → t.farOf l = s.farOf l) ∧
    (s.farSent[i]? = some r → r.cause = 0 →
      15 ≤ (s.farOf (State.lineOf r.pa)).length ∨ s.noWay (State.lineOf r.pa) = true →
      exec (.farReductionAccept i) s = .next s) ∧
    (∀ rest, s.farOf line = r :: rest → State.lineOf r.pa = line → s.lineHeld line = false → (s.dir line).ctr = false →
      s.bad r.pa (atomBytes r.z) = false →
      ∃ t, exec (.farReductionApply line) s = .next t ∧ t.farOf line = rest ∧ (∀ l, l ≠ line → t.farOf l = s.farOf l) ∧
        (∀ k, k < atomBytes r.z → t.peek (r.pa + k) = BitVec.ofNat 8 ((atomApply r.op r.z (RMode.ofBits r.rm)
          (BitVec.ofNat 64 (State.leNum (s.peekBytes r.pa (atomBytes r.z)))) r.operand 0).toNat / 2 ^ (8 * k))) ∧
        ∀ b, b < r.pa ∨ r.pa + atomBytes r.z ≤ b → t.peek b = s.peek b)

/-- Reductions, sent and applied. -/
def Obligations.Reductions : Prop :=
  Claims.Reduction ∧ Claims.FarReductions

/-- 08 R174 to R176: units and takes at the home of a counter. A take that RESERVE covers gets its n and, with a limit, an
allowance; one that it does not cover recalls the holders, then fails or joins the waiting list; units that arrive join
RESERVE and serve the list from its head, and answer the word that has sent them (log 93); the last response of a recall
decides the take. -/
def Sys2Proof.Claims.CounterHome : Prop :=
  ∀ (s : State) (i : Nat) (m : CtrMsg), s.ctrMsgs[i]? = some m → s.firstOfChannel i m = true → m.core < 152 →
    m.arrived = false →
    let pa := m.pa
    let line := State.lineOf pa
    let held := (s.allows.filter fun p => p.1 / 256 == pa / 64).foldl (fun n p => n + p.2.allow) 0
    let r := s.ctrReserve pa + m.units
    let h := ((s.ctrHolders pa).filter (· != m.core)).length
    let waiting := Tbl.get [] s.ctrWait (pa / 64)
    let ready := fun (t : State) (gid slot : Nat) (v : Quad) =>
      (t.slotAt gid slot).answer = some v ∧ (t.slotAt gid slot).wait = .ready ∧ (t.slotAt gid slot).waitFor = .memory
    let answers := fun (t : State) (gid slot : Nat) (v : Quad) => (s.slotAt gid slot).waitFor = .take → ready t gid slot v
    r ≤ 2 ^ 48 - 1 - held →
    (∀ n gid slot wait, m.kind = .take n gid slot wait → (s.slotAt gid slot).waitFor = .take → s.takeHeld line = false →
      State.queued s.ctrMsgs line = false → s.ctrCentral pa = false →
      (s.ctrInit pa = false → ∃ t, exec (.homeTake i) s = .next t ∧ answers t gid slot (BitVec.ofNat 64 (2 ^ 63))) ∧
      (s.ctrInit pa = true → waiting = [] → n ≤ r → (s.allowsOf m.core).length < 64 →
        let cap := s.ctrCap pa
        let grant := if cap = 0 then n else min r (min (n + cap) (max n (r / (2 * (h + 1)))))
        ∃ t, exec (.homeTake i) s = .next t ∧ answers t gid slot 1 ∧ t.ctrReserve pa = r - grant ∧
          t.ctrMsgs = s.ctrMsgs.eraseIdx i ∧ (n < grant → t.hasAllow pa m.core = true ∧
            (t.allowOf pa m.core).allow = grant - n ∧ t.holds pa m.core = true)) ∧
      (s.ctrInit pa = true → waiting = [] → r < n → h = 0 →
        (wait = false → ∃ t, exec (.homeTake i) s = .next t ∧ answers t gid slot 0 ∧ t.ctrReserve pa = r) ∧
        (wait = true → ∃ t, exec (.homeTake i) s = .next t ∧ t.ctrCentral pa = true ∧ t.ctrReserve pa = r ∧
          Tbl.get [] t.ctrWait (pa / 64) = [{ who := .split gid slot, n }])) ∧
      (s.ctrInit pa = true → waiting = [] → r < n → 0 < h → (∀ c, Tbl.get false s.left c = false) → ∃ t x, exec (.homeTake i) s = .next t ∧
        t.txns.lookup line = some x ∧ x.kind = .counter pa m.core n gid slot wait m.va m.ctx ∧ x.ackn = h ∧ x.acks = 0 ∧
        t.ctrMsgs = s.ctrMsgs.eraseIdx i ++ ((s.ctrHolders pa).filter (· != m.core)).map fun c =>
          { pa, core := c, kind := .recallResponse, units := (s.allowOf pa c).allow })) ∧
    (m.kind = .give → s.ctrInit pa = true → s.ctrCentral pa = false →
      ∃ t, exec (.homeGive i) s = .next t ∧ t.ctrReserve pa = r ∧ t.ctrMsgs = s.ctrMsgs.eraseIdx i) ∧
    (∀ gid slot v, m.kind = .sent gid slot v → s.ctrCentral pa = false → ∃ t, exec (.homeGive i) s = .next t ∧
      (s.ctrInit pa = true → t.ctrReserve pa = r) ∧ (s.ctrInit pa = false → ∀ b, t.peek b = s.peek b) ∧
      t.ctrMsgs = s.ctrMsgs.eraseIdx i ∧ ((s.slotAt gid slot).waitFor = .give →
        ready t gid slot (v.getD (if s.ctrInit pa then 0 else BitVec.ofNat 64 (2 ^ 63))))) ∧
    (∀ gid slot n, m.kind = .give → s.ctrInit pa = true → s.ctrCentral pa = true →
      waiting = [{ who := .split gid slot, n }] → n ≤ r →
      ∃ t, exec (.homeGive i) s = .next t ∧ t.ctrReserve pa = r - n ∧ answers t gid slot 1 ∧
        t.ctrCentral pa = false ∧ Tbl.get [] t.ctrWait (pa / 64) = []) ∧
    (∀ x n gid slot wait core va ctx, m.kind = .recallResponse → s.ctrInit pa = true → s.ctrCentral pa = false →
      s.txns.lookup line = some x → x.kind = .counter pa core n gid slot wait va ctx →
      (x.acks + 1 < x.ackn → ∃ t, exec (.recallResponse i) s = .next t ∧ t.ctrReserve pa = r ∧
        t.holds pa m.core = false ∧ t.txns.lookup line = some { x with acks := x.acks + 1 }) ∧
      (x.ackn ≤ x.acks + 1 → waiting = [] → r < n → wait = false →
        ∃ t, exec (.recallResponse i) s = .next t ∧ t.ctrReserve pa = r ∧ answers t gid slot 0 ∧
          t.txns.lookup line = none))

/-- Allocation counters at the core and at the home. -/
def Obligations.Counters : Prop :=
  Claims.CounterTakeGive ∧ Claims.CounterAnswers ∧ Claims.CounterInitRead ∧ Claims.CounterHome

/-! ### The fault unit -/

/-- 09 R187, R191 to R193, Table 9.4, Table 9.5, 08 R170: a held record goes to the ring, unless it is full; FLT_HEAD; a
resolve lets the split that waits on a covered record go on; an invalidation removes the covered translations; clearing
the reduction fault count releases the splits held at it; a walk caches what it finds. That the removal is done at once, at
the write to FLT_INVCTL, is the model's choice (log 34); `free` is the model's own field. -/
def Obligations.FaultUnit : Prop :=
  ∀ (s : State) (v : BitVec 64),
    let covered := fun (ctx code base : Nat) (x : Tlb) => x.ctx = ctx ∧ (code = 4 ∨ ∃ a bits,
      (code = 0 ∧ bits = 12 ∨ code = 1 ∧ bits = 16 ∨ code = 2 ∧ bits = 21 ∨ code = 3 ∧ bits = 30) ∧
        a / 2 ^ bits = base / 2 ^ bits ∧ a / 2 ^ x.size = x.vpage)
    (∀ r rest, s.flt.held = r :: rest → s.farQ = [] →
      let n := 2 ^ s.fltBits
      let tail := s.flt.tail.toNat % n
      let head := s.flt.head.toNat % n
      let host := s.flt.ringbase.getLsbD 63
      let a := s.flt.ringbase.toNat / 2 ^ 12 % 2 ^ 45 * 4096 + 32 * tail
      let bytes := State.toLe 8 (r.va % 2 ^ 57) ++ State.toLe 8 (r.cause * 2 ^ 56 + r.source * 2 ^ 52 + r.access * 2 ^ 50 +
        r.level * 2 ^ 47 + r.ctx * 2 ^ 16 + r.fid) ++ State.toLe 8 (r.block * 2 ^ 32 + r.card) ++
        State.toLe 8 (r.pcore * 2 ^ 56 + r.group * 2 ^ 51 + r.slot * 2 ^ 49 + r.unf.toNat)
      ((tail + 1) % n = head → exec .faultRecord s = .next s) ∧
      ((tail + 1) % n ≠ head → (host = false → s.lineHeld (State.lineOf a) = false ∧
          (s.dir (State.lineOf a)).ctr = false ∧ s.bad (State.lineOf a * 128) 128 = false) →
        ∃ t, exec .faultRecord s = .next t ∧ t.flt.held = rest ∧ t.flt.tail.toNat = (tail + 1) % n ∧
          t.flt.open_ = s.flt.open_ ∧ t.dev.msi = (if tail = head then s.dev.msi ++ [0] else s.dev.msi) ∧
          (host = true → t.mem = s.mem ∧ ∀ i, i < 32 → Tbl.get 0 t.hostMem (a + i) = bytes.getD i 0) ∧
          (host = false → (∀ i, i < 32 → t.peek (a + i) = bytes.getD i 0) ∧
            ∀ b, b < a ∨ a + 32 ≤ b → t.peek b = s.peek b))) ∧
    (s.flt.held = [] → exec .faultRecord s = .next s) ∧
    (s.dev.bootDone = true → exec (.fltHeadWrite v) s = .next { s with flt := { s.flt with head := v } }) ∧
    (s.dev.bootDone = true → Tbl.wf [] s.l1tlb = true → Tbl.wf [] s.l2tlb = true →
      let ctx := v.toNat / 2 ^ 16 % 2 ^ 16
      let base := s.flt.invva.toNat / 2 ^ 12 % 2 ^ 45 * 4096
      ∃ t pages, exec (.invalidation v) s = .next t ∧ t = { s with l1tlb := t.l1tlb, l2tlb := t.l2tlb, flt := t.flt } ∧
        t.flt = { s.flt with invctl := BitVec.ofNat 64 (2 ^ 63 + ctx * 2 ^ 16 + v.toNat % 8),
                             invalidating := s.flt.invalidating ++ [(ctx, v.toNat % 8, base, pages)] } ∧
        (∀ p, p ∈ pages ↔ ∃ c x, (x ∈ Tbl.get [] s.l1tlb c ∨ x ∈ Tbl.get [] s.l2tlb c) ∧
          covered ctx (v.toNat % 8) base x ∧ p = (x.vpage, x.size)) ∧
        (∀ c x, x ∈ Tbl.get [] t.l1tlb c ↔ x ∈ Tbl.get [] s.l1tlb c ∧ ¬ covered ctx (v.toNat % 8) base x) ∧
        ∀ c x, x ∈ Tbl.get [] t.l2tlb c ↔ x ∈ Tbl.get [] s.l2tlb c ∧ ¬ covered ctx (v.toNat % 8) base x) ∧
    (let left := fun x : Nat × Nat × Nat × List (Nat × Nat) => s.translatedLeft x.1 x.2.1 x.2.2.1 x.2.2.2
     ∃ t, exec .invalidationComplete s = .next t ∧
       t = { s with hist := t.hist,
                    flt := { s.flt with invctl := t.flt.invctl, invalidating := s.flt.invalidating.filter left } } ∧
       (∀ x ∈ s.flt.invalidating, left x = false → (∃ p ∈ s.cards, p.2.since.isSome = true) →
         ∃ h ∈ t.hist, h.moved = some x.1) ∧
       ((∃ x ∈ s.flt.invalidating, left x = true) → t.flt.invctl = s.flt.invctl) ∧
       ((∀ x ∈ s.flt.invalidating, left x = false) → t.flt.invctl.toNat = s.flt.invctl.toNat % 2 ^ 63)) ∧
    (∀ req r g k p, s.dev.bootDone = true → s.dev.posted = [] → s.flt.open_ = [r] → r.party = .split g k →
      (s.blk (g / 32)).phase ≠ .swapped → (s.slotAt g k).parked = some p → (∀ x ∈ p.lanes, x.out = none) →
      p.fetch = true ∨ p.lanes ≠ [] →
      let base := s.flt.resva.toNat / 2 ^ 12 % 2 ^ 45 * 4096
      let hit := r.ctx = v.toNat / 2 ^ 16 % 2 ^ 16 ∧ (v.toNat % 8 = 4 ∨
        (v.toNat % 8 = 0 ∧ r.va / 2 ^ 12 = base / 2 ^ 12) ∨ (v.toNat % 8 = 1 ∧ r.va / 2 ^ 16 = base / 2 ^ 16) ∨
        (v.toNat % 8 = 2 ∧ r.va / 2 ^ 21 = base / 2 ^ 21) ∨ (v.toNat % 8 = 3 ∧ r.va / 2 ^ 30 = base / 2 ^ 30))
      (hit → ∃ t, exec (.resolve req v) s = .next t ∧ t.flt.open_ = [] ∧ t.mem = s.mem ∧
        t.slotAt g k = { s.slotAt g k with wait := .ready, parked := some ({ p with pages := [], resolved := true } : Parked) }) ∧
      (¬ hit → exec (.resolve req v) s = .next s)) ∧
    (s.dev.bootDone = true → ∃ t, exec (.fltRfcountClear 0) s = .next t ∧ t.mem = s.mem ∧ t.blks = s.blks ∧
      let c := s.flt.rfsel.toNat % 2 ^ 16
      (t.ctx c).rfcount = (if Tbl.has s.ctxs c then 0 else (s.ctx c).rfcount) ∧ (∀ d, d ≠ c → t.ctx d = s.ctx d) ∧
      ∀ g k p, (s.blk (g / 32)).ctx = c → (s.slotAt g k).parked = some p → p.rflog = true →
        t.slotAt g k = { s.slotAt g k with wait := .ready, parked := none }) ∧
    (v ≠ 0 → exec (.fltRfcountClear v) s = .next s) ∧
    (∀ core ctx va x, s.walk ctx va = .ok x → s.fwRefused ctx x va = false →
      ∃ t, exec (.pageWalk core ctx va) s = .next t ∧ t = { s with l1tlb := t.l1tlb, l2tlb := t.l2tlb, free := t.free } ∧
        x ∈ Tbl.get [] t.l1tlb core ∧ x ∈ Tbl.get [] t.l2tlb (core / 4)) ∧
    (∀ core ctx va c l a, s.walk ctx va = .error (c, l, a) →
      (c = 4 → ∃ f, exec (.pageWalk core ctx va) s = .next (({ s with free := f } : State).logError a)) ∧
      (c ≠ 4 → s.pteRefused ctx a = false → ∃ f, exec (.pageWalk core ctx va) s = .next { s with free := f }))

/-- 09 R190: the replay of a load parked for one lane, its fault resolved: that lane takes its bytes, no other Active lane
changes, and the split is no longer parked. -/
def Obligations.ReplayOfLoad : Prop :=
  ∀ (s : State) (g k : Nat) (w : Again) (sz : LdSize) (o : VmOp) (p : Parked) (x : ParkedLane) (pa : Nat),
    let sl := s.slotAt g k
    let u : State := { s with issue := { gid := g, slot := k } }
    let part := s.partOf g
    s.farSent = [] → s.farQ = [] → (s.card (s.blk (g / 32)).card).invs = [] → s.L1Ok → s.issue.upTo = none →
    sl.again = some w → w.cells = [] → w.word = .ld sz o → sl.occ = true → sl.wait = .ready → sl.waitFor = .none → sl.held = false →
    w.active ≠ 0 → sl.parked = some p → p.resolved = true → p.pages = [] → p.lanes = [x] → p.errs = 0 → x.lane < 32 →
    x.dest = none → x.half = 0 → x.out = none → x.err = false →
    (s.blk (g / 32)).phase = .resident → (s.blk (g / 32)).stopped = false → (s.blk (g / 32)).poisoned = false →
    s.gatedPart (s.blk (g / 32)).core part = false →
    Tbl.get ({} : Port) s.ports (State.portKey (s.blk (g / 32)).core part 0) = {} →
    u.Cached .read x.va 0 pa → pa % sz.bytes = 0 → s.blocked 0 pa sz.bytes = false → s.bad pa sz.bytes = false →
    (s.dir (State.lineOf pa)).ctr = false →
    let val := State.leNum (s.peekBytes pa sz.bytes)
    let word := fun j => match sz with
      | .bs => BitVec.ofInt 32 (BitVec.ofNat 8 val).toInt
      | .hs => BitVec.ofInt 32 (BitVec.ofNat 16 val).toInt
      | _ => BitVec.ofNat 32 (val / 2 ^ (32 * j))
    ∃ t, exec (.replay g k) s = .next t ∧
      (∀ j, 4 * j < sz.bytes → t.vcell g (u.vname o.data + j) x.lane = { val := word j }) ∧
      (∀ r m, m < 32 → m ≠ x.lane → w.active.getLsbD m = true → t.vcell g r m = s.vcell g r m) ∧
      (t.slotAt g k).parked = none ∧ (t.slotAt g k).unf = 0 ∧ (t.slotAt g k).again = none ∧ ∀ b, t.peek b = s.peek b

/-! ### Copies and engines at work -/

/-- 09 R194, 18 R365: a segment whose sides translate carries its bytes, to memory or to a scratchpad, and the copy goes on
to the next segment or is over; one that faults is listed for its fix-up with a record; a listed segment whose fault is
resolved is replayed and carried the same way, or faults again with a new record (22 R457). A segment moves whole, and its
record names its first source byte (log 20). -/
def Sys2Proof.Claims.CopySegments : Prop :=
  ∀ (s : State) (cid : Nat) (k : Copy) (p p' : Nat), s.copy cid = some k → k.withdrawn = false → s.farSent = [] →
    s.farQ = [] → k.src.kind = 0 → k.src.rows = [] → k.dst.rows = [] → k.owned = [] → k.part = [] →
    (∀ b ∈ k.dst.bids, Tbl.has s.blks b = true) →
    let quiet := fun pa n => ∀ l, State.lineOf pa ≤ l → l ≤ State.lineOf (pa + n - 1) →
      s.lineHeld l = false ∧ (s.dir l).ctr = false
    let seg := fun row off => min (k.rowb - off) (min (4096 - (k.src.start + row * k.src.stride + off) % 4096)
      (if k.dst.kind ≤ 1 then 4096 - (k.dst.start + row * k.dst.stride + off) % 4096 else k.rowb))
    let moves := fun (t : State) (row off : Nat) =>
      let n := seg row off
      (k.dst.kind = 0 → (∀ i, i < n → t.peek (p' + i) = s.peek (p + i)) ∧
        ∀ b, b < p' ∨ p' + n ≤ b → t.peek b = s.peek b) ∧
      (∀ b, k.dst.kind = 1 → k.dst.bids = [b] → k.bar = none → (∀ a, t.peek a = s.peek a) ∧
        (∀ i, i < n → Tbl.get 0 (t.blk b).scratch (k.dst.start + row * k.dst.stride + off + i) = s.peek (p + i)) ∧
        ∀ a, a < k.dst.start + row * k.dst.stride + off ∨ k.dst.start + row * k.dst.stride + off + n ≤ a →
          Tbl.get 0 (t.blk b).scratch a = Tbl.get 0 (s.blk b).scratch a)
    let goes := fun row off => s.segXlate k row off = (.ok ((0, p), (0, p')), s) ∧ k.dst.kind ≤ 1 ∧
      quiet p (seg row off) ∧ (k.dst.kind = 0 → quiet p' (seg row off) ∧ s.bad p' (seg row off) = false) ∧ s.bad p (seg row off) = false ∧ 0 < seg row off ∧
      (k.bar = none ∨ ∀ b ∈ State.chargedBlocks k, (s.blk b).phase ≠ .swapped)
    let next := fun row off => if off + seg row off < k.rowb then (row, off + seg row off) else (row + 1, 0)
    (k.row < k.nrow → goes k.row k.off → ∃ t, exec (.segmentDelivery cid) s = .next t ∧ moves t k.row k.off ∧
      (let e := next k.row k.off
       if k.nrow ≤ e.1 ∧ k.fix = [] then t.copy cid = none
       else t.copy cid = some { k with next := k.next + 1, row := e.1, off := e.2 })) ∧
    (∀ c l a, c ≠ 0 → k.row < k.nrow → s.segXlate k k.row k.off = (.error (c, l, a), s) → k.fix = [] →
      ∃ t r, exec (.segmentDelivery cid) s = .next t ∧ t.mem = s.mem ∧ t.flt.held = s.flt.held ++ [r] ∧
        t.flt.open_ = s.flt.open_ ++ [r] ∧ r.cause = c ∧ r.level = l ∧ r.access = a ∧ r.party = .copy cid ∧
        r.va = k.src.start + k.row * k.src.stride + k.off ∧ r.source = (if k.bid.isSome then 2 else 5) ∧
        (let e := next k.row k.off
         let fix : List FixRange := [{ first := k.next, count := 1, row := k.row, off := k.off, since := s.clock }]
         t.copy cid = some { k with next := k.next + 1, row := e.1, off := e.2, fix := fix })) ∧
    -- a resolved fault makes its range due
    (∀ f r, k.fix = [f] → f.count = 1 → r.party = .copy cid → r.va = k.src.start + f.row * k.src.stride + f.off →
      (s.dueRanges cid r).copy cid = some { k with fix := [{ f with due := some 0 }] }) ∧
    (∀ f, k.fix = [f] → f.count = 1 → f.due = some 0 → goes f.row f.off →
      ∃ t, exec (.fixupReplay cid) s = .next t ∧ moves t f.row f.off ∧
        (k.nrow ≤ k.row → t.copy cid = none) ∧
        (k.row < k.nrow → t.copy cid = some { k with fix := [] })) ∧
    (∀ f, k.fix = [f] → f.due = none → exec (.fixupReplay cid) s = .next s) ∧
    (∀ f c l a, c ≠ 0 → k.fix = [f] → 0 < f.count → f.due = some 0 → s.segXlate k f.row f.off = (.error (c, l, a), s) →
      ∃ t r, exec (.fixupReplay cid) s = .next t ∧ t.mem = s.mem ∧ t.flt.held = s.flt.held ++ [r] ∧ r.cause = c ∧
        r.level = l ∧ r.access = a ∧ r.party = .copy cid ∧ r.va = k.src.start + f.row * k.src.stride + f.off ∧
        t.copy cid = some { k with fix := [{ f with due := if 1 < f.count then some 1 else none }] })

/-- The copy words, and the segments of a copy. -/
def Obligations.Copies : Prop :=
  Claims.CopyStarts ∧ Claims.CopySegments

/-- 12 R243 to R245, R251, 11 R225, R227, R238 to R241, 18 R311, 20 R442, 10 R209, 13 R265, 20 R468: the engines take up
their commands, queries, sub-queries, lines and words (logs 35 and 36 on sub-queries, log 39 on SSU commands). -/
def Obligations.Engines : Prop :=
  ∀ (s : State),
    -- the SSU
    (∀ cl c rest bs, Tbl.get [] s.ssus cl = c :: rest → c.started = false → s.ssuHeld cl = false → s.farSent = [] →
      (∀ p ∈ s.pending, c.gid ∉ p.seen) → s.engRead (some c.core) c.ctx c.va 64 = (.ok (bs, false), s) →
      let q := fun i => State.leNum ((bs.drop (8 * i)).take 8)
      let d := SelkDesc.ofQuads q
      let sts := ssuSts false q
      let es := selkBytes d.type
      ssuBar q < c.nbar → 8 * c.nbar ≤ sts → sts + 16 ≤ 1024 * c.scrKib → c.isSplat = false →
      (d.resv = true ∨ sts % 16 ≠ 0 ∨ d.k = 0 ∨ d.n < d.k ∨ 2 ^ 24 < d.n →
        ∃ t x, exec (.ssuCommandStart cl) s = .next t ∧ Tbl.get [] t.ssus cl = x :: rest ∧ x.started = true ∧
          x.glob = c.glob ∧ (x.record.headD 0).toNat = 2 * 2 ^ 56 ∧ t.mem = s.mem) ∧
      (∀ es', d.resv = false → sts % 16 = 0 → d.type ≤ 5 → 0 < d.k → d.k ≤ d.n → d.n ≤ 2 ^ 24 →
        (d.k ≤ 65536 ∨ (d.k = d.n ∧ d.n ≤ 2 ^ 22)) → d.src % es = 0 → d.oidx % 4 = 0 →
        State.ssuRangesOk { c with sts, bar := ssuBar q }
          [(d.src, es * d.n, pLOAD), (d.oidx, 4 * d.k, pSTORE), (d.oval, es * d.k, pSTORE)] = true →
        s.engRead (some c.core) c.ctx d.src (es * d.n) = (.ok (es', false), s) →
        State.meets d.oidx (4 * d.k) d.src (es * d.n) = false → State.meets d.oval (es * d.k) d.src (es * d.n) = false →
        State.meets d.oidx (4 * d.k) d.oval (es * d.k) = false →
        ∃ (t : State) (x : SsuCmd) (sel : List Nat), exec (.ssuCommandStart cl) s = .next t ∧ Tbl.get [] t.ssus cl = x :: rest ∧ x.started = true ∧
          sel.length = d.k ∧ sel.Nodup ∧ (∀ i ∈ sel, i < d.n) ∧
          x.glob = [(d.oidx, sel.flatMap fun i => State.toLe 4 i), (d.oval, sel.flatMap fun i => (es'.drop (es * i)).take es)] ∧
          (x.record.headD 0).toNat = d.k ∧ t.mem = s.mem)) ∧
    (∀ cl c rest, Tbl.get [] s.ssus cl = c :: rest → c.started = true → s.ssuHeld cl = false → c.report = false →
      c.glob = [] → c.scr = [] → Tbl.has s.blks c.bid = true → (s.blk c.bid).phase = .resident →
      (s.blk c.bid).stopped = false → c.record.length = 2 → (s.blk c.bid).desc.nbar * 8 ≤ c.sts → c.bar < (s.blk c.bid).desc.nbar →
      ∃ t, exec (.ssuComplete cl) s = .next t ∧ Tbl.get [] t.ssus cl = rest ∧ t.mem = s.mem ∧
        (∀ i, i < 16 → Tbl.get 0 (t.blk c.bid).scratch (c.sts + i) =
          BitVec.ofNat 8 ((c.record.getD (i / 8) 0).toNat / 2 ^ (8 * (i % 8)))) ∧
        t.barWord c.bid c.bar = (State.Bar.check
          (let w := State.Bar.ofWord (s.barWord c.bid c.bar)
           { w with arr := (w.arr + 1) % 4096 })).toWord) ∧
    (∀ cl c rest, Tbl.get [] s.ssus cl = c :: rest → c.started = true → s.ssuHeld cl = false → c.report = true →
      ∃ t r, exec (.ssuComplete cl) s = .next t ∧ Tbl.get [] t.ssus cl = rest ∧ t.flt.held = s.flt.held ++ [r] ∧
        r.cause = 7 ∧ r.source = 4 ∧ t.blks = s.blks ∧ (t.card c.card).err = (s.card c.card).err.or (some (6, 0, 0))) ∧
    -- queries
    (∀ core th r rest, (s.trpAt (64 * core + th)).phase = .free → Tbl.get [] s.ingress core = r :: rest → th < 64 →
      State.queryOk r.quads = true →
      ∃ t, exec (.queryStart core th) s = .next t ∧ Tbl.get [] t.ingress core = rest ∧
        (let x := t.trpAt (64 * core + th)
         x.phase = .run ∧ x.ctx = r.ctx ∧ x.card = r.card ∧ x.block = r.block ∧ x.ncap = r.cap ∧
           x.pc = (r.quads.getD 5 0).toNat % 2 ^ 57 ∧ Tbl.get 0 x.t 0 = r.quads.getD 4 0 ∧
           Tbl.get 0 x.t 1 = BitVec.ofNat 64 ((r.quads.getD 7 0).toNat / 2 ^ 16 % 2 ^ 16) ∧
           (∀ i, 1 < i → Tbl.get 0 x.t i = 0) ∧ x.stk = [] ∧ x.hitValid = false) ∧
        (∀ n, n ≠ 64 * core + th → t.trpAt n = s.trpAt n) ∧ t.mem = s.mem) ∧
    (∀ cl line, s.clusterOn cl = true → s.lineHeld line = false → (s.dir line).ctr = false → s.farQ = [] → s.L1Ok →
      (∃ p ∈ s.trps, p.1 / 256 = cl ∧ p.2.miss = some line) →
      ∃ t, exec (.nodeCacheFill cl line) s = .next t ∧
        (∃ b, Tbl.get none t.ncache (64 * line + cl) = some b ∧ (s.bad (128 * line) 128 = false → b = false)) ∧
        (∀ p ∈ t.trps, p.1 / 256 = cl → p.2.miss ≠ some line) ∧ ∀ a, t.peek a = s.peek a) ∧
    -- a counter line is never cached: the threads go on and read it at its home
    (∀ cl line, s.clusterOn cl = true → s.lineHeld line = false → (s.dir line).ctr = true →
      ∃ t, exec (.nodeCacheFill cl line) s = .next t ∧ t = { s with trps := t.trps } ∧
        (∀ p ∈ t.trps, p.1 / 256 = cl → p.2.miss ≠ some line) ∧
        ∀ n, (n / 256 ≠ cl ∨ (s.trpAt n).miss ≠ some line) → t.trpAt n = s.trpAt n) ∧
    (∀ core th sctx msg, (s.trpAt (64 * core + th)).phase = .free → core / 4 ∈ s.computeClusters → th < 64 →
      let m := fun i => msg.getD i (0 : Quad)
      let w := (m 36).toNat
      let pair := w / 2 ^ 48 % 2 ^ 16
      let nent := w / 2 ^ 16 % 8
      let known := pair ≠ 0 ∧ (s.ctx pair).exist = true ∧ (s.ctx pair).fw = false ∧ (s.ctx pair).pairctx = sctx
      (¬ known → ∃ t x, exec (.subqueryReceive core th sctx msg) s = .next t ∧
        t.dev.peerOut = s.dev.peerOut ++ [x] ∧ (x.getD 2 0).toNat / 2 ^ 24 % 2 ^ 8 = 9 ∧ x.getD 4 0 = m 36 ∧ t.trps = s.trps) ∧
      (known → w / 2 ^ 38 % 4 = 0 → w / 2 ^ 19 % 2 ^ 11 = 0 → w / 2 % 2 ^ 15 = 0 → nent ≤ 4 → m 37 = 0 → m 38 = 0 →
        m 39 = 0 → State.queryOk (msg.take 8) = true →
        ∃ t, exec (.subqueryReceive core th sctx msg) s = .next t ∧
          (let x := t.trpAt (64 * core + th)
           x.phase = .run ∧ x.ctx = pair ∧ x.ncap = { bits := m 11 ++ m 10, tag := (m 36).getLsbD 0 } ∧
             x.echo = some (m 36) ∧ x.stk.length = nent ∧ (Tbl.get 0 x.t 0).toNat = (m 4).toNat % 2 ^ 63 ∧
             ∀ i, 1 < i → i < 16 → Tbl.get 0 x.t i = m (12 + i)) ∧
          ∀ n, n ≠ 64 * core + th → t.trpAt n = s.trpAt n)) ∧
    (∀ th x rest, (s.trpAt th).subs = x :: rest →
      let back := fun (i : Instr) (q : QueryPart) => ∃ t, exec i s = .next t ∧ t = { s with trps := t.trps } ∧
        (t.trpAt th).parts = (s.trpAt th).parts ++ [(x.ord, q)] ∧
        (t.trpAt th).subs = rest.filter (fun y => y.idx != x.idx) ∧ ∀ n, n ≠ th → t.trpAt n = s.trpAt n
      let late := fun y : SubOut => y.sent + 2 ^ 24 < s.clock
      (∀ r, (∀ y ∈ x :: rest, y.idx = x.idx → ¬ late y) → back (.subqueryResult th x.idx r)
        { status := r.status, aux := r.aux, hit := [r.thit, r.prim, r.u, r.v], nodes := r.nodes }) ∧
      (∀ r, late x → exec (.subqueryResult th x.idx r) s = .next s) ∧
      (¬ late x → exec (.subqueryLost th x.idx) s = .next s) ∧
      (late x → (s.trpAt th).echo = none →
        let key := 4 * (th / 256) + State.qField (s.trpAt th) 7 0 2
        (Tbl.get [] s.cqs key).length < 256 → ∃ t r, exec (.subqueryLost th x.idx) s = .next t ∧
          Tbl.get [] t.cqs key = Tbl.get [] s.cqs key ++ [r] ∧ r.ctx = (s.trpAt th).ctx ∧
          (r.words.getD 2 0).toNat / 2 ^ 24 % 2 ^ 8 = 9 ∧ r.words.getD 3 0 = x.ptr ∧ t.trpAt th = {} ∧
          ∀ n, n ≠ th → t.trpAt n = s.trpAt n)) ∧
    -- the sequencer's fetch, JOBPOST's wait
    (∀ bid bytes, s.seqLive bid = true → (s.seq bid).word = none →
      let held := s.heldFrom (s.card (s.blk bid).card).since (s.blk bid).ctx
      s.fetch (s.blk bid).core (s.blk bid).ctx (s.seq bid).pc 8 (some held) = (.ok bytes, s) →
      exec (.streamFetch bid) s = .next (s.updSeq bid fun q =>
        { q with st := if q.st = .waitBar then .waitBar else .run, word := some (BitVec.ofNat 64 (State.leNum bytes)) })) ∧
    (∀ since ctx, let held := s.heldFrom (some since) ctx
      since ≤ held ∧ ∀ i o d, held ≤ i → s.hist[i]? = some o → o.moved = some d → d = ctx) ∧
    (∀ bid c l, s.seqLive bid = true → (s.seq bid).word = none →
      let held := s.heldFrom (s.card (s.blk bid).card).since (s.blk bid).ctx
      s.fetch (s.blk bid).core (s.blk bid).ctx (s.seq bid).pc 8 (some held) = (.fault c l, s) →
      ∃ t r, exec (.streamFetch bid) s = .next t ∧
        (t.seq bid).st = (if (s.seq bid).st = .waitBar then .waitBar else .fetchWait) ∧ (t.seq bid).pc = (s.seq bid).pc ∧
        t.flt.held = s.flt.held ++ [r] ∧ r.source = 6 ∧ r.cause = c ∧ r.va = (s.seq bid).pc) ∧
    (∀ g k q, (s.slotAt g k).waitFor = .jobpost q →
      let x := s.queue q
      let len := 2 ^ (if 4 ≤ x.size.toNat % 32 ∧ x.size.toNat % 32 ≤ 16 then x.size.toNat % 32 else 4)
      let full := (x.tail.toNat + 1) % len = x.head.toNat % len
      (full → exec (.jobpostResume g k) s = .next s) ∧
      (¬ full → exec (.jobpostResume g k) s = .next (s.updSlot g k fun sl => { sl with wait := .ready, waitFor := .none })))

/-! ### Power -/

/-- 13 R270, R271, 08 R176, 15 R297, 08 R166, 16 R313, R314: gating, hang reports, the thermal limits, the limited
registers, Deckle's target and the grant of the head of its waiting list. When a timer begins anew and a core leaves is
log 44, the end of a trip log 56, a fall of the target while a take waits log 57. -/
def Obligations.PowerEvents : Prop :=
  ∀ (s : State) (core part tj bid : Nat) (v : BitVec 64),
    let p := s.partAt core part
    let last := ∀ k, k < 4 → k ≠ part → (s.partAt core k).gate = .power
    (p.gate = .on → s.pwr.gate.toNat ≤ p.idle → exec (.clockGate core part) s =
      .next (s.setPart core part { p with gate := .clock })) ∧
    (p.gate ≠ .on ∨ p.idle < s.pwr.gate.toNat → exec (.clockGate core part) s = .next s) ∧
    (s.pwr.pgate.toNat ≤ p.idle → part < 4 →
      (¬ last ∨ Tbl.get false s.left core = true →
        exec (.powerGate core part) s = .next (s.setPart core part { p with gate := .power })) ∧
      (last → Tbl.get false s.left core = false → Tbl.get none s.fused (core / 4) = none → s.allowsOf core = [] →
        (∀ m ∈ s.ctrMsgs, m.core ≠ core) → s.txns = [] → core < 152 → s.L1Ok →
        ∃ t, exec (.powerGate core part) s = .next t ∧ (t.partAt core part).gate = .power ∧
          Tbl.get false t.left core = true ∧
          (∀ l, (t.l1 core l).valid = 0 ∧ (t.l1 core l).owned = false ∧ (t.l1 core l).dirty = 0) ∧
          ∀ a, t.peek a = s.peek a)) ∧
    (p.idle < s.pwr.pgate.toNat → exec (.powerGate core part) s = .next s) ∧
    (p.gate ≠ .on → s.candidates core part ≠ [] → ∃ t, exec (.ungate core part) s = .next t ∧
      (t.partAt core part).gate = .on ∧ Tbl.get false t.left core = false ∧ t.grps = s.grps ∧ t.mem = s.mem) ∧
    (s.hangCounts bid = true → (s.blk bid).hangFrom + s.pwr.hang.toNat ≤ s.clock → (∀ k, s.sectorBad k = false) →
      ∃ t, exec (.hang bid) s = .next t ∧ (t.blk bid).hangFrom = s.clock ∧ (t.blk bid).phase = (s.blk bid).phase ∧
        t.dev.msi = s.dev.msi ++ [0] ∧
        t.peekNat (s.ctx (s.blk bid).ctx).trarea 8 = (s.peekNat (s.ctx (s.blk bid).ctx).trarea 8 + 1) % 2 ^ 64) ∧
    (s.hangCounts bid = false → exec (.hang bid) s = .next s) ∧
    (s.pwr.tjtrip.toNat ≤ tj → ∃ t, exec (.thermalTrip tj) s = .next t ∧ t.pwr.trip = true ∧ t.grps = s.grps ∧
      (s.pwr.trip = false → t.dev.msi = s.dev.msi ++ [1])) ∧
    (tj < s.pwr.tjtrip.toNat → exec (.thermalTrip tj) s = .next s) ∧
    (∀ c, s.pwr.trip = true → tj + 10 < s.pwr.tjtrip.toNat → s.pwr.tripBelow = some c → c + 750000 ≤ s.clock →
      exec (.thermalTripExit tj) s = .next { s with pwr := { s.pwr with trip := false, tripBelow := none } }) ∧
    (s.pwr.trip = true → tj + 10 < s.pwr.tjtrip.toNat → s.pwr.tripBelow = none →
      exec (.thermalTripExit tj) s = .next { s with pwr := { s.pwr with tripBelow := some s.clock } }) ∧
    (120 ≤ tj → ∃ t, exec (.thermal tj) s = .next t ∧ t.pwr.stopped = true ∧ t.dev.fail = true ∧ t.dev.code = 5 ∧
      t.mem = s.mem) ∧
    (tj < 120 → exec (.thermal tj) s = .next s) ∧
    (s.dev.bootDone = true →
      (200 ≤ v.toNat ∧ v.toNat ≤ 520 →
        exec (.pwcBudgetWrite v) s = .next { s with pwr := { s.pwr with budget := v } }) ∧
      (v.toNat < 200 ∨ 520 < v.toNat → exec (.pwcBudgetWrite v) s = .next s) ∧
      (60 ≤ v.toNat ∧ v.toNat ≤ 100 → exec (.pwcTjhotWrite v) s = .next { s with pwr := { s.pwr with tjhot := v } }) ∧
      (v.toNat < 60 ∨ 100 < v.toNat → exec (.pwcTjhotWrite v) s = .next s)) ∧
    (∀ w, s.dev.bootDone = true → s.handOver = false → s.waitsOn State.deckleAt = [] → s.ctrInit State.deckleAt = true →
      s.ctrCentral State.deckleAt = false → (∀ x ∈ s.allows, x.1 / 256 ≠ State.deckleAt / 64) →
      let t := s.hbx.dklTarget
      let lowers := s.pwr.budget.toNat < w ∨ s.pwr.tjhot.toNat ≤ tj
      let raises := ¬ lowers ∧ 10 * w < 9 * s.pwr.budget.toNat ∧ tj + 5 < s.pwr.tjhot.toNat ∧ s.hbx.waitedInPeriod = true
      let clamp := fun n => max s.hbx.dklMin (min s.hbx.dklMax n)
      let goes := fun n => ∃ u, exec (.deckleAdjust w tj) s = .next u ∧ u.hbx.dklTarget = clamp n ∧
        u.pwr = { s.pwr with power := BitVec.ofNat 64 w, tj := BitVec.ofNat 64 tj } ∧
        (t ≤ clamp n → s.deckle + (clamp n - t) < 2 ^ 48 →
          u.deckle = s.deckle + (clamp n - t) ∧ u.waitsOn State.deckleAt = []) ∧
        (clamp n < t → t - clamp n ≤ s.deckle →
          u.deckle = s.deckle - (t - clamp n) ∧ u.waitsOn State.deckleAt = []) ∧
        (clamp n < t → s.deckle < t - clamp n →
          u.deckle = s.deckle ∧ u.waitsOn State.deckleAt = [{ who := .power, n := t - clamp n }])
      (lowers → goes (t - max 32 (32 * ((t + 511) / 512)))) ∧ (raises → goes (t + 64)) ∧
        (¬ lowers → ¬ raises → goes t)) ∧
    (∀ c n rest, s.ctrCentral State.deckleAt = true → s.waitsOn State.deckleAt = { who := .headbox c, n } :: rest →
      n ≤ s.deckle → (∀ w ∈ rest.head?, s.deckle - n < w.n) →
      ∃ t, exec .tokenGrant s = .next t ∧ t.deckle = s.deckle - n ∧ t.waitsOn State.deckleAt = rest ∧
        (t.card c).tokens = n ∧ ((s.card c).phase = .tokens → (t.card c).phase = .ready) ∧
        ∀ b, b < State.deckleAt ∨ State.deckleAt + 64 ≤ b → Tbl.get 0 t.mem b = Tbl.get 0 s.mem b) ∧
    (∀ w rest, s.waitsOn State.deckleAt = w :: rest → s.deckle < w.n → exec .tokenGrant s = .next s)

/-! ### Reset, boot, links and the mailbox -/

/-- 16 R298 to R300, R305, R109, R310, 07 R153: what the host and the peer may do. Before boot is complete BAR2 reads
return zero and writes are discarded; then a write becomes visible in its turn, outside the firmware region and below U,
a read returns the bytes, an AtomicOp is one read-modify-write; the peer is held to its window. An access that breaks a rule
is answered with an error (log 49); a DISPLAY descriptor's layout is opaque (log 51). -/
def Obligations.HostAndPeer : Prop :=
  ∀ (s : State) (req a n : Nat) (relaxed : Bool) (data : List (BitVec 8)) (v : BitVec 64),
    let up := s.dev.bootDone = true ∧ s.dev.posted = [] ∧ s.farQ = []
    let calm := fun pa k => ∀ l, State.lineOf pa ≤ l → l ≤ State.lineOf (pa + k - 1) →
      s.lineHeld l = false ∧ (s.dir l).ctr = false
    let answers := fun (i : Instr) (r : Reply) => ∃ t, exec i s = .next t ∧ t.dev.replies = s.dev.replies ++ [r] ∧
      ∀ b, t.peek b = s.peek b
    let refused := fun (i : Instr) => ∃ t, exec i s = .next t ∧ t.dev.replies = s.dev.replies ++ [{ kind := .bad }] ∧
      t.mem = s.mem ∧ t.dev.fwref = (if s.dev.bootDone = true ∧ a < s.fwEnd ∧ s.dev.fwref ≠ 0xFFFFFFFF
        then s.dev.fwref + 1 else s.dev.fwref)
    (s.dev.bootDone = false → exec (.bar2PostedWrite req relaxed a data) s = .next s ∧
      answers (.bar2Read req a n) { data := List.replicate n 0 } ∧ exec (.registerWrite a v) s = .next s) ∧
    (up → s.fwEnd ≤ a → a + data.length ≤ s.usable → 0 < data.length → calm a data.length →
      ∃ t, exec (.bar2PostedWrite req relaxed a data) s = .next t ∧ t.dev.posted = [] ∧
        ∀ b, t.peek b = if a ≤ b ∧ b < a + data.length then data.getD (b - a) 0 else s.peek b) ∧
    (up → a + data.length ≤ s.fwEnd → 0 < data.length → calm a data.length → s.dev.fwref ≠ 0xFFFFFFFF →
      ∃ t, exec (.bar2PostedWrite req relaxed a data) s = .next t ∧ (∀ b, t.peek b = s.peek b) ∧
        t.dev.fwref = s.dev.fwref + 1) ∧
    (up → s.fwEnd ≤ a → a + n ≤ s.usable → 0 < n → calm a n → (∀ i, i < n → s.bad (a + i) 1 = false) →
      answers (.bar2Read req a n) { data := s.peekBytes a n }) ∧
    (up → s.usable ≤ a → s.fwEnd ≤ a → calm a n → 0 < n →
      answers (.bar2Read req a n) { data := List.replicate n 0 }) ∧
    (∀ op z x y, up → s.fwEnd ≤ a → a < s.usable →
      let k := atomBytes z
      let old := BitVec.ofNat 64 (State.leNum (s.peekBytes a k))
      a % k = 0 → calm a k → s.bad a k = false →
      ∃ t, exec (.bar2AtomicOp op z a x y) s = .next t ∧
        t.dev.replies = s.dev.replies ++ [{ data := s.peekBytes a k }] ∧
        ∀ b, t.peek b = if a ≤ b ∧ b < a + k then
            BitVec.ofNat 8 ((match op with
              | .fetchAdd => BitVec.ofNat 64 (old.toNat + x.toNat)
              | .swap => x
              | .cas => if old.toNat % 2 ^ (8 * k) = y.toNat % 2 ^ (8 * k) then x else old).toNat / 2 ^ (8 * (b - a)))
          else s.peek b) ∧
    (let mine := s.dev.bootDone = true ∧ 0 < n ∧ s.dev.winbase.toNat ≤ a ∧ a + n ≤ s.dev.winlim.toNat ∧ s.fwEnd ≤ a ∧
       a + n ≤ s.usable
     (¬ mine → refused (.peerRequest (.read a n))) ∧
     (mine → s.farQ = [] → calm a n → s.bad a n = false →
       answers (.peerRequest (.read a n)) { data := s.peekBytes a n }) ∧
     (mine → s.farQ = [] → calm a n → n = data.length → ∃ t, exec (.peerRequest (.write a data)) s = .next t ∧
       t.dev.replies = s.dev.replies ++ [{ data := [] }] ∧
       ∀ b, t.peek b = if a ≤ b ∧ b < a + data.length then data.getD (b - a) 0 else s.peek b) ∧
     (¬ mine → n = data.length → refused (.peerRequest (.write a data)))) ∧
    (∀ port up, port < 2 → ∃ t, exec (.peerPortEvent port up) s = .next t ∧ t.dev.ports.getLsbD port = up ∧
      (∀ q, q < 2 → q ≠ port → t.dev.ports.getLsbD q = s.dev.ports.getLsbD q) ∧ t.mem = s.mem) ∧
    (∀ x : Pending, s.pending = [x] → x.tgt = 2 → ∀ pa bs, x.write = some (pa, bs) →
      ∃ t, exec (.peerResponse x.id false) s = .next t ∧ t.pending = [] ∧ t.mem = s.mem ∧
        ∀ b, Tbl.get 0 t.peerMem b = if pa ≤ b ∧ b < pa + bs.length then bs.getD (b - pa) 0 else Tbl.get 0 s.peerMem b) ∧
    (∀ g k, (∃ x ∈ (s.slotAt g k).monitor.remote,
        s.tgtBad x.1 x.2.1 4 = false ∧ BitVec.ofNat 32 (State.leNum (s.tgtBytes x.1 x.2.1 4)) ≠ x.2.2) →
      ∃ t, exec (.monitorReread g k) s = .next t ∧ (t.slotAt g k).monitor.ev = true ∧ t.mem = s.mem ∧
        ((s.slotAt g k).waitFor = .mwait → (t.slotAt g k).wait = .ready ∧ (t.slotAt g k).waitFor = .none)) ∧
    (∀ g k, (s.slotAt g k).monitor.remote = [] → exec (.monitorReread g k) s = .next s) ∧
    -- a re-read that fails is logged and wakes nothing
    (∀ g k pa w, (s.slotAt g k).monitor.remote = [(2, pa, w)] → s.linkUp = false →
      exec (.monitorReread g k) s = .next (s.logError pa)) ∧
    (∀ o x, Tbl.get {} s.dev.outputs o = x → Tbl.has s.dev.outputs o = true → s.farQ = [] →
      let base := Config.scanBase x.surface (State.leNum (s.peekBytes x.flip 4))
      let size := Config.scanSize x.timing x.tenBit
      s.blocked 0 x.flip 4 = false → s.blocked 0 base size = false → ∃ t, exec (.verticalBlank o) s = .next t ∧
        (∀ b, t.peek b = s.peek b) ∧ (Tbl.get {} t.dev.outputs o).shown = s.peekBytes base size)

/-- 16 R300 to R303, R306 to R309, R110, 15 R290: what PERST# leaves; the boot sequencer's checks, failures and end; the
mailbox takes one command at a time, keeps its work back while a line that it needs is held, and its completion posts the
status and a message; what each command does. The model's choices in it: the layouts of the table and of what the commands
write (log 48), what the outside supplies (50), the working of a command before its completion (52, 53), what a failure
leaves (55), where Deckle and the staging area stand (75, 82). -/
def Obligations.BootAndMailbox : Prop :=
  ∀ (s : State),
    let ready := s.dev.bootDone = true ∧ s.dev.mbox = none ∧ s.dev.fwerr = false
    let takes := fun (i : Instr) (op st : Nat) (P : State → Prop) => ∃ t, exec i s = .next t ∧
      t.dev.mbox = some (some st) ∧ t.dev.cmd.toNat = 2 ^ 63 + s.dev.cmd.toNat / 2 ^ 40 % 2 ^ 8 * 2 ^ 40 + op ∧ P t
    let still := fun t : State => t.ctxs = s.ctxs ∧ ∀ a, t.peek a = s.peek a
    (∃ t, exec .perstAssert s = .next t ∧ t.mem = s.mem ∧ t.dev = State.reset.dev ∧ t.blks = [] ∧ t.grps = [] ∧
      t.ctxs = [] ∧ t.pwr = State.reset.pwr) ∧
    (∀ b, s.dev.boot ≠ .held → exec (.perstDeassert b) s = .next s) ∧
    (∀ b, s.dev.boot = .held → exec (.perstDeassert b) s =
      .next { s with dev := { s.dev with boot := .booting, bootAt := s.clock, bootIn := some b } }) ∧
    -- step 1, and the steps after it
    (∀ b, s.dev.boot = .booting → s.dev.bootIn = some b → s.bootStep =
      { s with dev := { s.dev with boot := .loading, sku120 := b.sku120, clmask := if b.sku120 then b.clMask else -1 } }) ∧
    (∀ b, s.dev.boot = .loading → s.dev.bootIn = some b →
      let q := quadsOf b.table
      let t := BootTable.ofQuads q
      let chmask := (if b.sku120 then b.chFuse else -1) &&& b.trained
      let fails := fun code => s.bootStep.dev.fail = true ∧ s.bootStep.dev.code = code ∧ s.bootStep.dev.boot = .failed ∧
        s.bootStep.dev.bootDone = s.dev.bootDone ∧ s.bootStep.dev.msi = s.dev.msi
      let table := b.tableSigOk = true ∧ b.table.length = 64 ∧ t.ok q s.dev.clmask = true
      let image := b.imageSigOk = true ∧ t.minver ≤ b.imageVer.toNat
      (¬ table → fails 1) ∧ (table → ¬ image → fails 2) ∧ (table → image → chmask = 0 → fails 3) ∧
      (table → image → chmask ≠ 0 → b.carveOk = false → fails 4) ∧
      -- Watermark
      (table → image → s.bootStep.dev.wmkVer = b.imageVer ∧ s.bootStep.dev.wmk =
        [Config.sha256 b.rom, Config.sha256 b.table, Config.sha256 b.image,
         Config.sha256 (List.replicate 32 0 ++ digestBytes (Config.sha256 b.image))]) ∧
      (table → image → chmask ≠ 0 → b.carveOk = true → s.l2 = [] →
        let u := s.bootStep
        u.dev.bootDone = true ∧ u.dev.boot = .done ∧ u.dev.firewall = true ∧ u.dev.chmask = chmask ∧
        u.dev.clmask = s.dev.clmask ∧ u.dev.f = t.f ∧ u.dev.c = t.c ∧ u.dev.msi = s.dev.msi ++ [1] ∧
        u.hbx.dklTarget = (if s.dev.sku120 then 2688 else 3200) ∧ u.deckle = u.hbx.dklTarget ∧ u.hbx.dklMin = 128 ∧
        (u.dir (State.lineOf State.deckleAt)).ctr = true ∧ u.ctrInit State.deckleAt = true ∧ u.ctrCap State.deckleAt = 0 ∧
        (∃ c, (u.ctx c).exist = true ∧ (u.ctx c).fw = true) ∧
        (∀ a, a < u.carveEnd → State.lineOf a ≠ State.lineOf State.deckleAt → Tbl.get 0 u.mem a = 0) ∧
        ∀ a, u.carveEnd ≤ a → Tbl.get 0 u.mem a = Tbl.get 0 s.mem a)) ∧
    -- Configuration Requests
    (s.dev.boot = .held → exec .configRequest s = .next s) ∧
    (s.dev.boot ≠ .held → ∃ t, exec .configRequest s = .next t ∧ t.mem = s.mem ∧ t.dev.replies = s.dev.replies ++
      [if s.dev.boot = .booting then { kind := .retry } else { data := Config.configSpace }]) ∧
    -- the mailbox
    (∀ op, (s.dev.bootDone = false ∨ s.dev.mbox ≠ none ∨ (s.dev.fwerr = true ∧ op ≠ 8)) → ∀ i, (i, op) ∈ [(Instr.ctxcreate, 1), (.ctxdestroy, 2),
      (.memprot, 3), (.attest, 4), (.fwstage, 5), (.fwcommit, 6), (.fwabort, 7), (.errlog, 8), (.ident, 9)] →
      exec i s = .next s) ∧
    (∀ st, s.dev.mbox = some (some st) → ¬ (s.dev.cmd.toNat % 256 = 6 ∧ st = 0) →
      ∃ t, exec .mailboxComplete s = .next t ∧ t.dev.mbox = none ∧ t.dev.msi = s.dev.msi ++ [2] ∧
        t.dev.cmd = BitVec.ofNat 64 (st * 2 ^ 40 + s.dev.cmd.toNat % 256) ∧ t.mem = s.mem) ∧
    (∀ m v, s.dev.mbox = some (some 0) → s.dev.cmd.toNat % 256 = 6 → s.dev.staged = some (m, v) →
      ∃ t, exec .mailboxComplete s = .next t ∧ t.dev.staged = none ∧ t.dev.wmkVer = v ∧ t.dev.wmk.getD 2 0 = m ∧
        t.dev.wmk.getD 0 0 = s.dev.wmk.getD 0 0 ∧ t.dev.wmk.getD 3 0 = Config.sha256
          (digestBytes (s.dev.wmk.getD 3 0) ++ digestBytes m)) ∧
    (ready →
      (let a := s.dev.arg0.toNat
       let q := quadsOf (s.peekBytes a 128)
       let c := (q.getD 0 0).toNat % 2 ^ 16
       (a % 128 ≠ 0 → takes .ctxcreate 1 2 still) ∧
       (a % 128 = 0 → a + 128 ≤ s.usable → s.blocked 0 a 128 = true → ∃ t, exec .ctxcreate s = .next t ∧
         t.dev.mbox = some none ∧ still t) ∧
       (a % 128 = 0 → a + 128 ≤ s.usable → s.farQ = [] → s.blocked 0 a 128 = false → s.bad a 128 = false →
         (s.badCtxDesc q = true → takes .ctxcreate 1 2 still) ∧
         (s.badCtxDesc q = false → Tbl.has s.ctxs c = true → takes .ctxcreate 1 1 still) ∧
         (s.badCtxDesc q = false → Tbl.has s.ctxs c = false → takes .ctxcreate 1 0 fun t =>
           (∀ d, d ≠ c → t.ctx d = s.ctx d) ∧ (t.ctx c).exist = true ∧ (t.ctx c).ptroot = (q.getD 1 0).toNat % 2 ^ 57 ∧
             (t.ctx c).tvec = (q.getD 5 0).toNat % 2 ^ 57 ∧ (t.ctx c).fw = false ∧ ∀ b, t.peek b = s.peek b))) ∧
      (let c := s.dev.arg0.toNat
       (Tbl.has s.ctxs c = true → (s.ctx c).endDone = true → takes .ctxdestroy 2 0 fun t =>
         Tbl.has t.ctxs c = false ∧ (∀ d, d ≠ c → t.ctx d = s.ctx d) ∧ t.mem = s.mem) ∧
       ((s.ctx c).endDone = false → takes .ctxdestroy 2 1 still)) ∧
      (let p := s.dev.arg0.toNat
       ((∃ x ∈ s.ctxs, x.2.fw = false) ∨ p < s.dev.c ∨ 512 < p → takes .memprot 3 1 still) ∧
       ((∀ x ∈ s.ctxs, x.2.fw = true) → s.dev.c ≤ p → p ≤ 512 → takes .memprot 3 0 fun t =>
         t.dev.p = p ∧ (∀ a, a < s.carveEnd → Tbl.get 0 t.mem a = Tbl.get 0 s.mem a) ∧ t.ctxs = s.ctxs)) ∧
      (s.dev.staged = none → takes .fwcommit 6 1 still) ∧ (s.dev.staged ≠ none → takes .fwcommit 6 0 still) ∧
      takes .fwabort 7 0 (fun t => t.dev.staged = none ∧ still t) ∧
      (let a := s.dev.arg0.toNat
       let n := s.dev.arg1.toNat
       let bs := s.peekBytes a n
       let v := Config.imageVersion bs
       let at_ := State.stageAt
       let copied := fun t : State => t.ctxs = s.ctxs ∧ ∀ b, t.peek b =
         if s.dev.staged.isNone ∧ at_ ≤ b ∧ b < at_ + n then bs.getD (b - at_) 0 else s.peek b
       a + n ≤ s.usable → 0 < n → s.farQ = [] → s.blocked 0 a n = false → s.bad a n = false → at_ + n ≤ s.fwEnd →
       s.blocked 0 at_ n = false →
       (∀ l, State.lineOf at_ ≤ l → l ≤ State.lineOf (at_ + n - 1) → (s.dir l).ctr = false) →
         (Config.verify bs = false → takes .fwstage 5 3 copied) ∧
         (Config.verify bs = true → v.toNat < s.dev.minver.toNat ∨ v.toNat < s.dev.wmkVer.toNat ∨ s.dev.staged ≠ none →
           takes .fwstage 5 1 copied) ∧
         (Config.verify bs = true → s.dev.minver.toNat ≤ v.toNat → s.dev.wmkVer.toNat ≤ v.toNat → s.dev.staged = none →
           takes .fwstage 5 0 fun t => t.dev.staged = some (Config.sha256 bs, v) ∧ copied t)) ∧
      (∀ d : DisplayCmd, (4 ≤ d.output ∨ d.surface % 4096 ≠ 0 ∨ s.usable ≤ d.surface → takes (.display d) 10 2 still) ∧
        (d.output < 4 → d.surface % 4096 = 0 → d.surface < s.usable → takes (.display d) 10 0 fun t =>
          (Tbl.get {} t.dev.outputs d.output).surface = d.surface ∧
            (Tbl.get {} t.dev.outputs d.output).timing = d.timing ∧ still t)) ∧
      (let a := s.dev.arg0.toNat
       let wrote := fun (i : Instr) (op : Nat) (bs : List Byte) => a + bs.length ≤ s.usable →
         (∀ l, s.lineHeld l = false ∧ (s.dir l).ctr = false) → s.farQ = [] → takes i op 0 fun t => t.ctxs = s.ctxs ∧
           ∀ b, t.peek b = if a ≤ b ∧ b < a + bs.length then bs.getD (b - a) 0 else s.peek b
       wrote .ident 9 Config.identity ∧
       wrote .errlog 8 (Config.errorLog (s.dev.errlog.map fun r => (r.kind, r.addr, r.clock))) ∧
       (a + 704 ≤ s.usable → s.farQ = [] → (∀ l, s.lineHeld l = false ∧ (s.dir l).ctr = false) → s.bad a 32 = false →
         takes .attest 4 0 fun t => (∀ i, i < 32 → t.peek (a + 72 + i) = s.peek (a + i)) ∧
           ∀ b, b < a + 64 ∨ a + 704 ≤ b → t.peek b = s.peek b))) ∧
    (s.dev.bootDone = true → s.dev.fwerr = false → ∃ t, exec .firmwareError s = .next t ∧ t.dev.fwerr = true ∧
      t.dev.msi = s.dev.msi ++ [1] ∧ t.mem = s.mem ∧ t.grps = s.grps ∧
      ∀ p ∈ s.ctxs, p.2.fw = false → (t.ctx p.1).suspended = true ∧
        (s.ctxOut p.1 = true → ∀ y ∈ t.allows, y.2.ctx ≠ p.1)) ∧
    (s.dev.bootDone = true → ∀ off (v : BitVec 64),
      (off = 0x10000 → exec (.registerWrite off v) s = .next { s with hbx := { s.hbx with yield_ := v } }) ∧
      (off = 0x50000 → s.dev.mbox = none → v.toNat % 256 = 0 → ∃ t, exec (.registerWrite off v) s = .next t ∧
        t.dev.mbox = none ∧ t.dev.cmd.toNat = s.dev.cmd.toNat / 2 ^ 40 % 2 ^ 8 * 2 ^ 40 ∧ t.mem = s.mem) ∧
      (off = 0x50008 → exec (.registerWrite off v) s = .next { s with dev := { s.dev with arg0 := v } }) ∧
      (off = 0x50010 → exec (.registerWrite off v) s = .next { s with dev := { s.dev with arg1 := v } }) ∧
      (off = 0x40018 → exec (.registerWrite off v) s = .next { s with pwr := { s.pwr with gate := v } }) ∧
      (off = 0x30010 → exec (.registerWrite off v) s = .next { s with hbx := { s.hbx with dklMax := v.toNat } }) ∧
      (off = 0x70008 → ∃ t, exec (.registerWrite off v) s = .next t ∧
        t.dev.winbase.toNat = v.toNat / 2 ^ 12 % 2 ^ 45 * 2 ^ 12 ∧ t.mem = s.mem) ∧
      (off / 0x10000 = 0 ∨ off / 0x10000 = 6 ∨ 8 ≤ off / 0x10000 → exec (.registerWrite off v) s = .next s))

/-! ### The Headbox -/

/-- 13 R254 to R261, R263 to R265: the head of a queue is read and checked, read again after a failed read, and stopped
when it is torn; the host's queue registers; one step of each kind of card; the end of a card and the release of its
successors; the posting of records; what a dispatch step serves first. Accesses of a card are given by what `engRead` and
`engWrite` answer. The checks of a card are log 43, the age of a group's first split log 66, a release in error log 99. -/
def Obligations.HeadboxCards : Prop :=
  ∀ (s : State) (q c : Nat) (v : BitVec 64),
    let x := s.queue q
    let k := s.card c
    let reads := fun (va n : Nat) (bs : List Byte) => s.engRead none k.ctx va n = (.ok (bs, false), s)
    let writes := fun (s u : State) (va : Nat) (bs : List Byte) => s.engWrite none k.ctx va bs = (.ok (), u) ∧
      u.cards = s.cards ∧ u.queues = s.queues ∧ u.hbx = s.hbx ∧ u.dev = s.dev ∧ u.clock = s.clock
    let field := fun (i lo n : Nat) => (k.quads.getD i 0).toNat / 2 ^ lo % 2 ^ n
    let past := fun (y : Queue) =>
      { y with card := y.card.filter (· != c), rel := y.rel.filter (· != c),
               ready := y.ready ++ y.waiting.take (64 - y.ready.length), waiting := y.waiting.drop (64 - y.ready.length) }
    -- the card of the ready list, or that of the ring, which comes after the ready list (R259)
    let released := x.rel = some c ∧ k.fromRing = false
    let ofRing := x.rel = none ∧ x.ready = [] ∧ x.card = some c ∧ k.fromRing = true
    let only := x.rel = some c ∧ x.card = none ∨ x.rel = none ∧ x.card = some c
    -- the host's registers
    (s.dev.bootDone = true → q < 32 →
      exec (.tornClear q) s = .next (s.updQueue q fun x => { x with torn := false }) ∧
      exec (.badentClear q) s = .next (s.updQueue q fun x => { x with badent := false }) ∧
      (∀ req, s.dev.posted = [] → exec (.hbxQtailWrite req q v) s =
        .next (if x.devpost then s else s.updQueue q fun x => { x with tail := v.extractLsb' 0 16 }))) ∧
    -- the fetch
    (∀ bs, s.readable q = true → k.rereadAt = none → released ∨ ofRing → k.phase = .fetch → k.fltWait = false →
      reads k.va 128 bs →
      let quads := quadsOf bs
      (cardOk bs = false → k.fails < 3 → exec (.cardFetch q) s =
        .next (s.updCard c fun y => { y with fails := k.fails + 1, rereadAt := some (s.clock + 3000) })) ∧
      (cardOk bs = false → 3 ≤ k.fails → ∃ t, exec (.cardFetch q) s = .next t ∧ (t.queue q).torn = true ∧
        t.dev.msi = s.dev.msi ++ [3 + q] ∧ t.mem = s.mem ∧
        (ofRing → (t.queue q).card = none ∧ Tbl.has t.cards c = false) ∧
        (released → (t.queue q).rel = some c ∧ t.card c = { k with fails := 0, rereadAt := none })) ∧
      (cardOk bs = true → badCard quads ((s.queue (cardQsel quads)).ctx == k.ctx) = true →
        ∃ t, exec (.cardFetch q) s = .next t ∧ (t.card c).err = k.err.or (some (2, 0, 0)) ∧ (t.card c).phase = .running ∧
          t.mem = s.mem) ∧
      (cardOk bs = true → badCard quads ((s.queue (cardQsel quads)).ctx == k.ctx) = false → k.fromRing = false →
        ∃ t, exec (.cardFetch q) s = .next t ∧ (t.card c).phase = .ready ∧ (t.card c).quads = quads ∧
          (t.queue q).ready = x.ready.drop 1 ∧ t.mem = s.mem) ∧
      -- a card of the ring: SEEN is set, and it is passed over while predecessors are left
      (∀ u, cardOk bs = true → badCard quads ((s.queue (cardQsel quads)).ctx == k.ctx) = false → k.fromRing = true →
        let w := State.leNum ((bs.drop 8).take 4)
        writes s u (k.va + 8) (State.toLe 4 (w % 2 ^ 31 + 2 ^ 31)) → ∃ t, exec (.cardFetch q) s = .next t ∧
          t.mem = u.mem ∧ (t.queue q).head = (Queue.pastHead x).head ∧
          (w % 2 ^ 31 = 0 → (t.card c).phase = .ready ∧ (t.card c).quads = quads) ∧
          (w % 2 ^ 31 ≠ 0 → Tbl.has t.cards c = false ∧ (t.queue q).card = none ∧
            (t.queue q).passed = x.passed ++ [(k.va, k.dev, quads.getD 0 0)]))) ∧
    -- a released card is taken up before the ring's, with the capability of the entry where it was passed over
    (∀ ctx va rest dev e bs, s.readable q = true → x.rel = none → x.ready = (ctx, va) :: rest → x.ctx = ctx →
      x.passed = [(va, dev, e)] → (∀ p, p < q → (s.queue p).passed = []) →
      let d := s.freshId s.cards
      let w := ((((s.updQueue q fun y => { y with passed := [] }).takeId d).setCard d
        { phase := .fetch, ctx, va, queue := q, dev }).updQueue q fun y => { y with rel := some d, cur := BitVec.ofNat 57 va })
      w.engRead none ctx va 128 = (.ok (bs, false), w) →
      ∃ t, exec (.cardFetch q) s = .next t ∧ (t.queue q).rel = some d ∧ (t.queue q).card = x.card ∧ (t.card d).va = va ∧
        (t.card d).ctx = ctx ∧ (t.card d).dev = dev ∧ (t.card d).fromRing = false) ∧
    (∀ t₀, s.readable q = true → k.rereadAt = some t₀ → only → s.clock < t₀ → exec (.cardReread q) s = .next s) ∧
    (∀ t₀ bs, s.readable q = true → k.rereadAt = some t₀ → only → k.fltWait = false → t₀ ≤ s.clock → k.phase ≠ .entry →
      k.fails < 3 → cardOk bs = false →
      let w := s.updCard c fun y => { y with rereadAt := none }
      w.engRead none k.ctx k.va 128 = (.ok (bs, false), w) →
      exec (.cardReread q) s = .next (w.updCard c fun y => { y with fails := k.fails + 1, rereadAt := some (s.clock + 3000) })) ∧
    -- one step of a card
    (∀ kind, s.isServed c kind = true →
      let s' : State := { s with hbx := { s.hbx with lastServed := k.queue } }
      let runs := fun (i : Instr) (P : State → Prop) => ∃ t, exec i s = .next t ∧ (t.card c).phase = .running ∧ P t
      (kind = kCHAIN → runs (.chain c) fun t => t.queue k.queue = past (s.queue k.queue) ∧ t.mem = s.mem ∧ t.blks = s.blks) ∧
      (∀ u, kind = kSIGNAL → writes s' u (field 3 0 57) (State.toLe 8 (k.quads.getD 4 0).toNat) →
        runs (.signal c) fun t => t.queue k.queue = past (s.queue k.queue) ∧ t.mem = u.mem) ∧
      (kind = kCOPY → copyCapOk k = true → runs (.copy c) fun t =>
        t.queue k.queue = past (s.queue k.queue) ∧ t.mem = s.mem ∧ ∃ cid y, (t.card c).copy = some cid ∧ s.copy cid = none ∧
          t.copy cid = some y ∧ y.bid = none ∧ y.ctx = k.ctx ∧ y.src.start = field 3 0 57 ∧ y.dst.start = field 4 0 57 ∧
          y.rowb = field 5 0 48 ∧ y.nrow = 1) ∧
      (kind = kCOPY → copyCapOk k = false → runs (.copy c) fun t => (t.card c).err = k.err.or (some (8, 0, 0))) ∧
      (∀ bs, kind = kWATCH → s'.engRead none k.ctx (field 3 0 57) 8 = (.ok (bs, false), s') →
        let w := State.leNum bs
        let seq := (k.quads.getD 4 0).toNat
        let hit := (w + 2 ^ 64 - seq) % 2 ^ 64 < 2 ^ 63
        (hit → runs (.watch c) fun t =>
          (t.card c).err = k.err.or (some (1, if w = seq then 0 else 1, w % 2 ^ 32)) ∧ t.mem = s.mem) ∧
        (¬ hit → s.armedCount < 32 → ∃ t, exec (.watch c) s = .next t ∧ (t.card c).phase = .armed ∧
          (t.card c).armedAt = s.clock ∧ t.mem = s.mem) ∧
        (¬ hit → 32 ≤ s.armedCount → ∃ t, exec (.watch c) s = .next t ∧ (t.card c).phase = .ready ∧
          t.queue k.queue = s.queue k.queue ∧ t.mem = s.mem)) ∧
      (∀ d, kind = kTASK → k.desc = some d → field 4 63 1 = 0 → k.recsRead = true → runs (.task c) fun t =>
        t.queue k.queue = past (s.queue k.queue) ∧ t.mem = s.mem ∧ t.blks = s.blks) ∧
      (∀ d bs, kind = kTASK → k.desc = some d → field 4 63 1 = 0 → k.recsRead = false → field 4 0 13 ≤ 4096 →
        field 7 0 57 % 64 = 0 → s'.engRead none k.ctx (field 7 0 57) (64 * field 4 0 13) = (.ok (bs, false), s') →
        let rs := (List.range (field 4 0 13)).map fun i => ((quadsOf bs).drop (8 * i)).take 8
        ((∀ r ∈ rs, recordOk r d k.lcap = true) → runs (.task c) fun t => (t.card c).unposted = rs ∧
          (t.card c).err = k.err ∧ t.mem = s.mem) ∧
        ((∃ r ∈ rs, recordOk r d k.lcap = false) → runs (.task c) fun t => (t.card c).err = k.err.or (some (3, 0, 0))))) ∧
    -- a dispatch step: swapped gangs first, then a yield that is due, then the card chosen; `n` notes which gangs wait
    (let n := s.noteWaiting
     n = { s with blks := n.blks } ∧
     (∀ h, n.readyGangs n.stepPrio = [h] → exec .dispatchStep s = exec (.readmission h) n.tick) ∧
     (∀ h, n.readyGangs n.stepPrio = [] → n.dueGang n.stepPrio = some h → exec .dispatchStep s = exec (.yield h) n) ∧
     (n.readyGangs n.stepPrio = [] → n.dueGang n.stepPrio = none →
      (n.chooseQueue = none → exec .dispatchStep s = .next n) ∧
      (n.chooseQueue = some q → n.servedCard q = some c → cardKind k.quads = kCHAIN →
        ∃ t, exec .dispatchStep s = .next t ∧ (t.card c).phase = .running ∧ t.hbx.lastServed = q ∧ t.mem = s.mem))) ∧
    -- a GRID block of one group is dispatched with the state of 02 R32
    (∀ d core, let n := s.noteWaiting
      n.readyGangs n.stepPrio = [] → n.dueGang n.stepPrio = none → n.chooseQueue = some q →
      n.servedCard q = some c → cardKind k.quads = kGRID → k.desc = some d → d.gang = 0 → d.fuse = false → d.ngrp = 0 → d.tok = 0 → d.mxs = false →
      State.cardRoom { n with hbx := { s.hbx with lastServed := q } } k d = some [core] →
      Tbl.get none s.fused (core / 4) = none →
      ∃ t b, exec .dispatchStep s = .next t ∧ Tbl.has n.blks b = false ∧
        (t.blk b).phase = .resident ∧ (t.blk b).no = k.nextBlk ∧ (t.blk b).ctx = k.ctx ∧ (t.blk b).card = c ∧
        (t.blk b).core = core ∧ (t.blk b).desc = d ∧ (t.blk b).scratch = [] ∧
        (t.card c).nextBlk = k.nextBlk + 1 ∧ (t.card c).live = k.live + 1 ∧
        (let g := t.grp (32 * b)
         g.vregs = [] ∧ g.ended = 0 ∧ Tbl.get 0 g.sregs 0 = k.lcap.bits.extractLsb' 0 64 ∧
           Tbl.get 0 g.sregs 1 = k.lcap.bits.extractLsb' 64 64 ∧ Tbl.get false g.stags 0 = true ∧
           (∀ i, 1 < i → Tbl.get 0 g.sregs i = 0) ∧
           g.slots = [(0, { occ := true, pc := BitVec.ofNat 54 (d.entry / 8), run := -1, fmt := d.fmt })]) ∧
        (∀ a, a ≠ b → t.blk a = n.blk a) ∧ t.mem = s.mem) ∧
    -- WATCH again, and its end
    (∀ bs, k.phase = .armed → k.fltWait = false → k.lastRead + 1024 ≤ s.clock → reads (field 3 0 57) 8 bs →
      let w := State.leNum bs
      let seq := (k.quads.getD 4 0).toNat
      let hit := (w + 2 ^ 64 - seq) % 2 ^ 64 < 2 ^ 63
      (hit → ∃ t, exec (.watchReread c) s = .next t ∧ (t.card c).phase = .running ∧
        (t.card c).err = k.err.or (some (1, if w = seq then 0 else 1, w % 2 ^ 32))) ∧
      (¬ hit → exec (.watchReread c) s = .next (s.updCard c fun k => { k with lastRead := s.clock }))) ∧
    (k.phase = .armed → 0 < field 5 0 32 → k.armedAt + 1024 * field 5 0 32 ≤ s.clock →
      ∃ t, exec (.timeout c) s = .next t ∧ (t.card c).phase = .running ∧ (t.card c).err = k.err.or (some (7, 0, 0)) ∧
        t.mem = s.mem) ∧
    (s.clock < k.armedAt + 1024 * field 5 0 32 → exec (.timeout c) s = .next s) ∧
    -- completion
    (s.unansweredReleased = true → exec (.cardComplete c) s = .next s) ∧
    (Tbl.has s.cards c = true → k.fltWait = false → k.phase ≠ .abort → s.unansweredReleased = false →
      (∀ u : State, k.succ = none → k.live = 0 → k.copy = none → k.phase = .running → k.err = none →
        cardKind k.quads ≠ kTASK →
        writes (s.endInvariants c) u (k.va + 112) (State.toLe 8 (1 * 2 ^ 56) ++ State.toLe 8 s.clock) →
        ∃ t, exec (.cardComplete c) s = .next t ∧
          (k.tokens = 0 → (∀ p ∈ u.ctrWait, ∀ w ∈ p.2, w.who ≠ .headbox c) → t.mem = u.mem) ∧
          t.dev.msi = (if field 0 47 1 = 1 then s.dev.msi ++ [3 + k.queue] else s.dev.msi) ∧ (t.card c).tokens = 0 ∧
          (u.ctrInit State.deckleAt = true → u.waitsOn State.deckleAt = [] →
            (∀ y ∈ u.allows, y.1 / 256 ≠ State.deckleAt / 64) → u.deckle + k.tokens < 2 ^ 48 →
            t.deckle = u.deckle + k.tokens) ∧
          (cardKind k.quads ≠ kCHAIN → (t.card c).succ = some (if field 2 0 57 = 0 then [] else [field 2 0 57]))) ∧
      -- the release of a successor; one in error is read again (log 99)
      (∀ va rest bs, k.succ = some (va :: rest) → k.rereadAt = none → s.engRead none k.ctx va 16 = (.ok (bs, true), s) →
        exec (.cardComplete c) s = .next ((s.logError va).updCard c fun y => { y with rereadAt := some (s.clock + 3000) })) ∧
      (∀ va rest bs u, k.succ = some (va :: rest) → (∀ t₀, k.rereadAt = some t₀ → t₀ ≤ s.clock) → reads va 16 bs →
        let w := State.leNum ((bs.drop 8).take 4)
        let left := (w % 2 ^ 31 + 2 ^ 31 - 1) % 2 ^ 31
        let d := cardQsel (quadsOf bs)
        writes s u (va + 8) (State.toLe 4 (w / 2 ^ 31 * 2 ^ 31 + left)) →
        ∃ t, exec (.cardComplete c) s = .next t ∧ (t.card c).succ = some rest ∧ t.mem = u.mem ∧
          (left = 0 ∧ w / 2 ^ 31 = 1 → (s.queue d).ready.length < 64 →
            (t.queue d).ready = (s.queue d).ready ++ [(k.ctx, va)]) ∧
          (¬ (left = 0 ∧ w / 2 ^ 31 = 1) → t.queues = s.queues)) ∧
      (k.succ = some [] → k.rereadAt = none → exec (.cardComplete c) s = .next (s.setCard c { ctx := k.ctx, va := k.va })) ∧
      (k.live ≠ 0 → k.succ = none → exec (.cardComplete c) s = .next s)) ∧
    -- records; they are posted for a card that is to end with an error too
    (∀ d core r rest, k.desc = some d → k.succ = none → k.phase = .running → k.fltWait = false → k.assigned = [] →
      k.unposted = r :: rest → (s.ctx k.ctx).suspended = false → s.postCore k (field 3 0 57) = some core →
      (r.getD 4 0).toNat < 2 ^ 63 → (r.getD 6 0).toNat < 2 ^ 63 →
      ∃ t e, exec (.taskPost c) s = .next t ∧ Tbl.get [] t.inbox core = Tbl.get [] s.inbox core ++ [e] ∧
        e.quads = r ∧ e.ctx = k.ctx ∧ e.card = c ∧ e.pins = [] ∧ (t.card c).unposted = rest ∧
        (t.card c).posted = k.posted + 1 ∧ (t.card c).lastCore = some core ∧ t.mem = s.mem) ∧
    -- a record whose pins do not fit keeps its core, and the next record may go to the next
    (∀ d core r rest, k.desc = some d → k.succ = none → k.phase = .running → k.fltWait = false → k.assigned = [] →
      k.unposted = r :: rest → (s.ctx k.ctx).suspended = false → s.postCore k (field 3 0 57) = some core →
      let s1 := s.updCard c fun y => { y with unposted := rest, assigned := [(core, r)], lastCore := some core }
      s1.recordFits k core r = false → exec (.taskPost c) s = .next s1) ∧
    (k.desc = none ∨ k.unposted = [] ∧ k.assigned = [] ∨ (s.ctx k.ctx).suspended = true →
      exec (.taskPost c) s = .next s)

/-! ### Swap-out, re-admission, contexts -/

/-- 02 R31, R34 to R36, R41, 09 R195 to R197, R202, 03 R53 to R55, 15 R292, R295, 16 R306: a block whose conditions hold
retires; one that may be swapped out stops with a frame, or posts NOFRAME; a drained one is saved with STATE 1 and then
leaves with STATE 2; an eligible one is loaded again with STATE 3, and then goes on; one that finds no room has another
stop in its place; a lost join is released; SUSPEND, RESUME and END set BUSY and have their effect. Frames are log 45, who
yields log 47, BUSY and END log 48, pins at re-admission log 79. -/
def Obligations.SwapAndContexts : Prop :=
  ∀ (s : State) (bid gid c : Nat),
    let b := s.blk bid
    let ids := s.gangOf bid
    let idle := s.dev.bootDone = true ∧ s.hbx.ctl.getLsbD 63 = false
    let busy := fun op => (BitVec.ofNat 64 (2 ^ 63 + c % 2 ^ 16 * 2 ^ 16 + op) : Quad)
    let tokensBack := fun t : State => s.ctrInit State.deckleAt = true → s.waitsOn State.deckleAt = [] →
      (∀ y ∈ s.allows, y.1 / 256 ≠ State.deckleAt / 64) → s.deckle + b.tokens < 2 ^ 48 → t.deckle = s.deckle + b.tokens
    let state := fun (t : State) (n : Nat) => ∀ a, s.frameAt bid = some a → State.deckleAt + 128 ≤ a → b.ctx < 2 ^ 16 →
      b.no < 2 ^ 32 → t.peekNat a 8 / 2 ^ 62 = n
    -- retirement
    (Tbl.has s.blks bid = true → s.mayRetire bid = true → ∃ t, exec (.retirement bid) s = .next t ∧
      Tbl.has t.blks bid = false ∧ (∀ g, g / 32 = bid → Tbl.has t.grps g = false) ∧ tokensBack t ∧
      (t.card b.card).live = (s.card b.card).live - 1 ∧
      ((∀ p ∈ s.ctrWait, ∀ w ∈ p.2, ∃ g k, w.who = .split g k) → ∀ a, a ≠ bid → t.blk a = s.blk a)) ∧
    (s.mayRetire bid = false → exec (.retirement bid) s = .next s) ∧
    -- the stop
    (ids = [bid] → s.swapCause [bid] = true → b.noframe = false →
      (∀ f fs, s.freeFrames b.ctx = f :: fs → ∃ t, exec (.swapOut bid) s = .next t ∧
        t.blk bid = { b with stopped := true, swapping := true, noframe := false, yieldTo := none, tsusp := s.clock,
                             frame := some f } ∧
        (t.ctx b.ctx).frames = (s.ctx b.ctx).frames ++ [f] ∧ t.grps = s.grps ∧ t.mem = s.mem) ∧
      (s.freeFrames b.ctx = [] → ∃ t r, exec (.swapOut bid) s = .next t ∧ (t.blk bid).noframe = true ∧
        (t.blk bid).stopped = b.stopped ∧ t.flt.held = s.flt.held ++ [r] ∧ r.cause = 6 ∧ r.source = 5 ∧ t.mem = s.mem)) ∧
    (s.swapCause ids = false → exec (.swapOut bid) s = .next s) ∧
    (ids = [bid] → b.noframe = true → b.tsusp + 10000 ≤ s.clock →
      (s.swapCause [bid] = false → b.yieldTo = none →
        exec (.noframeRetest bid) s = .next (s.updBlk bid fun b => { b with noframe := false })) ∧
      (∀ h, s.swapCause [bid] = false → b.yieldTo = some h → s.eligible (s.gangOf h) = true →
        (s.yieldGangs (s.gangOf h)).contains [bid] = true → s.freeFrames b.ctx = [] →
        exec (.noframeRetest bid) s = .next (s.updBlk bid fun b => { b with tsusp := s.clock })) ∧
      (∀ f fs, s.swapCause [bid] = true → s.freeFrames b.ctx = f :: fs → ∃ t, exec (.noframeRetest bid) s = .next t ∧
        (t.blk bid).stopped = true ∧ (t.blk bid).frame = some f ∧ (t.blk bid).noframe = false)) ∧
    (ids = [bid] → s.clock < b.tsusp + 10000 → exec (.noframeRetest bid) s = .next s) ∧
    -- the save: the frame first, then the core
    (ids = [bid] → b.swapping = true → b.poisoned = false → s.farSent = [] →
      (b.saved = false → s.ssuBusy bid = true → exec (.swapSave bid) s = .next s) ∧
      (b.saved = false → s.drained bid = true → s.ssuBusy bid = false →
        ∃ t, exec (.swapSave bid) s = .next t ∧ (t.blk bid).saved = true ∧
        (t.blk bid).phase = b.phase ∧ (t.blk bid).stopped = b.stopped ∧ state t 1) ∧
      (b.saved = true → b.desc.fuse = false → ∃ t, exec (.swapSave bid) s = .next t ∧ (t.blk bid).phase = .swapped ∧
        (t.blk bid).stopped = false ∧ (t.blk bid).swapping = false ∧ (t.blk bid).saved = false ∧
        (t.blk bid).leftCore = b.core ∧ (s.waitsOn State.deckleAt = [] → (t.blk bid).tokens = 0) ∧ state t 2 ∧
        ((∀ a, s.frameAt bid = some a → State.deckleAt + 128 ≤ a) → tokensBack t))) ∧
    (ids = [bid] → b.swapping = false → s.farSent = [] → exec (.swapSave bid) s = .next s) ∧
    -- the return
    (ids = [bid] → b.restoring = false → s.eligible [bid] = true → b.desc.tok ≤ b.tokens →
      s.yielding.any (· != bid) = false →
      (s.roomFor [bid] = none → exec (.readmission bid) s =
        .next (s.updBlk bid fun b => { b with eligibleFrom := b.eligibleFrom.or (some s.clock) })) ∧
      (∀ core f, s.roomFor [bid] = some [core] → s.readFrame bid = some f → s.headerOk bid f.1 = true →
        b.desc.fuse = false → Tbl.get none s.fused (core / 4) = none → (∀ g, g / 32 = bid → (s.grp g).task = none) →
        ∃ t, exec (.readmission bid) s = .next t ∧ ((t.blk bid).phase = .resident ∨ (t.blk bid).phase = .draining) ∧
          (t.blk bid).core = core ∧ (t.blk bid).tokens = b.desc.tok ∧ (t.blk bid).restoring = true ∧
          (t.blk bid).stopped = true ∧ (t.blk bid).frame = b.frame ∧ state t 3)) ∧
    (∀ f, ids = [bid] → b.restoring = true → b.absLog = [] → b.heldLog = [] → b.frame = some f →
      ∃ t, exec (.readmission bid) s = .next t ∧ (t.blk bid).restoring = false ∧ (t.blk bid).stopped = false ∧
        (t.blk bid).phase = b.phase ∧ (t.blk bid).core = b.core ∧ (t.blk bid).frame = none ∧
        f ∉ (t.ctx b.ctx).frames ∧ state t 0) ∧
    ((∀ x ∈ ids, (s.blk x).restoring = false) → s.eligible ids = false → exec (.readmission bid) s = .next s) ∧
    -- the yield
    (∀ t₀, ids = [bid] → s.yielding = none → b.eligibleFrom = some t₀ → s.eligible [bid] = true →
      s.roomFor [bid] = none → t₀ + s.hbx.yield_.toNat ≤ s.clock →
      (s.yieldGangs [bid] = [] → ∃ t, exec (.yield bid) s = .next t ∧ (t.blk bid).eligibleFrom = some s.clock ∧
        t.grps = s.grps ∧ t.mem = s.mem) ∧
      (∀ h f fs, s.yieldGangs [bid] = [[h]] → (s.blk h).noframe = false → h ≠ bid →
        s.freeFrames (s.blk h).ctx = f :: fs → ∃ t, exec (.yield bid) s = .next t ∧ (t.blk h).stopped = true ∧
          (t.blk h).swapping = true ∧ (t.blk h).frame = some f ∧ t.hbx.yieldFor = some bid ∧ t.mem = s.mem)) ∧
    (s.yieldDue ids = false → exec (.yield bid) s = .next s) ∧
    -- lost joins
    (∀ j r, Tbl.has s.grps gid = true → (s.blk (gid / 32)).phase = .resident → (s.blk (gid / 32)).stopped = false →
      s.stuck gid = true → s.heldJoins gid = [(j, r)] → s.freeSlots gid ≠ [] → s.join gid j = r → r.armed = true →
      ∃ t, exec (.lostJoinRelease gid) s = .next t ∧ (t.join gid j).armed = false ∧
        (t.grp gid).gstat.getLsbD 0 = true ∧ (t.grp gid).gstat.toNat / 16 % 8 = j % 8 ∧
        (∃ k, k ∈ s.freeSlots gid ∧ (t.slotAt gid k).occ = true ∧ (t.slotAt gid k).run = r.arrived ∧
          (t.slotAt gid k).pc = r.dpc + 1 ∧ (t.slotAt gid k).fmt = r.fmt)) ∧
    (s.stuck gid = false → exec (.lostJoinRelease gid) s = .next s) ∧
    -- contexts
    (s.hbx.ctl.getLsbD 63 = true → exec (.suspend c) s = .next s ∧ exec (.resume c) s = .next s ∧
      exec (.endCtx c) s = .next s) ∧
    (idle → Tbl.has s.ctxs c = true → (s.ctx c).fw = false →
      (∃ t, exec (.suspend c) s = .next t ∧ t.hbx.ctl = busy 1 ∧ (t.ctx c).suspended = true ∧
        (∀ h, t.hbx.yieldFor = some h → (s.blk h).ctx ≠ c) ∧
        (∀ d, d ≠ c → t.ctx d = s.ctx d) ∧ t.blks = s.blks ∧ t.mem = s.mem) ∧
      ((s.ctx c).ended = false → s.dev.fwerr = false → ∃ t, exec (.resume c) s = .next t ∧ t.hbx.ctl = busy 3 ∧
        (t.ctx c).suspended = false ∧ (∀ d, d ≠ c → t.ctx d = s.ctx d) ∧ t.blks = s.blks ∧ t.mem = s.mem) ∧
      (s.dev.fwerr = true → ∃ t, exec (.resume c) s = .next t ∧ t.hbx.ctl = busy 3 ∧ t.ctxs = s.ctxs) ∧
      (0 < c → ∃ t, exec (.endCtx c) s = .next t ∧ t.hbx.ctl = busy 2 ∧ (t.ctx c).ended = true ∧
        (t.ctx c).suspended = true ∧ (∀ p ∈ t.blks, p.2.ctx ≠ c) ∧
        (∀ p ∈ t.cards, p.2.ctx = c → p.2.phase = .abort) ∧ ∀ y ∈ t.allows, y.2.ctx ≠ c)) ∧
    (s.hbx.ctl.getLsbD 63 = false → exec .ctxctlComplete s = .next s) ∧
    (s.hbx.ctl.getLsbD 63 = true → s.hbx.ctl.toNat % 4 = 3 → ∃ t, exec .ctxctlComplete s = .next t ∧
      t = { s with hbx := t.hbx } ∧ t.hbx = { s.hbx with ctl := t.hbx.ctl } ∧
      t.hbx.ctl.toNat = s.hbx.ctl.toNat - 2 ^ 63) ∧
    (s.hbx.ctl.getLsbD 63 = true → s.hbx.ctl.toNat % 4 = 1 →
      s.ctxOut (s.hbx.ctl.toNat / 2 ^ 16 % 2 ^ 16) = false → exec .ctxctlComplete s = .next s) ∧
    (∀ d, s.hbx.ctl.getLsbD 63 = true → d = s.hbx.ctl.toNat / 2 ^ 16 % 2 ^ 16 →
      (s.hbx.ctl.toNat % 4 = 1 → s.ctxOut d = true → ∃ t, exec .ctxctlComplete s = .next t ∧
        t.hbx.ctl.getLsbD 63 = false ∧ ∀ p ∈ t.allows, p.2.ctx ≠ d) ∧
      (s.hbx.ctl.toNat % 4 = 2 → s.userCtx d = true → s.allAborted d = false → exec .ctxctlComplete s = .next s) ∧
      (s.hbx.ctl.toNat % 4 = 2 → s.userCtx d = true → s.allAborted d = true → ∃ t, exec .ctxctlComplete s = .next t ∧
        t.hbx.ctl.getLsbD 63 = false ∧ (t.ctx d).endDone = true))

/-! ### The whole machine -/

/-- Right after reset, with the values that the register tables and 06 R110 state: boot not begun, P = 512, the registers of
Tables 9.5, 13.1, 16.2 and 16.8, HBX_YIELD and DKL_MIN at their reset values, nothing resident, and every table in form.
The empty memory and the free clock are the model's choice (logs 1 and 2) and no rule of the spec. -/
def Obligations.Reset : Prop :=
  let r := State.reset
  r.Forms ∧ r.bootsts = 0 ∧ r.dev.clmask = 0 ∧ r.dev.p = 512 ∧ r.dev.fwref = 0 ∧ r.dev.winbase = 0 ∧ r.dev.winlim = 0 ∧
    r.hbx.yield_ = 150000 ∧ r.hbx.dklMin = 128 ∧ r.flt.ringbase = 0 ∧ r.flt.ringsize = 6 ∧ r.flt.head = 0 ∧ r.flt.tail = 0 ∧
    (∀ q, r.queueRead q 0x08 = 4 ∧ ∀ o, o ≠ 0x08 → r.queueRead q o = 0) ∧
    r.ctxs = [] ∧ r.blks = [] ∧ r.cards = [] ∧ r.copies = [] ∧ ∀ off, r.bar0Read off = 0

/-- In every state in form, whichever turn the step takes, the next state is in form. An acknowledgement that gives a core
a line finds no other owner of it (08 R161), which is a premise here. -/
def Obligations.StepKeepsForm : Prop :=
  ∀ (s t : State), s.Forms → step s = .next t →
    (∀ core line, s.agenda.head? = some (.event (.acknowledgement core line)) →
      ∀ p ∈ s.lines, p.1 / 256 = line → p.2.owned = true → p.1 % 256 = core) →
    t.Forms

/-- What a step does with the head of the agenda: an event runs, a thread and a sequencer run the word that stands where
they are, and a port runs both words of the bundle at the split's pc (18 R335, 10 R209, 11 R237), unless an issue-time check
fails (15 R286); a C-word that waited goes on (logs 8, 10, 11, 13). The bundle is what `fetch` gives, and that is what stands in memory where the
page is cached and the instruction cache holds no other copy of the line for that context. -/
def Obligations.StepRuns : Prop :=
  ∀ (s : State) (rest : List Turn),
    let s1 : State := { s with agenda := rest }
    let sp := s1.perform none
    (∀ core ctx va x, s.farQ = [] → s.L1Ok → State.findTlb (Tbl.get [] s.l1tlb core) ctx va = some x → x.permits .exec = true →
      s.fwRefused ctx x va = false → x.tgt = 0 →
      let pa := State.Tlb.pa x va
      let line := State.lineOf pa
      let held := Tbl.get (0, []) s.icache (State.lineKey line core)
      s.blocked 0 pa 8 = false → s.bad pa 8 = false →
      held.1 ≠ ctx ∨ held.2 = [] ∨ held.2 = s.peekBytes (128 * line) 128 →
      ∃ v, s.fetch core ctx va 8 = (.ok (s.peekBytes pa 8), v) ∧ ∀ b, v.peek b = s.peek b) ∧
    (s.agenda = [] → step s = .next (s.passTime 1)) ∧
    (∀ t, s.agenda = t :: rest → s.pwr.stopped = true → t ≠ .event .perstAssert → step s = .next s1) ∧
    (s.pwr.stopped = false →
      (∀ i, s.agenda = .event i :: rest → i.isEvent = true → step s = exec i sp.tick) ∧
      (∀ n, s.agenda = .clock n :: rest → step s = .next (sp.passTime n)) ∧
      (∀ core skip k, s.agenda = .trp core skip :: rest → sp.trpPick core skip = some k →
        let u : State := { sp.tick with issue := { thr := 64 * core + k } }
        (u.tp.phase = .ended → step s = .next u.finishQuery) ∧
        (∀ v bs, u.tp.phase ≠ .ended → u.ncRead u.wordAt 4 .exec = .ok (v, bs) →
          (∀ i, decodeT (State.leNum bs) = .ok i → step s = exec i v) ∧
          (∀ e, decodeT (State.leNum bs) = .error e → step s = .next (v.endQuery qILLEGAL u.wordAt)))) ∧
      (∀ bid, s.agenda = .seq bid :: rest → sp.seqLive bid = true →
        ((sp.seq bid).word = none → step s = exec (.streamFetch bid) sp) ∧
        (∀ w i, (sp.seq bid).word = some w → decodeMx w.toNat = .ok i →
          step s = exec i { sp.tick with issue := { gid := 32 * bid } })) ∧
      (∀ core part port skip gid slot new, s.agenda = .port core part port skip :: rest →
        sp.gatedPart core part = false → sp.pick core part port skip = some ((gid, slot), new) →
        let u := sp.tick.startIssue (State.portKey core part port) gid slot new
        let ends := fun (v t : State) (c : Instr) => (sp.notIssued (v.unlessHeld t)).finish c
        (∀ bs f, u.sl.again = none → u.fetch u.core u.ctxId u.issue.addr 8 = (.ok bs, f) →
          let v := f.updSl fun sl => { sl with parked := none, unf := 0 }
          (∀ e, decodeBundleBytes bs = .error e → step s = .next (ends v (v.takeTrap { code := 1 }) .nop)) ∧
          (∀ b, decodeBundleBytes bs = .ok b →
            let w := v.loadBundle b
            let w1 : State := { w with issue := { w.issue with checked := true } }
            let causes := (b.c :: b.a.toList).flatMap w.issueCauses
            (∀ k, State.firstCause causes = some k → step s = .next (ends v (w.takeIssueTrap k) b.c)) ∧
            (State.firstCause causes = none → b.c.isControl = false → ∀ x, exec b.c w1 = .next x →
              (x.waits = false → x.issue.out ≠ .advance → step s = .next (ends v x b.c)) ∧
              (b.a = none → x.waits = false → step s = .next (ends v x b.c)) ∧
              (b.a = none → x.waits = true → step s = .next (ends v (x.remember x b) b.c)) ∧
              (∀ i y, b.a = some i → exec i x = .next y →
                (x.waits = true → step s = .next (ends v (x.remember y b) b.c)) ∧
                (x.waits = false → x.issue.out = .advance → w1.collides b = false → step s = .next (ends v y b.c)))) ∧
            (State.firstCause causes = none → b.c.isControl = true →
              (∀ y, b.a = none → exec b.c w1 = .next y → y.issue.out ≠ .trapped → y.issue.out ≠ .stay →
                step s = .next (ends v y b.c)) ∧
              (∀ i x y, b.a = some i → exec i w1 = .next x → exec b.c x = .next y → y.issue.out ≠ .trapped →
                y.issue.out ≠ .stay → step s = .next (ends v y b.c))))) ∧
        (∀ g x, u.sl.again = some g →
          exec g.word { u with issue := { u.issue with
            active := g.active, mm := g.mm, snap := some g.snap, checked := true, replay := u.sl.parked.isSome } } = .next x →
          (x.issue.out = .stay → step s = .next (ends u x g.word)) ∧
          (x.issue.out ≠ .stay →
            let y := x.updSl fun sl => { sl with again := none }
            step s = .next (ends u (if x.issue.out = .advance then y.applyA g else y) g.word)))))

/-- 17 R315 to R329: words written out from the encoding tables, one or more of each family, and opcodes that are
reserved. -/
def Obligations.DecodeWords : Prop :=
  decodeA 0x75D81840 = .ok (.fcmp .lt false { dst := 118, srcA := 3, srcB := 4, pred := 0, mm := false, nwb := false }) ∧
    decodeC 0x140F0580 0 = .ok (.acTake { sel := 3, sn := 24, sd := 5, wt := true, ext := none }) ∧
    decodeC 0x306C23C9 0 = .ok (.atom .add false { ord := 3, scope := 3, data := 4, sel := 15, off := 9, ext := none }) ∧
    decodeC 0x90820040 0x4000 = .error .reservedValue ∧
    decodeC 0x01C2FFFF 0 = .ok (.bra 2 2 0xFFFF none) ∧
    decodeMx 0x2001000000000000 = .ok (.mxRel 0 2) ∧
    decodeT 0x3903FFFB = .ok (.brT .ste 0 0x3FFFB) ∧
    decodeT 0 = .error .reservedOpcode ∧ decodeMx (11 * 2 ^ 58) = .error .reservedOpcode

/-- For every well-formed instruction, whatever its operands: the word that the encoding tables give it fits its width and
decodes to that instruction (17 R315 to R329). -/
def Obligations.RoundTrips : Prop :=
  ∀ i : Instr, i.wf = true →
    (∀ e, encodeC i = some e → e.word < 2 ^ 32 ∧ e.second < 2 ^ 32 ∧
      decodeBundle e.word e.second = .ok { c := i, a := if e.ext.isSome then none else some (.anop 0) }) ∧
    (∀ w, encodeA i = some w → w < 2 ^ 32 ∧ decodeA w = .ok i) ∧
    (∀ w, encodeMx i = some w → w < 2 ^ 64 ∧ decodeMx w = .ok i) ∧
    (∀ w, encodeT i = some w → w < 2 ^ 32 ∧ decodeT w = .ok i)

/-- 16 R313: the registers of Table 16.8. The reset values, the two registers that keep their value on a write outside
their range, and the other RW registers, which store the value written; the RO registers do not change. -/
def Obligations.PowerRegisters : Prop :=
  (let r := State.reset.pwr
   r.budget = 520 ∧ r.tjhot = 95 ∧ r.tjtrip = 105 ∧ r.gate = 75000 ∧ r.pgate = 1500000 ∧ r.hang = 3000000000 ∧
     r.power = 0 ∧ r.tj = 0 ∧ r.trip = false) ∧
  ∀ (s : State) (v : BitVec 64), s.dev.bootDone = true →
    let writes := fun (off : Nat) (p : Power) => exec (.registerWrite (0x40000 + off) v) s = .next { s with pwr := p }
    writes 0x000 { s.pwr with budget := if 200 ≤ v.toNat ∧ v.toNat ≤ 520 then v else s.pwr.budget } ∧
    writes 0x008 { s.pwr with tjhot := if 60 ≤ v.toNat ∧ v.toNat ≤ 100 then v else s.pwr.tjhot } ∧
    writes 0x018 { s.pwr with gate := v } ∧ writes 0x020 { s.pwr with pgate := v } ∧ writes 0x028 { s.pwr with hang := v } ∧
    writes 0x010 s.pwr ∧ writes 0x030 s.pwr ∧ writes 0x038 s.pwr ∧ writes 0x040 s.pwr

/-- 18 R371, R338, R357, R367, 20 R412, R423, R443, 19 R376, R395, R396, 07 R155: words of control, of the operand slots and
accumulators, of monitors, caches and translations, the triangle test and a host completion, where nothing stands in their
way. Each answers a next state, and that state differs from the one before only in what the word is for. -/
def Obligations.Completions : Prop :=
  ∀ (s : State),
    let others := fun t : State => (∀ b, b ≠ s.bid → t.blk b = s.blk b) ∧ t.b = { s.b with mx := t.b.mx }
    let regs := fun (t : State) (r : Nat) => (∀ a, t.peek a = s.peek a) ∧ t.blks = s.blks ∧
      (t.grp s.gid).sregs = s.g.sregs ∧ ∀ x k, k < 32 → x ≠ r → t.vcell s.gid x k = s.vcell s.gid x k
    (s.Acts .exit → s.sl.run &&& ~~~s.active ≠ 0 → s.sl.occ = true → s.g.par = none → s.g.ended ||| s.active ≠ -1 →
      ∃ t, exec .exit s = .next t ∧ t = { s with grps := t.grps, issue := t.issue } ∧
        t.g = { s.g with slots := t.g.slots, ended := s.g.ended ||| s.active } ∧
        t.sl = { s.sl with run := s.sl.run &&& ~~~s.active, pc := s.nextPc } ∧
        ∀ k, k ≠ s.issue.slot → t.slotAt s.gid k = s.slotAt s.gid k) ∧
    (∀ cnt len stride floor, s.Acts (.rep cnt len stride floor) → exec (.rep cnt len stride floor) s =
      .next ((s.updSl fun sl => { sl with act := true, pass := 0, idx := 0, pc := s.nextPc, repBody := s.nextPc, repCnt := cnt + 1,
                                          repLen := len + 1, repStride := stride, repFloor := floor }).setOut .jumped)) ∧
    (∀ scope, s.Acts (.fence scope) → s.Released → ∃ t, exec (.fence scope) s = .next t ∧
      t = { s with pending := t.pending, icache := t.icache } ∧ (scope < 3 → t.icache = s.icache)) ∧
    (∀ slot cnt,
      let all := fun (u : State) (st : SlotState) => ∀ k, (∃ i, i ≤ cnt ∧ k = (slot + i) % 32) → (u.hdr s.bid k).st = st
      (s.Acts (.oclaim slot cnt) → all s .empty → ∃ t, exec (.oclaim slot cnt) s = .next t ∧ t = { s with blks := t.blks } ∧
        others t ∧ all t .claimed ∧ (t.mx s.bid).acc = (s.mx s.bid).acc ∧ (t.mx s.bid).opmem = (s.mx s.bid).opmem) ∧
      (s.Acts (.orel slot cnt) → all s .claimed → ∃ t, exec (.orel slot cnt) s = .next t ∧ t = { s with blks := t.blks } ∧
        others t ∧ all t .filled ∧ (t.mx s.bid).acc = (s.mx s.bid).acc)) ∧
    (∀ v sd q lone k, s.accSeg sd q = .ok k →
      (s.Acts (.accLd v sd q lone) → ∃ t, exec (.accLd v sd q lone) s = .next t ∧ s.OnlyRegs t [s.vname v]) ∧
      (s.Acts (.accSt v sd q lone) → ∃ t, exec (.accSt v sd q lone) s = .next t ∧ t = { s with blks := t.blks } ∧ others t ∧
        (t.mx s.bid).opmem = (s.mx s.bid).opmem ∧ (t.mx s.bid).hdrs = (s.mx s.bid).hdrs ∧
        (t.mx s.bid).scale = (s.mx s.bid).scale)) ∧
    (∀ (o : VmOp) (l va pa : Nat), s.Quiet → s.OneLane l → s.core < 152 →
      s.laneAddrs false 4 pLOAD o.sel 63 o.off o.ext s.active = .ok [(l, va)] → va % 4 = 0 →
      s.Hits .read 4 [(l, va)] (fun _ => pa) → (s.dir (State.lineOf pa)).ctr = false →
      (s.Acts (.mwatch o) → s.sl.monitor = {} → ∃ t, exec (.mwatch o) s = .next t ∧ regs t (s.vname o.data)) ∧
      (s.Acts (.mwait o) → s.sl.monitor.ev = true → ∃ t, exec (.mwait o) s = .next t ∧ regs t (s.vname o.data))) ∧
    (∀ (o : DaOp) (l va pa : Nat), s.Quiet → s.L1Ok → s.core < 152 →
      s.laneAddrs false 1 pLOAD o.sel 124 o.off o.ext s.active = .ok [(l, va)] → s.Hits .read 1 [(l, va)] (fun _ => pa) →
      (s.Acts (.cacheCln o) → ∃ t, exec (.cacheCln o) s = .next t ∧ ∀ r, regs t r) ∧
      (s.Acts (.cacheInv o) → ∃ t, exec (.cacheInv o) s = .next t ∧ ∀ r, regs t r)) ∧
    (∀ sa sb,
      let ctx := (s.sreg sa).toNat % 2 ^ 16
      let code := (s.sreg sb).toNat % 8
      let base := (s.sreg sb).toNat / 2 ^ 12 % 2 ^ 45 * 2 ^ 12
      s.Acts (.tlbInv sa sb) → s.translatedLeft ctx code base (s.coveredPages ctx code base) = false →
      ∃ t, exec (.tlbInv sa sb) s = .next t ∧ t = { s with l1tlb := t.l1tlb, l2tlb := t.l2tlb, hist := t.hist }) ∧
    (∀ a (m : BitVec 13) bs, State.leNum ((bs.drop 40).take 8) = 0 →
      ((s.treg a).toNat % 16 = 0 → s.NodeBytes (s.treg a).toNat 48 bs → ∃ t, exec (.trit a) s = .next t ∧
        s.TrSteps t (fun p => { p with cand := t.tp.cand })) ∧
      ((s.treg a + m.signExtend 64).toNat % 16 = 0 → s.NodeBytes (s.treg a + m.signExtend 64).toNat 48 bs →
        ∃ t, exec (.tritImm a m) s = .next t ∧ s.TrSteps t (fun p => { p with cand := t.tp.cand }))) ∧
    (∀ (w : Pending) (x : ParkedLane), s.pending = [w] → w.tgt = 1 → w.write = none → w.red = none →
      (s.slotAt w.gid w.slot).parked = some { lanes := [x] } → x.out = some w.id → x.dest ≠ none →
      ∃ t, exec (.hostCompletion w.id) s = .next t ∧ t = { s with pending := [], grps := t.grps } ∧
        t.slotAt w.gid w.slot = { s.slotAt w.gid w.slot with
          parked := some { lanes := [{ x with ok := true }], resolved := true } })
end

