-- ==== Sys2Proof/Laws/Exec.lean ====
section
/-! SUPPORT. The arm of each constructor in `exec`. -/

namespace Sys2Proof.Machine

@[simp] theorem exec_nop (s : State) : exec (.nop) s = execNop s := rfl
@[simp] theorem exec_imm {v} (s : State) : exec (.imm v) s = execImm v s := rfl
@[simp] theorem exec_sarg {sv} (s : State) : exec (.sarg sv) s = execSarg sv s := rfl
@[simp] theorem exec_bra {cond} {sv} {off} {ext} (s : State) : exec (.bra cond sv off ext) s = execBra cond sv off ext s := rfl
@[simp] theorem exec_brc {inv} {m} {off} {ext} (s : State) : exec (.brc inv m off ext) s = execBrc inv m off ext s := rfl
@[simp] theorem exec_brx {v} (s : State) : exec (.brx v) s = execBrx v s := rfl
@[simp] theorem exec_call {v} {off} {ext} (s : State) : exec (.call v off ext) s = execCall v off ext s := rfl
@[simp] theorem exec_ret {v} (s : State) : exec (.ret v) s = execRet v s := rfl
@[simp] theorem exec_jset {j} (s : State) : exec (.jset j) s = execJset j s := rfl
@[simp] theorem exec_join {j} (s : State) : exec (.join j) s = execJoin j s := rfl
@[simp] theorem exec_exit (s : State) : exec (.exit) s = execExit s := rfl
@[simp] theorem exec_rep {cnt} {len} {stride} {floor} (s : State) : exec (.rep cnt len stride floor) s = execRep cnt len stride floor s := rfl
@[simp] theorem exec_trap {code} (s : State) : exec (.trap code) s = execTrap code s := rfl
@[simp] theorem exec_bkpt (s : State) : exec (.bkpt) s = execBkpt s := rfl
@[simp] theorem exec_eret (s : State) : exec (.eret) s = execEret s := rfl
@[simp] theorem exec_fence {scope} (s : State) : exec (.fence scope) s = execFence scope s := rfl
@[simp] theorem exec_sMov {sd} {sa} (s : State) : exec (.sMov sd sa) s = execSMov sd sa s := rfl
@[simp] theorem exec_sLi {sd} {hi} {v} {ext} (s : State) : exec (.sLi sd hi v ext) s = execSLi sd hi v ext s := rfl
@[simp] theorem exec_sAdd {sd} {sa} {b} (s : State) : exec (.sAdd sd sa b) s = execSAdd sd sa b s := rfl
@[simp] theorem exec_sSub {sd} {sa} {b} (s : State) : exec (.sSub sd sa b) s = execSSub sd sa b s := rfl
@[simp] theorem exec_sMul {sd} {sa} {b} (s : State) : exec (.sMul sd sa b) s = execSMul sd sa b s := rfl
@[simp] theorem exec_sAnd {sd} {sa} {b} (s : State) : exec (.sAnd sd sa b) s = execSAnd sd sa b s := rfl
@[simp] theorem exec_sOr {sd} {sa} {b} (s : State) : exec (.sOr sd sa b) s = execSOr sd sa b s := rfl
@[simp] theorem exec_sXor {sd} {sa} {b} (s : State) : exec (.sXor sd sa b) s = execSXor sd sa b s := rfl
@[simp] theorem exec_sShl {sd} {sa} {b} (s : State) : exec (.sShl sd sa b) s = execSShl sd sa b s := rfl
@[simp] theorem exec_sShr {sd} {sa} {b} (s : State) : exec (.sShr sd sa b) s = execSShr sd sa b s := rfl
@[simp] theorem exec_sSra {sd} {sa} {b} (s : State) : exec (.sSra sd sa b) s = execSSra sd sa b s := rfl
@[simp] theorem exec_sCmp {sd} {sa} {b} {cc} (s : State) : exec (.sCmp sd sa b cc) s = execSCmp sd sa b cc s := rfl
@[simp] theorem exec_sRsr {sv} {num} (s : State) : exec (.sRsr sv num) s = execSRsr sv num s := rfl
@[simp] theorem exec_sWsr {num} {b} (s : State) : exec (.sWsr num b) s = execSWsr num b s := rfl
@[simp] theorem exec_sLd {sz} {o} (s : State) : exec (.sLd sz o) s = execSLd sz o s := rfl
@[simp] theorem exec_vbc {v} {sv} (s : State) : exec (.vbc v sv) s = execVbc v sv s := rfl
@[simp] theorem exec_sxv {sv} {v} {lane} (s : State) : exec (.sxv sv v lane) s = execSxv sv v lane s := rfl
@[simp] theorem exec_vote {mode} {sv} {v} (s : State) : exec (.vote mode sv v) s = execVote mode sv v s := rfl
@[simp] theorem exec_barInit {bar} {cnt} {sv} {ext} (s : State) : exec (.barInit bar cnt sv ext) s = execBarInit bar cnt sv ext s := rfl
@[simp] theorem exec_barArv {bar} (s : State) : exec (.barArv bar) s = execBarArv bar s := rfl
@[simp] theorem exec_barWait {bar} {p} (s : State) : exec (.barWait bar p) s = execBarWait bar p s := rfl
@[simp] theorem exec_barArw {bar} (s : State) : exec (.barArw bar) s = execBarArw bar s := rfl
@[simp] theorem exec_barTx {bar} {sv} {ext} (s : State) : exec (.barTx bar sv ext) s = execBarTx bar sv ext s := rfl
@[simp] theorem exec_barRem {bar} {k} (s : State) : exec (.barRem bar k) s = execBarRem bar k s := rfl
@[simp] theorem exec_acInit {o} (s : State) : exec (.acInit o) s = execAcInit o s := rfl
@[simp] theorem exec_acTake {o} (s : State) : exec (.acTake o) s = execAcTake o s := rfl
@[simp] theorem exec_acGive {o} (s : State) : exec (.acGive o) s = execAcGive o s := rfl
@[simp] theorem exec_acRead {o} (s : State) : exec (.acRead o) s = execAcRead o s := rfl
@[simp] theorem exec_acDrop {o} (s : State) : exec (.acDrop o) s = execAcDrop o s := rfl
@[simp] theorem exec_cpy {db} (s : State) : exec (.cpy db) s = execCpy db s := rfl
@[simp] theorem exec_cpyG {db} {off} (s : State) : exec (.cpyG db off) s = execCpyG db off s := rfl
@[simp] theorem exec_cpyS {db} {off} (s : State) : exec (.cpyS db off) s = execCpyS db off s := rfl
@[simp] theorem exec_sclCpy {db} (s : State) : exec (.sclCpy db) s = execSclCpy db s := rfl
@[simp] theorem exec_capBnd {o} (s : State) : exec (.capBnd o) s = execCapBnd o s := rfl
@[simp] theorem exec_capPrm {o} (s : State) : exec (.capPrm o) s = execCapPrm o s := rfl
@[simp] theorem exec_capOfs {o} (s : State) : exec (.capOfs o) s = execCapOfs o s := rfl
@[simp] theorem exec_capGet {o} {fld} (s : State) : exec (.capGet o fld) s = execCapGet o fld s := rfl
@[simp] theorem exec_capTst {o} (s : State) : exec (.capTst o) s = execCapTst o s := rfl
@[simp] theorem exec_oclaim {slot} {cnt} (s : State) : exec (.oclaim slot cnt) s = execOclaim slot cnt s := rfl
@[simp] theorem exec_orel {slot} {cnt} (s : State) : exec (.orel slot cnt) s = execOrel slot cnt s := rfl
@[simp] theorem exec_accLd {v} {sd} {q} {lone} (s : State) : exec (.accLd v sd q lone) s = execAccLd v sd q lone s := rfl
@[simp] theorem exec_accSt {v} {sd} {q} {lone} (s : State) : exec (.accSt v sd q lone) s = execAccSt v sd q lone s := rfl
@[simp] theorem exec_qlaunch {o} (s : State) : exec (.qlaunch o) s = execQlaunch o s := rfl
@[simp] theorem exec_qtake {v} {cq} (s : State) : exec (.qtake v cq) s = execQtake v cq s := rfl
@[simp] theorem exec_selk {o} (s : State) : exec (.selk o) s = execSelk o s := rfl
@[simp] theorem exec_splat {o} (s : State) : exec (.splat o) s = execSplat o s := rfl
@[simp] theorem exec_inbox (s : State) : exec (.inbox) s = execInbox s := rfl
@[simp] theorem exec_commit (s : State) : exec (.commit) s = execCommit s := rfl
@[simp] theorem exec_jobpost {q} {o} (s : State) : exec (.jobpost q o) s = execJobpost q o s := rfl
@[simp] theorem exec_ld {sz} {o} (s : State) : exec (.ld sz o) s = execLd sz o s := rfl
@[simp] theorem exec_ldInv {sz} {o} (s : State) : exec (.ldInv sz o) s = execLdInv sz o s := rfl
@[simp] theorem exec_st {sz} {o} (s : State) : exec (.st sz o) s = execSt sz o s := rfl
@[simp] theorem exec_ldc {o} (s : State) : exec (.ldc o) s = execLdc o s := rfl
@[simp] theorem exec_ldcSpair {o} (s : State) : exec (.ldcSpair o) s = execLdcSpair o s := rfl
@[simp] theorem exec_stc {o} (s : State) : exec (.stc o) s = execStc o s := rfl
@[simp] theorem exec_mwatch {o} (s : State) : exec (.mwatch o) s = execMwatch o s := rfl
@[simp] theorem exec_mwait {o} (s : State) : exec (.mwait o) s = execMwait o s := rfl
@[simp] theorem exec_cacheCln {o} (s : State) : exec (.cacheCln o) s = execCacheCln o s := rfl
@[simp] theorem exec_cacheInv {o} (s : State) : exec (.cacheInv o) s = execCacheInv o s := rfl
@[simp] theorem exec_tlbInv {sa} {sb} (s : State) : exec (.tlbInv sa sb) s = execTlbInv sa sb s := rfl
@[simp] theorem exec_atom {op} {z} {o} (s : State) : exec (.atom op z o) s = execAtom op z o s := rfl
@[simp] theorem exec_red {op} {z} {o} (s : State) : exec (.red op z o) s = execRed op z o s := rfl
@[simp] theorem exec_lds {sz} {o} (s : State) : exec (.lds sz o) s = execLds sz o s := rfl
@[simp] theorem exec_sts {sz} {o} (s : State) : exec (.sts sz o) s = execSts sz o s := rfl
@[simp] theorem exec_atoms {op} {o} (s : State) : exec (.atoms op o) s = execAtoms op o s := rfl
@[simp] theorem exec_anop {pred} (s : State) : exec (.anop pred) s = execAnop pred s := rfl
@[simp] theorem exec_iadd {l} {o} (s : State) : exec (.iadd l o) s = execIadd l o s := rfl
@[simp] theorem exec_isub {l} {o} (s : State) : exec (.isub l o) s = execIsub l o s := rfl
@[simp] theorem exec_imul {l} {o} (s : State) : exec (.imul l o) s = execImul l o s := rfl
@[simp] theorem exec_imulh {u} {o} (s : State) : exec (.imulh u o) s = execImulh u o s := rfl
@[simp] theorem exec_imad {o} (s : State) : exec (.imad o) s = execImad o s := rfl
@[simp] theorem exec_iabs {o} (s : State) : exec (.iabs o) s = execIabs o s := rfl
@[simp] theorem exec_iand {o} (s : State) : exec (.iand o) s = execIand o s := rfl
@[simp] theorem exec_ior {o} (s : State) : exec (.ior o) s = execIor o s := rfl
@[simp] theorem exec_ixor {o} (s : State) : exec (.ixor o) s = execIxor o s := rfl
@[simp] theorem exec_ishl {l} {o} (s : State) : exec (.ishl l o) s = execIshl l o s := rfl
@[simp] theorem exec_ishr {l} {o} (s : State) : exec (.ishr l o) s = execIshr l o s := rfl
@[simp] theorem exec_isra {l} {o} (s : State) : exec (.isra l o) s = execIsra l o s := rfl
@[simp] theorem exec_popc {o} (s : State) : exec (.popc o) s = execPopc o s := rfl
@[simp] theorem exec_clz {o} (s : State) : exec (.clz o) s = execClz o s := rfl
@[simp] theorem exec_brev {o} (s : State) : exec (.brev o) s = execBrev o s := rfl
@[simp] theorem exec_imin {u} {o} (s : State) : exec (.imin u o) s = execImin u o s := rfl
@[simp] theorem exec_imax {u} {o} (s : State) : exec (.imax u o) s = execImax u o s := rfl
@[simp] theorem exec_isel {k} {o} (s : State) : exec (.isel k o) s = execIsel k o s := rfl
@[simp] theorem exec_icmp {cc} {o} (s : State) : exec (.icmp cc o) s = execIcmp cc o s := rfl
@[simp] theorem exec_fadd {d} {o} (s : State) : exec (.fadd d o) s = execFadd d o s := rfl
@[simp] theorem exec_fsub {d} {o} (s : State) : exec (.fsub d o) s = execFsub d o s := rfl
@[simp] theorem exec_fmul {d} {o} (s : State) : exec (.fmul d o) s = execFmul d o s := rfl
@[simp] theorem exec_ffma {d} {o} (s : State) : exec (.ffma d o) s = execFfma d o s := rfl
@[simp] theorem exec_fmin {d} {o} (s : State) : exec (.fmin d o) s = execFmin d o s := rfl
@[simp] theorem exec_fmax {d} {o} (s : State) : exec (.fmax d o) s = execFmax d o s := rfl
@[simp] theorem exec_fabs {d} {o} (s : State) : exec (.fabs d o) s = execFabs d o s := rfl
@[simp] theorem exec_fcls {d} {o} (s : State) : exec (.fcls d o) s = execFcls d o s := rfl
@[simp] theorem exec_frcp {d} {o} (s : State) : exec (.frcp d o) s = execFrcp d o s := rfl
@[simp] theorem exec_frsq {o} (s : State) : exec (.frsq o) s = execFrsq o s := rfl
@[simp] theorem exec_fsqrt {d} {o} (s : State) : exec (.fsqrt d o) s = execFsqrt d o s := rfl
@[simp] theorem exec_fex2 {o} (s : State) : exec (.fex2 o) s = execFex2 o s := rfl
@[simp] theorem exec_flg2 {o} (s : State) : exec (.flg2 o) s = execFlg2 o s := rfl
@[simp] theorem exec_fsin {o} (s : State) : exec (.fsin o) s = execFsin o s := rfl
@[simp] theorem exec_fcos {o} (s : State) : exec (.fcos o) s = execFcos o s := rfl
@[simp] theorem exec_fcmp {cc} {d} {o} (s : State) : exec (.fcmp cc d o) s = execFcmp cc d o s := rfl
@[simp] theorem exec_cvt {dst} {o} (s : State) : exec (.cvt dst o) s = execCvt dst o s := rfl
@[simp] theorem exec_packH {o} (s : State) : exec (.packH o) s = execPackH o s := rfl
@[simp] theorem exec_packBl {o} (s : State) : exec (.packBl o) s = execPackBl o s := rfl
@[simp] theorem exec_packBh {o} (s : State) : exec (.packBh o) s = execPackBh o s := rfl
@[simp] theorem exec_unpk {o} (s : State) : exec (.unpk o) s = execUnpk o s := rfl
@[simp] theorem exec_dp4 {o} (s : State) : exec (.dp4 o) s = execDp4 o s := rfl
@[simp] theorem exec_dp4U {o} (s : State) : exec (.dp4U o) s = execDp4U o s := rfl
@[simp] theorem exec_dp4T8 {o} (s : State) : exec (.dp4T8 o) s = execDp4T8 o s := rfl
@[simp] theorem exec_mov {o} (s : State) : exec (.mov o) s = execMov o s := rfl
@[simp] theorem exec_shfl {k} {o} (s : State) : exec (.shfl k o) s = execShfl k o s := rfl
@[simp] theorem exec_qrot {o} (s : State) : exec (.qrot o) s = execQrot o s := rfl
@[simp] theorem exec_vsort {k} {o} (s : State) : exec (.vsort k o) s = execVsort k o s := rfl
@[simp] theorem exec_mxNop (s : State) : exec (.mxNop) s = execMxNop s := rfl
@[simp] theorem exec_mxZero {t} {nr} {nc} (s : State) : exec (.mxZero t nr nc) s = execMxZero t nr nc s := rfl
@[simp] theorem exec_mxMma {o} (s : State) : exec (.mxMma o) s = execMxMma o s := rfl
@[simp] theorem exec_mxRec {t} {pa} {swa} {pb} {swb} {sv} (s : State) : exec (.mxRec t pa swa pb swb sv) s = execMxRec t pa swa pb swb sv s := rfl
@[simp] theorem exec_mxProg {p} (s : State) : exec (.mxProg p) s = execMxProg p s := rfl
@[simp] theorem exec_mxScl {t} {nr} {nc} {c} (s : State) : exec (.mxScl t nr nc c) s = execMxScl t nr nc c s := rfl
@[simp] theorem exec_mxWait {b} (s : State) : exec (.mxWait b) s = execMxWait b s := rfl
@[simp] theorem exec_mxArv {b} (s : State) : exec (.mxArv b) s = execMxArv b s := rfl
@[simp] theorem exec_mxRel {n} {m} (s : State) : exec (.mxRel n m) s = execMxRel n m s := rfl
@[simp] theorem exec_mxLoop {x} {count} {step} {off} (s : State) : exec (.mxLoop x count step off) s = execMxLoop x count step off s := rfl
@[simp] theorem exec_mxEnd (s : State) : exec (.mxEnd) s = execMxEnd s := rfl
@[simp] theorem exec_nfetch {a} (s : State) : exec (.nfetch a) s = execNfetch a s := rfl
@[simp] theorem exec_ndec {a} {b} (s : State) : exec (.ndec a b) s = execNdec a b s := rfl
@[simp] theorem exec_boxt (s : State) : exec (.boxt) s = execBoxt s := rfl
@[simp] theorem exec_trit {a} (s : State) : exec (.trit a) s = execTrit a s := rfl
@[simp] theorem exec_tritImm {a} {m} (s : State) : exec (.tritImm a m) s = execTritImm a m s := rfl
@[simp] theorem exec_dist {d} {a} (s : State) : exec (.dist d a) s = execDist d a s := rfl
@[simp] theorem exec_kcmp {d} {a} (s : State) : exec (.kcmp d a) s = execKcmp d a s := rfl
@[simp] theorem exec_hit (s : State) : exec (.hit) s = execHit s := rfl
@[simp] theorem exec_push {a} (s : State) : exec (.push a) s = execPush a s := rfl
@[simp] theorem exec_pushCl (s : State) : exec (.pushCl) s = execPushCl s := rfl
@[simp] theorem exec_pop {d} (s : State) : exec (.pop d) s = execPop d s := rfl
@[simp] theorem exec_spill (s : State) : exec (.spill) s = execSpill s := rfl
@[simp] theorem exec_fill (s : State) : exec (.fill) s = execFill s := rfl
@[simp] theorem exec_emit {a} {b} (s : State) : exec (.emit a b) s = execEmit a b s := rfl
@[simp] theorem exec_handoff (s : State) : exec (.handoff) s = execHandoff s := rfl
@[simp] theorem exec_brT {c} {a} {off} (s : State) : exec (.brT c a off) s = execBrT c a off s := rfl
@[simp] theorem exec_tMov {d} {a} (s : State) : exec (.tMov d a) s = execTMov d a s := rfl
@[simp] theorem exec_tMovImm {d} {m} (s : State) : exec (.tMovImm d m) s = execTMovImm d m s := rfl
@[simp] theorem exec_tAdd {d} {a} {b} (s : State) : exec (.tAdd d a b) s = execTAdd d a b s := rfl
@[simp] theorem exec_tAddImm {d} {a} {m} (s : State) : exec (.tAddImm d a m) s = execTAddImm d a m s := rfl
@[simp] theorem exec_tLd {d} {a} {b} (s : State) : exec (.tLd d a b) s = execTLd d a b s := rfl
@[simp] theorem exec_tLdImm {d} {a} {m} (s : State) : exec (.tLdImm d a m) s = execTLdImm d a m s := rfl
@[simp] theorem exec_tEnd (s : State) : exec (.tEnd) s = execTEnd s := rfl
@[simp] theorem exec_tCmp {c} {d} {a} {b} (s : State) : exec (.tCmp c d a b) s = execTCmp c d a b s := rfl
@[simp] theorem exec_tCmpImm {c} {d} {a} {m} (s : State) : exec (.tCmpImm c d a m) s = execTCmpImm c d a m s := rfl
@[simp] theorem exec_perstDeassert {b} (s : State) : exec (.perstDeassert b) s = execPerstDeassert b s := rfl
@[simp] theorem exec_configRequest (s : State) : exec (.configRequest) s = execConfigRequest s := rfl
@[simp] theorem exec_bar2PostedWrite {req} {relaxed} {addr} {data} (s : State) : exec (.bar2PostedWrite req relaxed addr data) s = execBar2PostedWrite req relaxed addr data s := rfl
@[simp] theorem exec_bar2Read {req} {addr} {len} (s : State) : exec (.bar2Read req addr len) s = execBar2Read req addr len s := rfl
@[simp] theorem exec_bar2AtomicOp {op} {size8} {addr} {x} {cmp} (s : State) : exec (.bar2AtomicOp op size8 addr x cmp) s = execBar2AtomicOp op size8 addr x cmp s := rfl
@[simp] theorem exec_registerWrite {off} {v} (s : State) : exec (.registerWrite off v) s = execRegisterWrite off v s := rfl
@[simp] theorem exec_peerRequest {r} (s : State) : exec (.peerRequest r) s = execPeerRequest r s := rfl
@[simp] theorem exec_peerPortEvent {port} {up} (s : State) : exec (.peerPortEvent port up) s = execPeerPortEvent port up s := rfl
@[simp] theorem exec_hbxQtailWrite {req} {q} {v} (s : State) : exec (.hbxQtailWrite req q v) s = execHbxQtailWrite req q v s := rfl
@[simp] theorem exec_tornClear {q} (s : State) : exec (.tornClear q) s = execTornClear q s := rfl
@[simp] theorem exec_badentClear {q} (s : State) : exec (.badentClear q) s = execBadentClear q s := rfl
@[simp] theorem exec_suspend {ctx} (s : State) : exec (.suspend ctx) s = execSuspend ctx s := rfl
@[simp] theorem exec_endCtx {ctx} (s : State) : exec (.endCtx ctx) s = execEndCtx ctx s := rfl
@[simp] theorem exec_resume {ctx} (s : State) : exec (.resume ctx) s = execResume ctx s := rfl
@[simp] theorem exec_ctxctlComplete (s : State) : exec (.ctxctlComplete) s = execCtxctlComplete s := rfl
@[simp] theorem exec_fltHeadWrite {v} (s : State) : exec (.fltHeadWrite v) s = execFltHeadWrite v s := rfl
@[simp] theorem exec_resolve {req} {v} (s : State) : exec (.resolve req v) s = execResolve req v s := rfl
@[simp] theorem exec_invalidation {v} (s : State) : exec (.invalidation v) s = execInvalidation v s := rfl
@[simp] theorem exec_invalidationComplete (s : State) : exec (.invalidationComplete) s = execInvalidationComplete s := rfl
@[simp] theorem exec_fltRfcountClear {v} (s : State) : exec (.fltRfcountClear v) s = execFltRfcountClear v s := rfl
@[simp] theorem exec_ctxcreate (s : State) : exec (.ctxcreate) s = execCtxcreate s := rfl
@[simp] theorem exec_ctxdestroy (s : State) : exec (.ctxdestroy) s = execCtxdestroy s := rfl
@[simp] theorem exec_memprot (s : State) : exec (.memprot) s = execMemprot s := rfl
@[simp] theorem exec_attest (s : State) : exec (.attest) s = execAttest s := rfl
@[simp] theorem exec_fwstage (s : State) : exec (.fwstage) s = execFwstage s := rfl
@[simp] theorem exec_fwcommit (s : State) : exec (.fwcommit) s = execFwcommit s := rfl
@[simp] theorem exec_fwabort (s : State) : exec (.fwabort) s = execFwabort s := rfl
@[simp] theorem exec_errlog (s : State) : exec (.errlog) s = execErrlog s := rfl
@[simp] theorem exec_ident (s : State) : exec (.ident) s = execIdent s := rfl
@[simp] theorem exec_display {d} (s : State) : exec (.display d) s = execDisplay d s := rfl
@[simp] theorem exec_mailboxComplete (s : State) : exec (.mailboxComplete) s = execMailboxComplete s := rfl
@[simp] theorem exec_pwcBudgetWrite {v} (s : State) : exec (.pwcBudgetWrite v) s = execPwcBudgetWrite v s := rfl
@[simp] theorem exec_pwcTjhotWrite {v} (s : State) : exec (.pwcTjhotWrite v) s = execPwcTjhotWrite v s := rfl
@[simp] theorem exec_yield {bid} (s : State) : exec (.yield bid) s = execYield bid s := rfl
@[simp] theorem exec_swapOut {bid} (s : State) : exec (.swapOut bid) s = execSwapOut bid s := rfl
@[simp] theorem exec_swapSave {bid} (s : State) : exec (.swapSave bid) s = execSwapSave bid s := rfl
@[simp] theorem exec_noframeRetest {bid} (s : State) : exec (.noframeRetest bid) s = execNoframeRetest bid s := rfl
@[simp] theorem exec_readmission {bid} (s : State) : exec (.readmission bid) s = execReadmission bid s := rfl
@[simp] theorem exec_deckleAdjust {p} {tj} (s : State) : exec (.deckleAdjust p tj) s = execDeckleAdjust p tj s := rfl
@[simp] theorem exec_clockGate {core} {part} (s : State) : exec (.clockGate core part) s = execClockGate core part s := rfl
@[simp] theorem exec_powerGate {core} {part} (s : State) : exec (.powerGate core part) s = execPowerGate core part s := rfl
@[simp] theorem exec_ungate {core} {part} (s : State) : exec (.ungate core part) s = execUngate core part s := rfl
@[simp] theorem exec_hang {bid} (s : State) : exec (.hang bid) s = execHang bid s := rfl
@[simp] theorem exec_lostJoinRelease {gid} (s : State) : exec (.lostJoinRelease gid) s = execLostJoinRelease gid s := rfl
@[simp] theorem exec_watchReread {c} (s : State) : exec (.watchReread c) s = execWatchReread c s := rfl
@[simp] theorem exec_timeout {c} (s : State) : exec (.timeout c) s = execTimeout c s := rfl
@[simp] theorem exec_monitorReread {gid} {slot} (s : State) : exec (.monitorReread gid slot) s = execMonitorReread gid slot s := rfl
@[simp] theorem exec_subqueryLost {thr} {idx} (s : State) : exec (.subqueryLost thr idx) s = execSubqueryLost thr idx s := rfl
@[simp] theorem exec_cardReread {q} (s : State) : exec (.cardReread q) s = execCardReread q s := rfl
@[simp] theorem exec_thermalTrip {tj} (s : State) : exec (.thermalTrip tj) s = execThermalTrip tj s := rfl
@[simp] theorem exec_thermalTripExit {tj} (s : State) : exec (.thermalTripExit tj) s = execThermalTripExit tj s := rfl
@[simp] theorem exec_thermal {tj} (s : State) : exec (.thermal tj) s = execThermal tj s := rfl
@[simp] theorem exec_dispatchStep (s : State) : exec (.dispatchStep) s = execDispatchStep s := rfl
@[simp] theorem exec_tokenGrant (s : State) : exec (.tokenGrant) s = execTokenGrant s := rfl
@[simp] theorem exec_cardFetch {q} (s : State) : exec (.cardFetch q) s = execCardFetch q s := rfl
@[simp] theorem exec_signal {c} (s : State) : exec (.signal c) s = execSignal c s := rfl
@[simp] theorem exec_chain {c} (s : State) : exec (.chain c) s = execChain c s := rfl
@[simp] theorem exec_copy {c} (s : State) : exec (.copy c) s = execCopy c s := rfl
@[simp] theorem exec_watch {c} (s : State) : exec (.watch c) s = execWatch c s := rfl
@[simp] theorem exec_task {c} (s : State) : exec (.task c) s = execTask c s := rfl
@[simp] theorem exec_taskPost {c} (s : State) : exec (.taskPost c) s = execTaskPost c s := rfl
@[simp] theorem exec_cardComplete {c} (s : State) : exec (.cardComplete c) s = execCardComplete c s := rfl
@[simp] theorem exec_retirement {bid} (s : State) : exec (.retirement bid) s = execRetirement bid s := rfl
@[simp] theorem exec_segmentDelivery {cid} (s : State) : exec (.segmentDelivery cid) s = execSegmentDelivery cid s := rfl
@[simp] theorem exec_fixupReplay {cid} (s : State) : exec (.fixupReplay cid) s = execFixupReplay cid s := rfl
@[simp] theorem exec_faultRecord (s : State) : exec (.faultRecord) s = execFaultRecord s := rfl
@[simp] theorem exec_replay {gid} {slot} (s : State) : exec (.replay gid slot) s = execReplay gid slot s := rfl
@[simp] theorem exec_pageWalk {core} {ctx} {va} (s : State) : exec (.pageWalk core ctx va) s = execPageWalk core ctx va s := rfl
@[simp] theorem exec_readRequest {ag} {line} (s : State) : exec (.readRequest ag line) s = execReadRequest ag line s := rfl
@[simp] theorem exec_ownRequest {core} {line} {data} (s : State) : exec (.ownRequest core line data) s = execOwnRequest core line data s := rfl
@[simp] theorem exec_fillRequest {core} {line} (s : State) : exec (.fillRequest core line) s = execFillRequest core line s := rfl
@[simp] theorem exec_invalidationReceipt {ag} {line} (s : State) : exec (.invalidationReceipt ag line) s = execInvalidationReceipt ag line s := rfl
@[simp] theorem exec_acknowledgement {core} {line} (s : State) : exec (.acknowledgement core line) s = execAcknowledgement core line s := rfl
@[simp] theorem exec_ownCompletion {line} (s : State) : exec (.ownCompletion line) s = execOwnCompletion line s := rfl
@[simp] theorem exec_recallLine {line} (s : State) : exec (.recallLine line) s = execRecallLine line s := rfl
@[simp] theorem exec_writeBack {line} (s : State) : exec (.writeBack line) s = execWriteBack line s := rfl
@[simp] theorem exec_evictionNotice {core} {line} (s : State) : exec (.evictionNotice core line) s = execEvictionNotice core line s := rfl
@[simp] theorem exec_farReductionAccept {n} (s : State) : exec (.farReductionAccept n) s = execFarReductionAccept n s := rfl
@[simp] theorem exec_farReductionApply {line} (s : State) : exec (.farReductionApply line) s = execFarReductionApply line s := rfl
@[simp] theorem exec_homeTake {n} (s : State) : exec (.homeTake n) s = execHomeTake n s := rfl
@[simp] theorem exec_homeGive {n} (s : State) : exec (.homeGive n) s = execHomeGive n s := rfl
@[simp] theorem exec_recallResponse {n} (s : State) : exec (.recallResponse n) s = execRecallResponse n s := rfl
@[simp] theorem exec_ssuCommandStart {cluster} (s : State) : exec (.ssuCommandStart cluster) s = execSsuCommandStart cluster s := rfl
@[simp] theorem exec_ssuComplete {cluster} (s : State) : exec (.ssuComplete cluster) s = execSsuComplete cluster s := rfl
@[simp] theorem exec_queryStart {core} {thread} (s : State) : exec (.queryStart core thread) s = execQueryStart core thread s := rfl
@[simp] theorem exec_nodeCacheFill {cluster} {line} (s : State) : exec (.nodeCacheFill cluster line) s = execNodeCacheFill cluster line s := rfl
@[simp] theorem exec_subqueryReceive {core} {thread} {sctx} {msg} (s : State) : exec (.subqueryReceive core thread sctx msg) s = execSubqueryReceive core thread sctx msg s := rfl
@[simp] theorem exec_subqueryResult {thr} {idx} {r} (s : State) : exec (.subqueryResult thr idx r) s = execSubqueryResult thr idx r s := rfl
@[simp] theorem exec_streamFetch {bid} (s : State) : exec (.streamFetch bid) s = execStreamFetch bid s := rfl
@[simp] theorem exec_firmwareError (s : State) : exec (.firmwareError) s = execFirmwareError s := rfl
@[simp] theorem exec_verticalBlank {output} (s : State) : exec (.verticalBlank output) s = execVerticalBlank output s := rfl
@[simp] theorem exec_jobpostResume {gid} {slot} (s : State) : exec (.jobpostResume gid slot) s = execJobpostResume gid slot s := rfl
@[simp] theorem exec_perstAssert (s : State) : exec (.perstAssert) s = execPerstAssert s := rfl
@[simp] theorem exec_hostCompletion {id} (s : State) : exec (.hostCompletion id) s = execHostCompletion id s := rfl
@[simp] theorem exec_peerResponse {id} {bad} (s : State) : exec (.peerResponse id bad) s = execPeerResponse id bad s := rfl

end Sys2Proof.Machine
end

