-- ==== Sys2Proof/Laws/Tbl.lean ====
section
/-! SUPPORT. Read after write and the canonical form of sparse tables. -/

namespace Sys2Proof.Machine.Tbl

variable {α : Type}

theorem get_erase_self (d : α) (t : Tbl α) (k : Nat) : get d (erase t k) k = d := by
  induction t with
  | nil => rfl
  | cons p r ih =>
    simp only [erase, List.filter_cons] at ih ⊢
    by_cases h : p.1 = k
    · simpa [h] using ih
    · simpa [h, get] using ih

theorem get_erase_ne (d : α) (t : Tbl α) {k n : Nat} (h : n ≠ k) : get d (erase t k) n = get d t n := by
  induction t with
  | nil => rfl
  | cons p r ih =>
    simp only [erase, List.filter_cons] at ih ⊢
    by_cases hk : p.1 = k
    · have : p.1 ≠ n := fun e => h (e.symm.trans hk)
      simpa [hk, get, this, Ne.symm h] using ih
    · simp [hk, get, ih]

theorem get_insert_ne (d : α) (v : α) (t : Tbl α) {k n : Nat} (h : n ≠ k) : get d (insert k v t) n = get d t n := by
  induction t with
  | nil => simp [insert, get, Ne.symm h]
  | cons p r ih =>
    simp only [insert]
    split
    · simp [get, Ne.symm h]
    · simp [get, ih]

theorem get_insert_self (d : α) (v : α) (t : Tbl α) {k : Nat} (h : ∀ p ∈ t, p.1 ≠ k) :
    get d (insert k v t) k = v := by
  induction t with
  | nil => simp [insert, get]
  | cons p r ih =>
    have hp : p.1 ≠ k := h p (by simp)
    have hr : ∀ q ∈ r, q.1 ≠ k := fun q hq => h q (by simp [hq])
    simp only [insert]
    split
    · simp [get]
    · simp [get, hp, ih hr]

theorem erase_ne (t : Tbl α) (k : Nat) : ∀ p ∈ erase t k, p.1 ≠ k := by
  intro p hp
  simpa [erase] using (List.mem_filter.mp hp).2

/-- Reading a key just written gives the value written. -/
@[simp] theorem get_set_self [DecidableEq α] (d : α) (t : Tbl α) (k : Nat) (v : α) : get d (set d t k v) k = v := by
  simp only [set]
  split
  · next h => rw [get_erase_self, h]
  · exact get_insert_self d v _ (erase_ne t k)

/-- A write leaves every other key as it was. -/
theorem get_set_ne [DecidableEq α] (d : α) (t : Tbl α) {k n : Nat} (v : α) (h : n ≠ k) :
    get d (set d t k v) n = get d t n := by
  simp only [set]
  split
  · exact get_erase_ne d t h
  · rw [get_insert_ne d v _ h, get_erase_ne d t h]

theorem get_set [DecidableEq α] (d : α) (t : Tbl α) (k n : Nat) (v : α) :
    get d (set d t k v) n = if n = k then v else get d t n := by
  split
  · next h => rw [h, get_set_self]
  · next h => exact get_set_ne d t v h

theorem wf_erase [DecidableEq α] (d : α) (t : Tbl α) (k : Nat) (h : wf d t = true) : wf d (erase t k) = true := by
  induction t with
  | nil => rfl
  | cons p r ih =>
    simp only [wf, Bool.and_eq_true] at h
    simp only [erase, List.filter_cons] at ih ⊢
    split
    · simp only [wf, Bool.and_eq_true]
      refine ⟨⟨h.1.1, ?_⟩, ih h.2⟩
      simp only [List.all_eq_true] at h ⊢
      exact fun q hq => h.1.2 q (List.mem_filter.mp hq).1
    · exact ih h.2

theorem mem_insert (k : Nat) (v : α) (t : Tbl α) (q : Nat × α) (hq : q ∈ insert k v t) : q = (k, v) ∨ q ∈ t := by
  induction t with
  | nil => simpa [insert] using hq
  | cons p r ih =>
    simp only [insert] at hq
    split at hq
    · rcases List.mem_cons.mp hq with h | h
      · exact .inl h
      · exact .inr h
    · rcases List.mem_cons.mp hq with h | h
      · exact .inr (by simp [h])
      · rcases ih h with h' | h'
        · exact .inl h'
        · exact .inr (List.mem_cons_of_mem _ h')

theorem wf_insert [DecidableEq α] (d v : α) (t : Tbl α) (k : Nat) (hv : v ≠ d) (hk : ∀ p ∈ t, p.1 ≠ k)
    (h : wf d t = true) : wf d (insert k v t) = true := by
  induction t with
  | nil => simp [insert, wf, hv]
  | cons p r ih =>
    have hp := hk p (by simp)
    simp only [wf, Bool.and_eq_true, List.all_eq_true, decide_eq_true_eq] at h
    simp only [insert]
    split
    · next hlt =>
      simp only [wf, Bool.and_eq_true, List.all_eq_true, decide_eq_true_eq, List.mem_cons]
      refine ⟨⟨by simpa using hv, ?_⟩, h⟩
      rintro q (rfl | hq)
      · exact hlt
      · exact Nat.lt_trans hlt (h.1.2 q hq)
    · next hge =>
      simp only [wf, Bool.and_eq_true, List.all_eq_true, decide_eq_true_eq]
      refine ⟨⟨h.1.1, ?_⟩, ih (fun q hq => hk q (by simp [hq])) h.2⟩
      intro q hq
      rcases mem_insert k v r q hq with rfl | hq'
      · exact Nat.lt_of_le_of_ne (Nat.le_of_not_lt hge) hp
      · exact h.1.2 q hq'

/-- Every write keeps the canonical form. -/
theorem wf_set [DecidableEq α] (d : α) (t : Tbl α) (k : Nat) (v : α) (h : wf d t = true) :
    wf d (set d t k v) = true := by
  simp only [set]
  split
  · exact wf_erase d t k h
  · next hv => exact wf_insert d v _ k hv (erase_ne t k) (wf_erase d t k h)

theorem wf_upd [DecidableEq α] (d : α) (t : Tbl α) (k : Nat) (f : α → α) (h : wf d t = true) :
    wf d (upd d t k f) = true := wf_set d t k _ h

/-- A key below every listed key is not listed. -/
theorem get_lt [DecidableEq α] (d : α) (t : Tbl α) {k : Nat} (h : t.all (fun p => k < p.1) = true) : get d t k = d := by
  induction t with
  | nil => rfl
  | cons p r ih =>
    simp only [List.all_cons, Bool.and_eq_true, decide_eq_true_eq] at h
    simp [get, Nat.ne_of_gt h.1, ih h.2]

theorem erase_of_lt (t : Tbl α) {k : Nat} (h : t.all (fun p => k < p.1) = true) : erase t k = t := by
  simp only [erase, List.filter_eq_self]
  intro p hp
  have := List.all_eq_true.mp h p hp
  simp at this
  simp; omega

theorem insert_of_lt (v : α) (t : Tbl α) {k : Nat} (h : t.all (fun p => k < p.1) = true) : insert k v t = (k, v) :: t := by
  cases t with
  | nil => rfl
  | cons p r =>
    simp only [List.all_cons, Bool.and_eq_true, decide_eq_true_eq] at h
    simp [insert, h.1]

/-- Writing the value that a key already has changes nothing in a canonical table. -/
theorem set_get [DecidableEq α] (d : α) (t : Tbl α) (k : Nat) (h : wf d t = true) : set d t k (get d t k) = t := by
  induction t with
  | nil => simp [get, set, erase]
  | cons p r ih =>
    obtain ⟨n, v⟩ := p
    simp only [wf, Bool.and_eq_true, bne_iff_ne, ne_eq] at h
    obtain ⟨⟨hv, hlt⟩, hr⟩ := h
    by_cases hn : n = k
    · subst hn
      have he : erase r n = r := erase_of_lt r hlt
      have : erase ((n, v) :: r) n = r := by simpa [erase] using he
      simp only [get, if_true, set, hv, if_false, this]
      exact insert_of_lt v r hlt
    · have ih' := ih hr
      simp only [get, hn, if_false]
      have he : erase ((n, v) :: r) k = (n, v) :: erase r k := by simp [erase, hn]
      simp only [set, he] at ih' ⊢
      split
      · next hd => rw [if_pos hd] at ih'; rw [ih']
      · next hd =>
        rw [if_neg hd] at ih'
        by_cases hk : k < n
        · exfalso
          apply hd
          exact get_lt d r (by
            rw [List.all_eq_true] at hlt ⊢
            intro p hp
            have := hlt p hp
            simp at this ⊢; omega)
        · simp [insert, hk, ih']

end Sys2Proof.Machine.Tbl
end

