-- ==== Sys2Proof/Laws/State.lean ====
section
/-! SUPPORT. What each setter of State leaves alone, field by field, and what it writes; the other setters are written by these. -/

namespace Sys2Proof.Machine.State

/-! ### tick -/

@[simp] theorem tick_clock (s : State) : (s.tick).clock = s.clock := rfl
@[simp] theorem tick_dev (s : State) : (s.tick).dev = s.dev := rfl
@[simp] theorem tick_pwr (s : State) : (s.tick).pwr = s.pwr := rfl
@[simp] theorem tick_mem (s : State) : (s.tick).mem = s.mem := rfl
@[simp] theorem tick_mtags (s : State) : (s.tick).mtags = s.mtags := rfl
@[simp] theorem tick_poison (s : State) : (s.tick).poison = s.poison := rfl
@[simp] theorem tick_hostMem (s : State) : (s.tick).hostMem = s.hostMem := rfl
@[simp] theorem tick_peerMem (s : State) : (s.tick).peerMem = s.peerMem := rfl
@[simp] theorem tick_peerBad (s : State) : (s.tick).peerBad = s.peerBad := rfl
@[simp] theorem tick_hist (s : State) : (s.tick).hist = s.hist := rfl
@[simp] theorem tick_dirs (s : State) : (s.tick).dirs = s.dirs := rfl
@[simp] theorem tick_l2 (s : State) : (s.tick).l2 = s.l2 := rfl
@[simp] theorem tick_txns (s : State) : (s.tick).txns = s.txns := rfl
@[simp] theorem tick_lines (s : State) : (s.tick).lines = s.lines := rfl
@[simp] theorem tick_icache (s : State) : (s.tick).icache = s.icache := rfl
@[simp] theorem tick_farSent (s : State) : (s.tick).farSent = s.farSent := rfl
@[simp] theorem tick_farQ (s : State) : (s.tick).farQ = s.farQ := rfl
@[simp] theorem tick_ctrMsgs (s : State) : (s.tick).ctrMsgs = s.ctrMsgs := rfl
@[simp] theorem tick_ctrWait (s : State) : (s.tick).ctrWait = s.ctrWait := rfl
@[simp] theorem tick_allows (s : State) : (s.tick).allows = s.allows := rfl
@[simp] theorem tick_left (s : State) : (s.tick).left = s.left := rfl
@[simp] theorem tick_ncache (s : State) : (s.tick).ncache = s.ncache := rfl
@[simp] theorem tick_ncUsed (s : State) : (s.tick).ncUsed = s.ncUsed := rfl
@[simp] theorem tick_fused (s : State) : (s.tick).fused = s.fused := rfl
@[simp] theorem tick_l1tlb (s : State) : (s.tick).l1tlb = s.l1tlb := rfl
@[simp] theorem tick_l2tlb (s : State) : (s.tick).l2tlb = s.l2tlb := rfl
@[simp] theorem tick_ctxs (s : State) : (s.tick).ctxs = s.ctxs := rfl
@[simp] theorem tick_flt (s : State) : (s.tick).flt = s.flt := rfl
@[simp] theorem tick_copies (s : State) : (s.tick).copies = s.copies := rfl
@[simp] theorem tick_hbx (s : State) : (s.tick).hbx = s.hbx := rfl
@[simp] theorem tick_queues (s : State) : (s.tick).queues = s.queues := rfl
@[simp] theorem tick_cards (s : State) : (s.tick).cards = s.cards := rfl
@[simp] theorem tick_blks (s : State) : (s.tick).blks = s.blks := rfl
@[simp] theorem tick_grps (s : State) : (s.tick).grps = s.grps := rfl
@[simp] theorem tick_ports (s : State) : (s.tick).ports = s.ports := rfl
@[simp] theorem tick_parts (s : State) : (s.tick).parts = s.parts := rfl
@[simp] theorem tick_inbox (s : State) : (s.tick).inbox = s.inbox := rfl
@[simp] theorem tick_trps (s : State) : (s.tick).trps = s.trps := rfl
@[simp] theorem tick_ingress (s : State) : (s.tick).ingress = s.ingress := rfl
@[simp] theorem tick_cqs (s : State) : (s.tick).cqs = s.cqs := rfl
@[simp] theorem tick_ssus (s : State) : (s.tick).ssus = s.ssus := rfl
@[simp] theorem tick_pending (s : State) : (s.tick).pending = s.pending := rfl
@[simp] theorem tick_arrivals (s : State) : (s.tick).arrivals = s.arrivals := rfl
@[simp] theorem tick_agenda (s : State) : (s.tick).agenda = s.agenda := rfl
@[simp] theorem tick_issue (s : State) : (s.tick).issue = s.issue := rfl
@[simp] theorem tick_ids (s : State) : (s.tick).ids = s.ids := rfl

/-! ### setOut -/

@[simp] theorem setOut_clock (s : State) (o : Out) : (s.setOut o).clock = s.clock := rfl
@[simp] theorem setOut_dev (s : State) (o : Out) : (s.setOut o).dev = s.dev := rfl
@[simp] theorem setOut_pwr (s : State) (o : Out) : (s.setOut o).pwr = s.pwr := rfl
@[simp] theorem setOut_mem (s : State) (o : Out) : (s.setOut o).mem = s.mem := rfl
@[simp] theorem setOut_mtags (s : State) (o : Out) : (s.setOut o).mtags = s.mtags := rfl
@[simp] theorem setOut_poison (s : State) (o : Out) : (s.setOut o).poison = s.poison := rfl
@[simp] theorem setOut_hostMem (s : State) (o : Out) : (s.setOut o).hostMem = s.hostMem := rfl
@[simp] theorem setOut_peerMem (s : State) (o : Out) : (s.setOut o).peerMem = s.peerMem := rfl
@[simp] theorem setOut_peerBad (s : State) (o : Out) : (s.setOut o).peerBad = s.peerBad := rfl
@[simp] theorem setOut_hist (s : State) (o : Out) : (s.setOut o).hist = s.hist := rfl
@[simp] theorem setOut_dirs (s : State) (o : Out) : (s.setOut o).dirs = s.dirs := rfl
@[simp] theorem setOut_l2 (s : State) (o : Out) : (s.setOut o).l2 = s.l2 := rfl
@[simp] theorem setOut_txns (s : State) (o : Out) : (s.setOut o).txns = s.txns := rfl
@[simp] theorem setOut_lines (s : State) (o : Out) : (s.setOut o).lines = s.lines := rfl
@[simp] theorem setOut_icache (s : State) (o : Out) : (s.setOut o).icache = s.icache := rfl
@[simp] theorem setOut_farSent (s : State) (o : Out) : (s.setOut o).farSent = s.farSent := rfl
@[simp] theorem setOut_farQ (s : State) (o : Out) : (s.setOut o).farQ = s.farQ := rfl
@[simp] theorem setOut_ctrMsgs (s : State) (o : Out) : (s.setOut o).ctrMsgs = s.ctrMsgs := rfl
@[simp] theorem setOut_ctrWait (s : State) (o : Out) : (s.setOut o).ctrWait = s.ctrWait := rfl
@[simp] theorem setOut_allows (s : State) (o : Out) : (s.setOut o).allows = s.allows := rfl
@[simp] theorem setOut_left (s : State) (o : Out) : (s.setOut o).left = s.left := rfl
@[simp] theorem setOut_ncache (s : State) (o : Out) : (s.setOut o).ncache = s.ncache := rfl
@[simp] theorem setOut_ncUsed (s : State) (o : Out) : (s.setOut o).ncUsed = s.ncUsed := rfl
@[simp] theorem setOut_fused (s : State) (o : Out) : (s.setOut o).fused = s.fused := rfl
@[simp] theorem setOut_l1tlb (s : State) (o : Out) : (s.setOut o).l1tlb = s.l1tlb := rfl
@[simp] theorem setOut_l2tlb (s : State) (o : Out) : (s.setOut o).l2tlb = s.l2tlb := rfl
@[simp] theorem setOut_ctxs (s : State) (o : Out) : (s.setOut o).ctxs = s.ctxs := rfl
@[simp] theorem setOut_flt (s : State) (o : Out) : (s.setOut o).flt = s.flt := rfl
@[simp] theorem setOut_copies (s : State) (o : Out) : (s.setOut o).copies = s.copies := rfl
@[simp] theorem setOut_hbx (s : State) (o : Out) : (s.setOut o).hbx = s.hbx := rfl
@[simp] theorem setOut_queues (s : State) (o : Out) : (s.setOut o).queues = s.queues := rfl
@[simp] theorem setOut_cards (s : State) (o : Out) : (s.setOut o).cards = s.cards := rfl
@[simp] theorem setOut_blks (s : State) (o : Out) : (s.setOut o).blks = s.blks := rfl
@[simp] theorem setOut_grps (s : State) (o : Out) : (s.setOut o).grps = s.grps := rfl
@[simp] theorem setOut_ports (s : State) (o : Out) : (s.setOut o).ports = s.ports := rfl
@[simp] theorem setOut_parts (s : State) (o : Out) : (s.setOut o).parts = s.parts := rfl
@[simp] theorem setOut_inbox (s : State) (o : Out) : (s.setOut o).inbox = s.inbox := rfl
@[simp] theorem setOut_trps (s : State) (o : Out) : (s.setOut o).trps = s.trps := rfl
@[simp] theorem setOut_ingress (s : State) (o : Out) : (s.setOut o).ingress = s.ingress := rfl
@[simp] theorem setOut_cqs (s : State) (o : Out) : (s.setOut o).cqs = s.cqs := rfl
@[simp] theorem setOut_ssus (s : State) (o : Out) : (s.setOut o).ssus = s.ssus := rfl
@[simp] theorem setOut_pending (s : State) (o : Out) : (s.setOut o).pending = s.pending := rfl
@[simp] theorem setOut_arrivals (s : State) (o : Out) : (s.setOut o).arrivals = s.arrivals := rfl
@[simp] theorem setOut_agenda (s : State) (o : Out) : (s.setOut o).agenda = s.agenda := rfl
@[simp] theorem setOut_ids (s : State) (o : Out) : (s.setOut o).ids = s.ids := rfl
@[simp] theorem setOut_free (s : State) (o : Out) : (s.setOut o).free = s.free := rfl

/-! ### setGrp -/

@[simp] theorem setGrp_clock (s : State) (g : Nat) (v : Group) : (s.setGrp g v).clock = s.clock := rfl
@[simp] theorem setGrp_dev (s : State) (g : Nat) (v : Group) : (s.setGrp g v).dev = s.dev := rfl
@[simp] theorem setGrp_pwr (s : State) (g : Nat) (v : Group) : (s.setGrp g v).pwr = s.pwr := rfl
@[simp] theorem setGrp_mem (s : State) (g : Nat) (v : Group) : (s.setGrp g v).mem = s.mem := rfl
@[simp] theorem setGrp_mtags (s : State) (g : Nat) (v : Group) : (s.setGrp g v).mtags = s.mtags := rfl
@[simp] theorem setGrp_poison (s : State) (g : Nat) (v : Group) : (s.setGrp g v).poison = s.poison := rfl
@[simp] theorem setGrp_hostMem (s : State) (g : Nat) (v : Group) : (s.setGrp g v).hostMem = s.hostMem := rfl
@[simp] theorem setGrp_peerMem (s : State) (g : Nat) (v : Group) : (s.setGrp g v).peerMem = s.peerMem := rfl
@[simp] theorem setGrp_peerBad (s : State) (g : Nat) (v : Group) : (s.setGrp g v).peerBad = s.peerBad := rfl
@[simp] theorem setGrp_hist (s : State) (g : Nat) (v : Group) : (s.setGrp g v).hist = s.hist := rfl
@[simp] theorem setGrp_dirs (s : State) (g : Nat) (v : Group) : (s.setGrp g v).dirs = s.dirs := rfl
@[simp] theorem setGrp_l2 (s : State) (g : Nat) (v : Group) : (s.setGrp g v).l2 = s.l2 := rfl
@[simp] theorem setGrp_txns (s : State) (g : Nat) (v : Group) : (s.setGrp g v).txns = s.txns := rfl
@[simp] theorem setGrp_lines (s : State) (g : Nat) (v : Group) : (s.setGrp g v).lines = s.lines := rfl
@[simp] theorem setGrp_icache (s : State) (g : Nat) (v : Group) : (s.setGrp g v).icache = s.icache := rfl
@[simp] theorem setGrp_farSent (s : State) (g : Nat) (v : Group) : (s.setGrp g v).farSent = s.farSent := rfl
@[simp] theorem setGrp_farQ (s : State) (g : Nat) (v : Group) : (s.setGrp g v).farQ = s.farQ := rfl
@[simp] theorem setGrp_ctrMsgs (s : State) (g : Nat) (v : Group) : (s.setGrp g v).ctrMsgs = s.ctrMsgs := rfl
@[simp] theorem setGrp_ctrWait (s : State) (g : Nat) (v : Group) : (s.setGrp g v).ctrWait = s.ctrWait := rfl
@[simp] theorem setGrp_allows (s : State) (g : Nat) (v : Group) : (s.setGrp g v).allows = s.allows := rfl
@[simp] theorem setGrp_left (s : State) (g : Nat) (v : Group) : (s.setGrp g v).left = s.left := rfl
@[simp] theorem setGrp_ncache (s : State) (g : Nat) (v : Group) : (s.setGrp g v).ncache = s.ncache := rfl
@[simp] theorem setGrp_ncUsed (s : State) (g : Nat) (v : Group) : (s.setGrp g v).ncUsed = s.ncUsed := rfl
@[simp] theorem setGrp_fused (s : State) (g : Nat) (v : Group) : (s.setGrp g v).fused = s.fused := rfl
@[simp] theorem setGrp_l1tlb (s : State) (g : Nat) (v : Group) : (s.setGrp g v).l1tlb = s.l1tlb := rfl
@[simp] theorem setGrp_l2tlb (s : State) (g : Nat) (v : Group) : (s.setGrp g v).l2tlb = s.l2tlb := rfl
@[simp] theorem setGrp_ctxs (s : State) (g : Nat) (v : Group) : (s.setGrp g v).ctxs = s.ctxs := rfl
@[simp] theorem setGrp_flt (s : State) (g : Nat) (v : Group) : (s.setGrp g v).flt = s.flt := rfl
@[simp] theorem setGrp_copies (s : State) (g : Nat) (v : Group) : (s.setGrp g v).copies = s.copies := rfl
@[simp] theorem setGrp_hbx (s : State) (g : Nat) (v : Group) : (s.setGrp g v).hbx = s.hbx := rfl
@[simp] theorem setGrp_queues (s : State) (g : Nat) (v : Group) : (s.setGrp g v).queues = s.queues := rfl
@[simp] theorem setGrp_cards (s : State) (g : Nat) (v : Group) : (s.setGrp g v).cards = s.cards := rfl
@[simp] theorem setGrp_blks (s : State) (g : Nat) (v : Group) : (s.setGrp g v).blks = s.blks := rfl
@[simp] theorem setGrp_ports (s : State) (g : Nat) (v : Group) : (s.setGrp g v).ports = s.ports := rfl
@[simp] theorem setGrp_parts (s : State) (g : Nat) (v : Group) : (s.setGrp g v).parts = s.parts := rfl
@[simp] theorem setGrp_inbox (s : State) (g : Nat) (v : Group) : (s.setGrp g v).inbox = s.inbox := rfl
@[simp] theorem setGrp_trps (s : State) (g : Nat) (v : Group) : (s.setGrp g v).trps = s.trps := rfl
@[simp] theorem setGrp_ingress (s : State) (g : Nat) (v : Group) : (s.setGrp g v).ingress = s.ingress := rfl
@[simp] theorem setGrp_cqs (s : State) (g : Nat) (v : Group) : (s.setGrp g v).cqs = s.cqs := rfl
@[simp] theorem setGrp_ssus (s : State) (g : Nat) (v : Group) : (s.setGrp g v).ssus = s.ssus := rfl
@[simp] theorem setGrp_pending (s : State) (g : Nat) (v : Group) : (s.setGrp g v).pending = s.pending := rfl
@[simp] theorem setGrp_arrivals (s : State) (g : Nat) (v : Group) : (s.setGrp g v).arrivals = s.arrivals := rfl
@[simp] theorem setGrp_agenda (s : State) (g : Nat) (v : Group) : (s.setGrp g v).agenda = s.agenda := rfl
@[simp] theorem setGrp_issue (s : State) (g : Nat) (v : Group) : (s.setGrp g v).issue = s.issue := rfl
@[simp] theorem setGrp_ids (s : State) (g : Nat) (v : Group) : (s.setGrp g v).ids = s.ids := rfl
@[simp] theorem setGrp_free (s : State) (g : Nat) (v : Group) : (s.setGrp g v).free = s.free := rfl

/-! ### setBlk -/

@[simp] theorem setBlk_clock (s : State) (b : Nat) (v : Block) : (s.setBlk b v).clock = s.clock := rfl
@[simp] theorem setBlk_dev (s : State) (b : Nat) (v : Block) : (s.setBlk b v).dev = s.dev := rfl
@[simp] theorem setBlk_pwr (s : State) (b : Nat) (v : Block) : (s.setBlk b v).pwr = s.pwr := rfl
@[simp] theorem setBlk_mem (s : State) (b : Nat) (v : Block) : (s.setBlk b v).mem = s.mem := rfl
@[simp] theorem setBlk_mtags (s : State) (b : Nat) (v : Block) : (s.setBlk b v).mtags = s.mtags := rfl
@[simp] theorem setBlk_poison (s : State) (b : Nat) (v : Block) : (s.setBlk b v).poison = s.poison := rfl
@[simp] theorem setBlk_hostMem (s : State) (b : Nat) (v : Block) : (s.setBlk b v).hostMem = s.hostMem := rfl
@[simp] theorem setBlk_peerMem (s : State) (b : Nat) (v : Block) : (s.setBlk b v).peerMem = s.peerMem := rfl
@[simp] theorem setBlk_peerBad (s : State) (b : Nat) (v : Block) : (s.setBlk b v).peerBad = s.peerBad := rfl
@[simp] theorem setBlk_hist (s : State) (b : Nat) (v : Block) : (s.setBlk b v).hist = s.hist := rfl
@[simp] theorem setBlk_dirs (s : State) (b : Nat) (v : Block) : (s.setBlk b v).dirs = s.dirs := rfl
@[simp] theorem setBlk_l2 (s : State) (b : Nat) (v : Block) : (s.setBlk b v).l2 = s.l2 := rfl
@[simp] theorem setBlk_txns (s : State) (b : Nat) (v : Block) : (s.setBlk b v).txns = s.txns := rfl
@[simp] theorem setBlk_lines (s : State) (b : Nat) (v : Block) : (s.setBlk b v).lines = s.lines := rfl
@[simp] theorem setBlk_icache (s : State) (b : Nat) (v : Block) : (s.setBlk b v).icache = s.icache := rfl
@[simp] theorem setBlk_farSent (s : State) (b : Nat) (v : Block) : (s.setBlk b v).farSent = s.farSent := rfl
@[simp] theorem setBlk_farQ (s : State) (b : Nat) (v : Block) : (s.setBlk b v).farQ = s.farQ := rfl
@[simp] theorem setBlk_ctrMsgs (s : State) (b : Nat) (v : Block) : (s.setBlk b v).ctrMsgs = s.ctrMsgs := rfl
@[simp] theorem setBlk_ctrWait (s : State) (b : Nat) (v : Block) : (s.setBlk b v).ctrWait = s.ctrWait := rfl
@[simp] theorem setBlk_allows (s : State) (b : Nat) (v : Block) : (s.setBlk b v).allows = s.allows := rfl
@[simp] theorem setBlk_left (s : State) (b : Nat) (v : Block) : (s.setBlk b v).left = s.left := rfl
@[simp] theorem setBlk_ncache (s : State) (b : Nat) (v : Block) : (s.setBlk b v).ncache = s.ncache := rfl
@[simp] theorem setBlk_ncUsed (s : State) (b : Nat) (v : Block) : (s.setBlk b v).ncUsed = s.ncUsed := rfl
@[simp] theorem setBlk_fused (s : State) (b : Nat) (v : Block) : (s.setBlk b v).fused = s.fused := rfl
@[simp] theorem setBlk_l1tlb (s : State) (b : Nat) (v : Block) : (s.setBlk b v).l1tlb = s.l1tlb := rfl
@[simp] theorem setBlk_l2tlb (s : State) (b : Nat) (v : Block) : (s.setBlk b v).l2tlb = s.l2tlb := rfl
@[simp] theorem setBlk_ctxs (s : State) (b : Nat) (v : Block) : (s.setBlk b v).ctxs = s.ctxs := rfl
@[simp] theorem setBlk_flt (s : State) (b : Nat) (v : Block) : (s.setBlk b v).flt = s.flt := rfl
@[simp] theorem setBlk_copies (s : State) (b : Nat) (v : Block) : (s.setBlk b v).copies = s.copies := rfl
@[simp] theorem setBlk_hbx (s : State) (b : Nat) (v : Block) : (s.setBlk b v).hbx = s.hbx := rfl
@[simp] theorem setBlk_queues (s : State) (b : Nat) (v : Block) : (s.setBlk b v).queues = s.queues := rfl
@[simp] theorem setBlk_cards (s : State) (b : Nat) (v : Block) : (s.setBlk b v).cards = s.cards := rfl
@[simp] theorem setBlk_grps (s : State) (b : Nat) (v : Block) : (s.setBlk b v).grps = s.grps := rfl
@[simp] theorem setBlk_ports (s : State) (b : Nat) (v : Block) : (s.setBlk b v).ports = s.ports := rfl
@[simp] theorem setBlk_parts (s : State) (b : Nat) (v : Block) : (s.setBlk b v).parts = s.parts := rfl
@[simp] theorem setBlk_inbox (s : State) (b : Nat) (v : Block) : (s.setBlk b v).inbox = s.inbox := rfl
@[simp] theorem setBlk_trps (s : State) (b : Nat) (v : Block) : (s.setBlk b v).trps = s.trps := rfl
@[simp] theorem setBlk_ingress (s : State) (b : Nat) (v : Block) : (s.setBlk b v).ingress = s.ingress := rfl
@[simp] theorem setBlk_cqs (s : State) (b : Nat) (v : Block) : (s.setBlk b v).cqs = s.cqs := rfl
@[simp] theorem setBlk_ssus (s : State) (b : Nat) (v : Block) : (s.setBlk b v).ssus = s.ssus := rfl
@[simp] theorem setBlk_pending (s : State) (b : Nat) (v : Block) : (s.setBlk b v).pending = s.pending := rfl
@[simp] theorem setBlk_arrivals (s : State) (b : Nat) (v : Block) : (s.setBlk b v).arrivals = s.arrivals := rfl
@[simp] theorem setBlk_agenda (s : State) (b : Nat) (v : Block) : (s.setBlk b v).agenda = s.agenda := rfl
@[simp] theorem setBlk_issue (s : State) (b : Nat) (v : Block) : (s.setBlk b v).issue = s.issue := rfl
@[simp] theorem setBlk_ids (s : State) (b : Nat) (v : Block) : (s.setBlk b v).ids = s.ids := rfl
@[simp] theorem setBlk_free (s : State) (b : Nat) (v : Block) : (s.setBlk b v).free = s.free := rfl

/-! ### setCtx -/

@[simp] theorem setCtx_clock (s : State) (c : Nat) (v : Ctx) : (s.setCtx c v).clock = s.clock := rfl
@[simp] theorem setCtx_dev (s : State) (c : Nat) (v : Ctx) : (s.setCtx c v).dev = s.dev := rfl
@[simp] theorem setCtx_pwr (s : State) (c : Nat) (v : Ctx) : (s.setCtx c v).pwr = s.pwr := rfl
@[simp] theorem setCtx_mem (s : State) (c : Nat) (v : Ctx) : (s.setCtx c v).mem = s.mem := rfl
@[simp] theorem setCtx_mtags (s : State) (c : Nat) (v : Ctx) : (s.setCtx c v).mtags = s.mtags := rfl
@[simp] theorem setCtx_poison (s : State) (c : Nat) (v : Ctx) : (s.setCtx c v).poison = s.poison := rfl
@[simp] theorem setCtx_hostMem (s : State) (c : Nat) (v : Ctx) : (s.setCtx c v).hostMem = s.hostMem := rfl
@[simp] theorem setCtx_peerMem (s : State) (c : Nat) (v : Ctx) : (s.setCtx c v).peerMem = s.peerMem := rfl
@[simp] theorem setCtx_peerBad (s : State) (c : Nat) (v : Ctx) : (s.setCtx c v).peerBad = s.peerBad := rfl
@[simp] theorem setCtx_hist (s : State) (c : Nat) (v : Ctx) : (s.setCtx c v).hist = s.hist := rfl
@[simp] theorem setCtx_dirs (s : State) (c : Nat) (v : Ctx) : (s.setCtx c v).dirs = s.dirs := rfl
@[simp] theorem setCtx_l2 (s : State) (c : Nat) (v : Ctx) : (s.setCtx c v).l2 = s.l2 := rfl
@[simp] theorem setCtx_txns (s : State) (c : Nat) (v : Ctx) : (s.setCtx c v).txns = s.txns := rfl
@[simp] theorem setCtx_lines (s : State) (c : Nat) (v : Ctx) : (s.setCtx c v).lines = s.lines := rfl
@[simp] theorem setCtx_icache (s : State) (c : Nat) (v : Ctx) : (s.setCtx c v).icache = s.icache := rfl
@[simp] theorem setCtx_farSent (s : State) (c : Nat) (v : Ctx) : (s.setCtx c v).farSent = s.farSent := rfl
@[simp] theorem setCtx_farQ (s : State) (c : Nat) (v : Ctx) : (s.setCtx c v).farQ = s.farQ := rfl
@[simp] theorem setCtx_ctrMsgs (s : State) (c : Nat) (v : Ctx) : (s.setCtx c v).ctrMsgs = s.ctrMsgs := rfl
@[simp] theorem setCtx_ctrWait (s : State) (c : Nat) (v : Ctx) : (s.setCtx c v).ctrWait = s.ctrWait := rfl
@[simp] theorem setCtx_allows (s : State) (c : Nat) (v : Ctx) : (s.setCtx c v).allows = s.allows := rfl
@[simp] theorem setCtx_left (s : State) (c : Nat) (v : Ctx) : (s.setCtx c v).left = s.left := rfl
@[simp] theorem setCtx_ncache (s : State) (c : Nat) (v : Ctx) : (s.setCtx c v).ncache = s.ncache := rfl
@[simp] theorem setCtx_ncUsed (s : State) (c : Nat) (v : Ctx) : (s.setCtx c v).ncUsed = s.ncUsed := rfl
@[simp] theorem setCtx_fused (s : State) (c : Nat) (v : Ctx) : (s.setCtx c v).fused = s.fused := rfl
@[simp] theorem setCtx_l1tlb (s : State) (c : Nat) (v : Ctx) : (s.setCtx c v).l1tlb = s.l1tlb := rfl
@[simp] theorem setCtx_l2tlb (s : State) (c : Nat) (v : Ctx) : (s.setCtx c v).l2tlb = s.l2tlb := rfl
@[simp] theorem setCtx_flt (s : State) (c : Nat) (v : Ctx) : (s.setCtx c v).flt = s.flt := rfl
@[simp] theorem setCtx_copies (s : State) (c : Nat) (v : Ctx) : (s.setCtx c v).copies = s.copies := rfl
@[simp] theorem setCtx_hbx (s : State) (c : Nat) (v : Ctx) : (s.setCtx c v).hbx = s.hbx := rfl
@[simp] theorem setCtx_queues (s : State) (c : Nat) (v : Ctx) : (s.setCtx c v).queues = s.queues := rfl
@[simp] theorem setCtx_cards (s : State) (c : Nat) (v : Ctx) : (s.setCtx c v).cards = s.cards := rfl
@[simp] theorem setCtx_blks (s : State) (c : Nat) (v : Ctx) : (s.setCtx c v).blks = s.blks := rfl
@[simp] theorem setCtx_grps (s : State) (c : Nat) (v : Ctx) : (s.setCtx c v).grps = s.grps := rfl
@[simp] theorem setCtx_ports (s : State) (c : Nat) (v : Ctx) : (s.setCtx c v).ports = s.ports := rfl
@[simp] theorem setCtx_parts (s : State) (c : Nat) (v : Ctx) : (s.setCtx c v).parts = s.parts := rfl
@[simp] theorem setCtx_inbox (s : State) (c : Nat) (v : Ctx) : (s.setCtx c v).inbox = s.inbox := rfl
@[simp] theorem setCtx_trps (s : State) (c : Nat) (v : Ctx) : (s.setCtx c v).trps = s.trps := rfl
@[simp] theorem setCtx_ingress (s : State) (c : Nat) (v : Ctx) : (s.setCtx c v).ingress = s.ingress := rfl
@[simp] theorem setCtx_cqs (s : State) (c : Nat) (v : Ctx) : (s.setCtx c v).cqs = s.cqs := rfl
@[simp] theorem setCtx_ssus (s : State) (c : Nat) (v : Ctx) : (s.setCtx c v).ssus = s.ssus := rfl
@[simp] theorem setCtx_pending (s : State) (c : Nat) (v : Ctx) : (s.setCtx c v).pending = s.pending := rfl
@[simp] theorem setCtx_arrivals (s : State) (c : Nat) (v : Ctx) : (s.setCtx c v).arrivals = s.arrivals := rfl
@[simp] theorem setCtx_agenda (s : State) (c : Nat) (v : Ctx) : (s.setCtx c v).agenda = s.agenda := rfl
@[simp] theorem setCtx_issue (s : State) (c : Nat) (v : Ctx) : (s.setCtx c v).issue = s.issue := rfl
@[simp] theorem setCtx_ids (s : State) (c : Nat) (v : Ctx) : (s.setCtx c v).ids = s.ids := rfl
@[simp] theorem setCtx_free (s : State) (c : Nat) (v : Ctx) : (s.setCtx c v).free = s.free := rfl

/-! ### setCard -/

@[simp] theorem setCard_clock (s : State) (c : Nat) (v : Card) : (s.setCard c v).clock = s.clock := rfl
@[simp] theorem setCard_dev (s : State) (c : Nat) (v : Card) : (s.setCard c v).dev = s.dev := rfl
@[simp] theorem setCard_pwr (s : State) (c : Nat) (v : Card) : (s.setCard c v).pwr = s.pwr := rfl
@[simp] theorem setCard_mem (s : State) (c : Nat) (v : Card) : (s.setCard c v).mem = s.mem := rfl
@[simp] theorem setCard_mtags (s : State) (c : Nat) (v : Card) : (s.setCard c v).mtags = s.mtags := rfl
@[simp] theorem setCard_poison (s : State) (c : Nat) (v : Card) : (s.setCard c v).poison = s.poison := rfl
@[simp] theorem setCard_hostMem (s : State) (c : Nat) (v : Card) : (s.setCard c v).hostMem = s.hostMem := rfl
@[simp] theorem setCard_peerMem (s : State) (c : Nat) (v : Card) : (s.setCard c v).peerMem = s.peerMem := rfl
@[simp] theorem setCard_peerBad (s : State) (c : Nat) (v : Card) : (s.setCard c v).peerBad = s.peerBad := rfl
@[simp] theorem setCard_hist (s : State) (c : Nat) (v : Card) : (s.setCard c v).hist = s.hist := rfl
@[simp] theorem setCard_dirs (s : State) (c : Nat) (v : Card) : (s.setCard c v).dirs = s.dirs := rfl
@[simp] theorem setCard_l2 (s : State) (c : Nat) (v : Card) : (s.setCard c v).l2 = s.l2 := rfl
@[simp] theorem setCard_txns (s : State) (c : Nat) (v : Card) : (s.setCard c v).txns = s.txns := rfl
@[simp] theorem setCard_lines (s : State) (c : Nat) (v : Card) : (s.setCard c v).lines = s.lines := rfl
@[simp] theorem setCard_icache (s : State) (c : Nat) (v : Card) : (s.setCard c v).icache = s.icache := rfl
@[simp] theorem setCard_farSent (s : State) (c : Nat) (v : Card) : (s.setCard c v).farSent = s.farSent := rfl
@[simp] theorem setCard_farQ (s : State) (c : Nat) (v : Card) : (s.setCard c v).farQ = s.farQ := rfl
@[simp] theorem setCard_ctrMsgs (s : State) (c : Nat) (v : Card) : (s.setCard c v).ctrMsgs = s.ctrMsgs := rfl
@[simp] theorem setCard_ctrWait (s : State) (c : Nat) (v : Card) : (s.setCard c v).ctrWait = s.ctrWait := rfl
@[simp] theorem setCard_allows (s : State) (c : Nat) (v : Card) : (s.setCard c v).allows = s.allows := rfl
@[simp] theorem setCard_left (s : State) (c : Nat) (v : Card) : (s.setCard c v).left = s.left := rfl
@[simp] theorem setCard_ncache (s : State) (c : Nat) (v : Card) : (s.setCard c v).ncache = s.ncache := rfl
@[simp] theorem setCard_ncUsed (s : State) (c : Nat) (v : Card) : (s.setCard c v).ncUsed = s.ncUsed := rfl
@[simp] theorem setCard_fused (s : State) (c : Nat) (v : Card) : (s.setCard c v).fused = s.fused := rfl
@[simp] theorem setCard_l1tlb (s : State) (c : Nat) (v : Card) : (s.setCard c v).l1tlb = s.l1tlb := rfl
@[simp] theorem setCard_l2tlb (s : State) (c : Nat) (v : Card) : (s.setCard c v).l2tlb = s.l2tlb := rfl
@[simp] theorem setCard_ctxs (s : State) (c : Nat) (v : Card) : (s.setCard c v).ctxs = s.ctxs := rfl
@[simp] theorem setCard_flt (s : State) (c : Nat) (v : Card) : (s.setCard c v).flt = s.flt := rfl
@[simp] theorem setCard_copies (s : State) (c : Nat) (v : Card) : (s.setCard c v).copies = s.copies := rfl
@[simp] theorem setCard_hbx (s : State) (c : Nat) (v : Card) : (s.setCard c v).hbx = s.hbx := rfl
@[simp] theorem setCard_queues (s : State) (c : Nat) (v : Card) : (s.setCard c v).queues = s.queues := rfl
@[simp] theorem setCard_blks (s : State) (c : Nat) (v : Card) : (s.setCard c v).blks = s.blks := rfl
@[simp] theorem setCard_grps (s : State) (c : Nat) (v : Card) : (s.setCard c v).grps = s.grps := rfl
@[simp] theorem setCard_ports (s : State) (c : Nat) (v : Card) : (s.setCard c v).ports = s.ports := rfl
@[simp] theorem setCard_parts (s : State) (c : Nat) (v : Card) : (s.setCard c v).parts = s.parts := rfl
@[simp] theorem setCard_inbox (s : State) (c : Nat) (v : Card) : (s.setCard c v).inbox = s.inbox := rfl
@[simp] theorem setCard_trps (s : State) (c : Nat) (v : Card) : (s.setCard c v).trps = s.trps := rfl
@[simp] theorem setCard_ingress (s : State) (c : Nat) (v : Card) : (s.setCard c v).ingress = s.ingress := rfl
@[simp] theorem setCard_cqs (s : State) (c : Nat) (v : Card) : (s.setCard c v).cqs = s.cqs := rfl
@[simp] theorem setCard_ssus (s : State) (c : Nat) (v : Card) : (s.setCard c v).ssus = s.ssus := rfl
@[simp] theorem setCard_pending (s : State) (c : Nat) (v : Card) : (s.setCard c v).pending = s.pending := rfl
@[simp] theorem setCard_arrivals (s : State) (c : Nat) (v : Card) : (s.setCard c v).arrivals = s.arrivals := rfl
@[simp] theorem setCard_agenda (s : State) (c : Nat) (v : Card) : (s.setCard c v).agenda = s.agenda := rfl
@[simp] theorem setCard_issue (s : State) (c : Nat) (v : Card) : (s.setCard c v).issue = s.issue := rfl
@[simp] theorem setCard_ids (s : State) (c : Nat) (v : Card) : (s.setCard c v).ids = s.ids := rfl
@[simp] theorem setCard_free (s : State) (c : Nat) (v : Card) : (s.setCard c v).free = s.free := rfl

/-! ### setQueue -/

@[simp] theorem setQueue_clock (s : State) (q : Nat) (v : Queue) : (s.setQueue q v).clock = s.clock := rfl
@[simp] theorem setQueue_dev (s : State) (q : Nat) (v : Queue) : (s.setQueue q v).dev = s.dev := rfl
@[simp] theorem setQueue_pwr (s : State) (q : Nat) (v : Queue) : (s.setQueue q v).pwr = s.pwr := rfl
@[simp] theorem setQueue_mem (s : State) (q : Nat) (v : Queue) : (s.setQueue q v).mem = s.mem := rfl
@[simp] theorem setQueue_mtags (s : State) (q : Nat) (v : Queue) : (s.setQueue q v).mtags = s.mtags := rfl
@[simp] theorem setQueue_poison (s : State) (q : Nat) (v : Queue) : (s.setQueue q v).poison = s.poison := rfl
@[simp] theorem setQueue_hostMem (s : State) (q : Nat) (v : Queue) : (s.setQueue q v).hostMem = s.hostMem := rfl
@[simp] theorem setQueue_peerMem (s : State) (q : Nat) (v : Queue) : (s.setQueue q v).peerMem = s.peerMem := rfl
@[simp] theorem setQueue_peerBad (s : State) (q : Nat) (v : Queue) : (s.setQueue q v).peerBad = s.peerBad := rfl
@[simp] theorem setQueue_hist (s : State) (q : Nat) (v : Queue) : (s.setQueue q v).hist = s.hist := rfl
@[simp] theorem setQueue_dirs (s : State) (q : Nat) (v : Queue) : (s.setQueue q v).dirs = s.dirs := rfl
@[simp] theorem setQueue_l2 (s : State) (q : Nat) (v : Queue) : (s.setQueue q v).l2 = s.l2 := rfl
@[simp] theorem setQueue_txns (s : State) (q : Nat) (v : Queue) : (s.setQueue q v).txns = s.txns := rfl
@[simp] theorem setQueue_lines (s : State) (q : Nat) (v : Queue) : (s.setQueue q v).lines = s.lines := rfl
@[simp] theorem setQueue_icache (s : State) (q : Nat) (v : Queue) : (s.setQueue q v).icache = s.icache := rfl
@[simp] theorem setQueue_farSent (s : State) (q : Nat) (v : Queue) : (s.setQueue q v).farSent = s.farSent := rfl
@[simp] theorem setQueue_farQ (s : State) (q : Nat) (v : Queue) : (s.setQueue q v).farQ = s.farQ := rfl
@[simp] theorem setQueue_ctrMsgs (s : State) (q : Nat) (v : Queue) : (s.setQueue q v).ctrMsgs = s.ctrMsgs := rfl
@[simp] theorem setQueue_ctrWait (s : State) (q : Nat) (v : Queue) : (s.setQueue q v).ctrWait = s.ctrWait := rfl
@[simp] theorem setQueue_allows (s : State) (q : Nat) (v : Queue) : (s.setQueue q v).allows = s.allows := rfl
@[simp] theorem setQueue_left (s : State) (q : Nat) (v : Queue) : (s.setQueue q v).left = s.left := rfl
@[simp] theorem setQueue_ncache (s : State) (q : Nat) (v : Queue) : (s.setQueue q v).ncache = s.ncache := rfl
@[simp] theorem setQueue_ncUsed (s : State) (q : Nat) (v : Queue) : (s.setQueue q v).ncUsed = s.ncUsed := rfl
@[simp] theorem setQueue_fused (s : State) (q : Nat) (v : Queue) : (s.setQueue q v).fused = s.fused := rfl
@[simp] theorem setQueue_l1tlb (s : State) (q : Nat) (v : Queue) : (s.setQueue q v).l1tlb = s.l1tlb := rfl
@[simp] theorem setQueue_l2tlb (s : State) (q : Nat) (v : Queue) : (s.setQueue q v).l2tlb = s.l2tlb := rfl
@[simp] theorem setQueue_ctxs (s : State) (q : Nat) (v : Queue) : (s.setQueue q v).ctxs = s.ctxs := rfl
@[simp] theorem setQueue_flt (s : State) (q : Nat) (v : Queue) : (s.setQueue q v).flt = s.flt := rfl
@[simp] theorem setQueue_copies (s : State) (q : Nat) (v : Queue) : (s.setQueue q v).copies = s.copies := rfl
@[simp] theorem setQueue_hbx (s : State) (q : Nat) (v : Queue) : (s.setQueue q v).hbx = s.hbx := rfl
@[simp] theorem setQueue_cards (s : State) (q : Nat) (v : Queue) : (s.setQueue q v).cards = s.cards := rfl
@[simp] theorem setQueue_blks (s : State) (q : Nat) (v : Queue) : (s.setQueue q v).blks = s.blks := rfl
@[simp] theorem setQueue_grps (s : State) (q : Nat) (v : Queue) : (s.setQueue q v).grps = s.grps := rfl
@[simp] theorem setQueue_ports (s : State) (q : Nat) (v : Queue) : (s.setQueue q v).ports = s.ports := rfl
@[simp] theorem setQueue_parts (s : State) (q : Nat) (v : Queue) : (s.setQueue q v).parts = s.parts := rfl
@[simp] theorem setQueue_inbox (s : State) (q : Nat) (v : Queue) : (s.setQueue q v).inbox = s.inbox := rfl
@[simp] theorem setQueue_trps (s : State) (q : Nat) (v : Queue) : (s.setQueue q v).trps = s.trps := rfl
@[simp] theorem setQueue_ingress (s : State) (q : Nat) (v : Queue) : (s.setQueue q v).ingress = s.ingress := rfl
@[simp] theorem setQueue_cqs (s : State) (q : Nat) (v : Queue) : (s.setQueue q v).cqs = s.cqs := rfl
@[simp] theorem setQueue_ssus (s : State) (q : Nat) (v : Queue) : (s.setQueue q v).ssus = s.ssus := rfl
@[simp] theorem setQueue_pending (s : State) (q : Nat) (v : Queue) : (s.setQueue q v).pending = s.pending := rfl
@[simp] theorem setQueue_arrivals (s : State) (q : Nat) (v : Queue) : (s.setQueue q v).arrivals = s.arrivals := rfl
@[simp] theorem setQueue_agenda (s : State) (q : Nat) (v : Queue) : (s.setQueue q v).agenda = s.agenda := rfl
@[simp] theorem setQueue_issue (s : State) (q : Nat) (v : Queue) : (s.setQueue q v).issue = s.issue := rfl
@[simp] theorem setQueue_ids (s : State) (q : Nat) (v : Queue) : (s.setQueue q v).ids = s.ids := rfl
@[simp] theorem setQueue_free (s : State) (q : Nat) (v : Queue) : (s.setQueue q v).free = s.free := rfl

/-! ### setL1 -/

@[simp] theorem setL1_clock (s : State) (core line : Nat) (l : L1Line) : (s.setL1 core line l).clock = s.clock := rfl
@[simp] theorem setL1_dev (s : State) (core line : Nat) (l : L1Line) : (s.setL1 core line l).dev = s.dev := rfl
@[simp] theorem setL1_pwr (s : State) (core line : Nat) (l : L1Line) : (s.setL1 core line l).pwr = s.pwr := rfl
@[simp] theorem setL1_mem (s : State) (core line : Nat) (l : L1Line) : (s.setL1 core line l).mem = s.mem := rfl
@[simp] theorem setL1_mtags (s : State) (core line : Nat) (l : L1Line) : (s.setL1 core line l).mtags = s.mtags := rfl
@[simp] theorem setL1_poison (s : State) (core line : Nat) (l : L1Line) : (s.setL1 core line l).poison = s.poison := rfl
@[simp] theorem setL1_hostMem (s : State) (core line : Nat) (l : L1Line) : (s.setL1 core line l).hostMem = s.hostMem := rfl
@[simp] theorem setL1_peerMem (s : State) (core line : Nat) (l : L1Line) : (s.setL1 core line l).peerMem = s.peerMem := rfl
@[simp] theorem setL1_peerBad (s : State) (core line : Nat) (l : L1Line) : (s.setL1 core line l).peerBad = s.peerBad := rfl
@[simp] theorem setL1_hist (s : State) (core line : Nat) (l : L1Line) : (s.setL1 core line l).hist = s.hist := rfl
@[simp] theorem setL1_dirs (s : State) (core line : Nat) (l : L1Line) : (s.setL1 core line l).dirs = s.dirs := rfl
@[simp] theorem setL1_l2 (s : State) (core line : Nat) (l : L1Line) : (s.setL1 core line l).l2 = s.l2 := rfl
@[simp] theorem setL1_txns (s : State) (core line : Nat) (l : L1Line) : (s.setL1 core line l).txns = s.txns := rfl
@[simp] theorem setL1_icache (s : State) (core line : Nat) (l : L1Line) : (s.setL1 core line l).icache = s.icache := rfl
@[simp] theorem setL1_farSent (s : State) (core line : Nat) (l : L1Line) : (s.setL1 core line l).farSent = s.farSent := rfl
@[simp] theorem setL1_farQ (s : State) (core line : Nat) (l : L1Line) : (s.setL1 core line l).farQ = s.farQ := rfl
@[simp] theorem setL1_ctrMsgs (s : State) (core line : Nat) (l : L1Line) : (s.setL1 core line l).ctrMsgs = s.ctrMsgs := rfl
@[simp] theorem setL1_ctrWait (s : State) (core line : Nat) (l : L1Line) : (s.setL1 core line l).ctrWait = s.ctrWait := rfl
@[simp] theorem setL1_allows (s : State) (core line : Nat) (l : L1Line) : (s.setL1 core line l).allows = s.allows := rfl
@[simp] theorem setL1_left (s : State) (core line : Nat) (l : L1Line) : (s.setL1 core line l).left = s.left := rfl
@[simp] theorem setL1_ncache (s : State) (core line : Nat) (l : L1Line) : (s.setL1 core line l).ncache = s.ncache := rfl
@[simp] theorem setL1_ncUsed (s : State) (core line : Nat) (l : L1Line) : (s.setL1 core line l).ncUsed = s.ncUsed := rfl
@[simp] theorem setL1_fused (s : State) (core line : Nat) (l : L1Line) : (s.setL1 core line l).fused = s.fused := rfl
@[simp] theorem setL1_l1tlb (s : State) (core line : Nat) (l : L1Line) : (s.setL1 core line l).l1tlb = s.l1tlb := rfl
@[simp] theorem setL1_l2tlb (s : State) (core line : Nat) (l : L1Line) : (s.setL1 core line l).l2tlb = s.l2tlb := rfl
@[simp] theorem setL1_ctxs (s : State) (core line : Nat) (l : L1Line) : (s.setL1 core line l).ctxs = s.ctxs := rfl
@[simp] theorem setL1_flt (s : State) (core line : Nat) (l : L1Line) : (s.setL1 core line l).flt = s.flt := rfl
@[simp] theorem setL1_copies (s : State) (core line : Nat) (l : L1Line) : (s.setL1 core line l).copies = s.copies := rfl
@[simp] theorem setL1_hbx (s : State) (core line : Nat) (l : L1Line) : (s.setL1 core line l).hbx = s.hbx := rfl
@[simp] theorem setL1_queues (s : State) (core line : Nat) (l : L1Line) : (s.setL1 core line l).queues = s.queues := rfl
@[simp] theorem setL1_cards (s : State) (core line : Nat) (l : L1Line) : (s.setL1 core line l).cards = s.cards := rfl
@[simp] theorem setL1_blks (s : State) (core line : Nat) (l : L1Line) : (s.setL1 core line l).blks = s.blks := rfl
@[simp] theorem setL1_grps (s : State) (core line : Nat) (l : L1Line) : (s.setL1 core line l).grps = s.grps := rfl
@[simp] theorem setL1_ports (s : State) (core line : Nat) (l : L1Line) : (s.setL1 core line l).ports = s.ports := rfl
@[simp] theorem setL1_parts (s : State) (core line : Nat) (l : L1Line) : (s.setL1 core line l).parts = s.parts := rfl
@[simp] theorem setL1_inbox (s : State) (core line : Nat) (l : L1Line) : (s.setL1 core line l).inbox = s.inbox := rfl
@[simp] theorem setL1_trps (s : State) (core line : Nat) (l : L1Line) : (s.setL1 core line l).trps = s.trps := rfl
@[simp] theorem setL1_ingress (s : State) (core line : Nat) (l : L1Line) : (s.setL1 core line l).ingress = s.ingress := rfl
@[simp] theorem setL1_cqs (s : State) (core line : Nat) (l : L1Line) : (s.setL1 core line l).cqs = s.cqs := rfl
@[simp] theorem setL1_ssus (s : State) (core line : Nat) (l : L1Line) : (s.setL1 core line l).ssus = s.ssus := rfl
@[simp] theorem setL1_pending (s : State) (core line : Nat) (l : L1Line) : (s.setL1 core line l).pending = s.pending := rfl
@[simp] theorem setL1_arrivals (s : State) (core line : Nat) (l : L1Line) : (s.setL1 core line l).arrivals = s.arrivals := rfl
@[simp] theorem setL1_agenda (s : State) (core line : Nat) (l : L1Line) : (s.setL1 core line l).agenda = s.agenda := rfl
@[simp] theorem setL1_issue (s : State) (core line : Nat) (l : L1Line) : (s.setL1 core line l).issue = s.issue := rfl
@[simp] theorem setL1_ids (s : State) (core line : Nat) (l : L1Line) : (s.setL1 core line l).ids = s.ids := rfl
@[simp] theorem setL1_free (s : State) (core line : Nat) (l : L1Line) : (s.setL1 core line l).free = s.free := rfl

/-! ### setDir -/

@[simp] theorem setDir_clock (s : State) (line : Nat) (d : DirEntry) : (s.setDir line d).clock = s.clock := rfl
@[simp] theorem setDir_dev (s : State) (line : Nat) (d : DirEntry) : (s.setDir line d).dev = s.dev := rfl
@[simp] theorem setDir_pwr (s : State) (line : Nat) (d : DirEntry) : (s.setDir line d).pwr = s.pwr := rfl
@[simp] theorem setDir_mem (s : State) (line : Nat) (d : DirEntry) : (s.setDir line d).mem = s.mem := rfl
@[simp] theorem setDir_mtags (s : State) (line : Nat) (d : DirEntry) : (s.setDir line d).mtags = s.mtags := rfl
@[simp] theorem setDir_poison (s : State) (line : Nat) (d : DirEntry) : (s.setDir line d).poison = s.poison := rfl
@[simp] theorem setDir_hostMem (s : State) (line : Nat) (d : DirEntry) : (s.setDir line d).hostMem = s.hostMem := rfl
@[simp] theorem setDir_peerMem (s : State) (line : Nat) (d : DirEntry) : (s.setDir line d).peerMem = s.peerMem := rfl
@[simp] theorem setDir_peerBad (s : State) (line : Nat) (d : DirEntry) : (s.setDir line d).peerBad = s.peerBad := rfl
@[simp] theorem setDir_hist (s : State) (line : Nat) (d : DirEntry) : (s.setDir line d).hist = s.hist := rfl
@[simp] theorem setDir_l2 (s : State) (line : Nat) (d : DirEntry) : (s.setDir line d).l2 = s.l2 := rfl
@[simp] theorem setDir_txns (s : State) (line : Nat) (d : DirEntry) : (s.setDir line d).txns = s.txns := rfl
@[simp] theorem setDir_lines (s : State) (line : Nat) (d : DirEntry) : (s.setDir line d).lines = s.lines := rfl
@[simp] theorem setDir_icache (s : State) (line : Nat) (d : DirEntry) : (s.setDir line d).icache = s.icache := rfl
@[simp] theorem setDir_farSent (s : State) (line : Nat) (d : DirEntry) : (s.setDir line d).farSent = s.farSent := rfl
@[simp] theorem setDir_farQ (s : State) (line : Nat) (d : DirEntry) : (s.setDir line d).farQ = s.farQ := rfl
@[simp] theorem setDir_ctrMsgs (s : State) (line : Nat) (d : DirEntry) : (s.setDir line d).ctrMsgs = s.ctrMsgs := rfl
@[simp] theorem setDir_ctrWait (s : State) (line : Nat) (d : DirEntry) : (s.setDir line d).ctrWait = s.ctrWait := rfl
@[simp] theorem setDir_allows (s : State) (line : Nat) (d : DirEntry) : (s.setDir line d).allows = s.allows := rfl
@[simp] theorem setDir_left (s : State) (line : Nat) (d : DirEntry) : (s.setDir line d).left = s.left := rfl
@[simp] theorem setDir_ncache (s : State) (line : Nat) (d : DirEntry) : (s.setDir line d).ncache = s.ncache := rfl
@[simp] theorem setDir_ncUsed (s : State) (line : Nat) (d : DirEntry) : (s.setDir line d).ncUsed = s.ncUsed := rfl
@[simp] theorem setDir_fused (s : State) (line : Nat) (d : DirEntry) : (s.setDir line d).fused = s.fused := rfl
@[simp] theorem setDir_l1tlb (s : State) (line : Nat) (d : DirEntry) : (s.setDir line d).l1tlb = s.l1tlb := rfl
@[simp] theorem setDir_l2tlb (s : State) (line : Nat) (d : DirEntry) : (s.setDir line d).l2tlb = s.l2tlb := rfl
@[simp] theorem setDir_ctxs (s : State) (line : Nat) (d : DirEntry) : (s.setDir line d).ctxs = s.ctxs := rfl
@[simp] theorem setDir_flt (s : State) (line : Nat) (d : DirEntry) : (s.setDir line d).flt = s.flt := rfl
@[simp] theorem setDir_copies (s : State) (line : Nat) (d : DirEntry) : (s.setDir line d).copies = s.copies := rfl
@[simp] theorem setDir_hbx (s : State) (line : Nat) (d : DirEntry) : (s.setDir line d).hbx = s.hbx := rfl
@[simp] theorem setDir_queues (s : State) (line : Nat) (d : DirEntry) : (s.setDir line d).queues = s.queues := rfl
@[simp] theorem setDir_cards (s : State) (line : Nat) (d : DirEntry) : (s.setDir line d).cards = s.cards := rfl
@[simp] theorem setDir_blks (s : State) (line : Nat) (d : DirEntry) : (s.setDir line d).blks = s.blks := rfl
@[simp] theorem setDir_grps (s : State) (line : Nat) (d : DirEntry) : (s.setDir line d).grps = s.grps := rfl
@[simp] theorem setDir_ports (s : State) (line : Nat) (d : DirEntry) : (s.setDir line d).ports = s.ports := rfl
@[simp] theorem setDir_parts (s : State) (line : Nat) (d : DirEntry) : (s.setDir line d).parts = s.parts := rfl
@[simp] theorem setDir_inbox (s : State) (line : Nat) (d : DirEntry) : (s.setDir line d).inbox = s.inbox := rfl
@[simp] theorem setDir_trps (s : State) (line : Nat) (d : DirEntry) : (s.setDir line d).trps = s.trps := rfl
@[simp] theorem setDir_ingress (s : State) (line : Nat) (d : DirEntry) : (s.setDir line d).ingress = s.ingress := rfl
@[simp] theorem setDir_cqs (s : State) (line : Nat) (d : DirEntry) : (s.setDir line d).cqs = s.cqs := rfl
@[simp] theorem setDir_ssus (s : State) (line : Nat) (d : DirEntry) : (s.setDir line d).ssus = s.ssus := rfl
@[simp] theorem setDir_pending (s : State) (line : Nat) (d : DirEntry) : (s.setDir line d).pending = s.pending := rfl
@[simp] theorem setDir_arrivals (s : State) (line : Nat) (d : DirEntry) : (s.setDir line d).arrivals = s.arrivals := rfl
@[simp] theorem setDir_agenda (s : State) (line : Nat) (d : DirEntry) : (s.setDir line d).agenda = s.agenda := rfl
@[simp] theorem setDir_issue (s : State) (line : Nat) (d : DirEntry) : (s.setDir line d).issue = s.issue := rfl
@[simp] theorem setDir_ids (s : State) (line : Nat) (d : DirEntry) : (s.setDir line d).ids = s.ids := rfl
@[simp] theorem setDir_free (s : State) (line : Nat) (d : DirEntry) : (s.setDir line d).free = s.free := rfl

/-! ### What is read after a write -/

@[simp] theorem tick_free (s : State) : s.tick.free = s.free + 1 := rfl
@[simp] theorem setOut_out (s : State) (o : Out) : (s.setOut o).issue.out = o := rfl
theorem grp_setGrp (s : State) (g h : Nat) (v : Group) : (s.setGrp g v).grp h = if h = g then v else s.grp h := by
  simp [grp, setGrp, Tbl.get_set]
theorem blk_setBlk (s : State) (b c : Nat) (v : Block) : (s.setBlk b v).blk c = if c = b then v else s.blk c := by
  simp [blk, setBlk, Tbl.get_set]
theorem ctx_setCtx (s : State) (c d : Nat) (v : Ctx) : (s.setCtx c v).ctx d = if d = c then v else s.ctx d := by
  simp [ctx, setCtx, Tbl.get_set]
theorem card_setCard (s : State) (c d : Nat) (v : Card) : (s.setCard c v).card d = if d = c then v else s.card d := by
  simp [card, setCard, Tbl.get_set]
theorem queue_setQueue (s : State) (q r : Nat) (v : Queue) :
    (s.setQueue q v).queue r = if r = q then v else s.queue r := by
  simp [queue, setQueue, Tbl.get_set]
theorem dir_setDir (s : State) (l m : Nat) (d : DirEntry) : (s.setDir l d).dir m = if m = l then d else s.dir m := by
  simp [dir, setDir, Tbl.get_set]
@[simp] theorem grp_setGrp_self (s : State) (g : Nat) (v : Group) : (s.setGrp g v).grp g = v := by simp [grp_setGrp]
@[simp] theorem blk_setBlk_self (s : State) (b : Nat) (v : Block) : (s.setBlk b v).blk b = v := by simp [blk_setBlk]
@[simp] theorem ctx_setCtx_self (s : State) (c : Nat) (v : Ctx) : (s.setCtx c v).ctx c = v := by simp [ctx_setCtx]
@[simp] theorem queue_setQueue_self (s : State) (q : Nat) (v : Queue) : (s.setQueue q v).queue q = v := by
  simp [queue_setQueue]

end Sys2Proof.Machine.State
end

