-- ==== Sys2Proof/Laws/Result.lean ====
section
/-! SUPPORT. What the result of an A-word and of a load leaves in registers and latches (04 R64, R65). -/

namespace Sys2Proof.Machine

namespace Tbl
variable {α : Type} [DecidableEq α]

/-- A fold of updates at distinct keys: each listed key has its update, every other key its old value. -/
theorem get_foldl_upd (d : α) (key : Nat → Nat) (f : Nat → α → α) (ls : List Nat) (t : Tbl α)
    (inj : ∀ a ∈ ls, ∀ b ∈ ls, key a = key b → a = b) (nd : ls.Nodup) (n : Nat) :
    get d (ls.foldl (fun t l => set d t (key l) (f l (get d t (key l)))) t) n =
      match ls.find? (fun l => key l == n) with
      | some l => f l (get d t n)
      | none => get d t n := by
  induction ls generalizing t with
  | nil => rfl
  | cons a r ih =>
    have nda := List.nodup_cons.mp nd
    rw [List.foldl_cons, ih _ (fun x hx y hy => inj x (by simp [hx]) y (by simp [hy])) nda.2]
    by_cases h : key a = n
    · have hr : r.find? (fun l => key l == n) = none := by
        rw [List.find?_eq_none]
        intro b hb hk
        have : a = b := inj a (by simp) b (by simp [hb]) (by simpa [h] using (eq_comm.mp (by simpa using hk)))
        exact nda.1 (this ▸ hb)
      simp [h, hr]
    · simp [h, get_set_ne d _ _ (Ne.symm h)]
end Tbl

namespace State

theorem cellKey_inj {r r' l l' : Nat} (h : l < 32) (h' : l' < 32) (e : cellKey r l = cellKey r' l') : r = r' ∧ l = l' := by
  simp only [cellKey] at e
  omega

theorem lanes_nodup : lanes.Nodup := List.nodup_range
theorem mem_lanes {l : Nat} : l ∈ lanes ↔ l < 32 := List.mem_range

/-- One register of a file after a fold of updates over the lanes. -/
theorem get_lanes_upd {α : Type} [DecidableEq α] (d : α) (r : Nat) (f : Nat → α → α) (t : Tbl α) {r' l : Nat} (h : l < 32) :
    Tbl.get d (lanes.foldl (fun t l => Tbl.set d t (cellKey r l) (f l (Tbl.get d t (cellKey r l)))) t) (cellKey r' l) =
      if r' = r then f l (Tbl.get d t (cellKey r' l)) else Tbl.get d t (cellKey r' l) := by
  rw [Tbl.get_foldl_upd d (cellKey r) f lanes t (fun a ha b hb e =>
    (cellKey_inj (mem_lanes.mp ha) (mem_lanes.mp hb) e).2) lanes_nodup]
  split
  · next x hx =>
    have hk := List.find?_some hx
    have hm := mem_lanes.mp (List.mem_of_find?_eq_some hx)
    obtain ⟨rfl, rfl⟩ := cellKey_inj hm h (by simpa using hk)
    simp
  · next hx =>
    rw [List.find?_eq_none] at hx
    split
    · next e => exact absurd (hx l (mem_lanes.mpr h)) (by simp [e])
    · rfl

theorem vcell_updGrp_vregs (s : State) (F : Tbl VCell → Tbl VCell) (r l : Nat) :
    (s.updGrp s.gid fun g => { g with vregs := F g.vregs }).vcell s.gid r l =
      Tbl.get {} (F s.g.vregs) (cellKey r l) := by
  simp [vcell, updGrp, g, gid]

/-- A register after a result. -/
theorem putReg_vcell (s : State) (r : Nat) (mm : Bool) (f : Nat → Word) {r' l : Nat} (h : l < 32) :
    (s.putReg r mm f).vcell s.gid r' l =
      if r' = r then s.resultCell r l mm f (s.vcell s.gid r' l) else s.vcell s.gid r' l := by
  show (s.updGrp s.gid fun g => { g with vregs := lanes.foldl _ g.vregs }).vcell s.gid r' l = _
  rw [vcell_updGrp_vregs s (fun t => lanes.foldl _ t)]
  exact get_lanes_upd {} r (fun l c => s.resultCell r l mm f c) s.g.vregs h

theorem putReg_takes (s : State) (r : Nat) (mm : Bool) (f : Nat → Word) : s.RegTakes (s.putReg r mm f) r mm f := by
  intro l h
  simp only [putReg_vcell s r mm f h, resultCell, if_true]
  split
  · rfl
  · split
    · simp only [agnostic]; split <;> simp
    · rfl

theorem putReg_onlyRegs (s : State) (r : Nat) (mm : Bool) (f : Nat → Word) : s.OnlyRegs (s.putReg r mm f) [r] := by
  refine ⟨⟨rfl, fun g hg => ?_⟩, ?_, fun r' l h hr => ?_⟩
  · simp only [putReg, updGrp, grp_setGrp]
    exact if_neg hg
  · simp [putReg, updGrp, State.g]
  · rw [putReg_vcell s r mm f h, if_neg (by simpa using hr)]

theorem agnostic_congr {s t : State} (hf : t.free = s.free) {r l : Nat} (hc : t.vcur r l = s.vcur r l) :
    t.agnostic r l = s.agnostic r l := by
  simp [agnostic, freeBit, freeNat, hf, hc]

/-- The issuing port after a latch result. -/
theorem putLatch_port (s : State) (k : Nat) (r : Option Nat) (mm : Bool) (f : Nat → Word) (p : Nat) :
    Tbl.get ({} : Port) (s.putLatch k r mm f).ports p =
      if p = s.issue.port then
        { (Tbl.get ({} : Port) s.ports p) with
          lat := lanes.foldl (fun t l => Tbl.set 0 t (cellKey k l) (s.resultLatch r l mm f)) (Tbl.get ({} : Port) s.ports p).lat,
          written := (Tbl.get ({} : Port) s.ports p).written ||| BitVec.ofNat 4 (2 ^ k) }
      else Tbl.get ({} : Port) s.ports p := by
  simp only [putLatch, Tbl.upd, Tbl.get_set]
  split
  · next h => rw [h]
  · rfl

theorem putLatch_latch (s : State) (k : Nat) (r : Option Nat) (mm : Bool) (f : Nat → Word) {k' l : Nat} (h : l < 32) :
    (s.putLatch k r mm f).latch k' l = if k' = k then s.resultLatch r l mm f else s.latch k' l := by
  have e : (s.putLatch k r mm f).issue = s.issue := rfl
  simp only [latch, e, putLatch_port, if_true]
  exact get_lanes_upd 0 k (fun l _ => s.resultLatch r l mm f) _ h

theorem ofNat_pow_bit {k : Nat} (h : k < 4) : (BitVec.ofNat 4 (2 ^ k)).getLsbD k = true := by
  have : k = 0 ∨ k = 1 ∨ k = 2 ∨ k = 3 := by omega
  rcases this with rfl | rfl | rfl | rfl <;> rfl

theorem putLatch_takes (s : State) {k : Nat} (hk : k < 4) (r : Option Nat) (mm : Bool) (f : Nat → Word) :
    s.LatchTakes (s.putLatch k r mm f) k f := by
  refine ⟨fun l h ha => ?_, ?_⟩
  · rw [putLatch_latch s k r mm f h, if_pos rfl]
    simp only [resultLatch, ha, if_true]
  · rw [putLatch_port, if_pos rfl]
    rw [BitVec.getLsbD_or, ofNat_pow_bit hk, Bool.or_true]

/-- The ports of a state differ only in the latches of the issuing port. -/
def OnlyLatches (s : State) (ps : Tbl Port) : Prop :=
  (∀ p, p ≠ s.issue.port → Tbl.get ({} : Port) ps p = Tbl.get {} s.ports p) ∧
    (let p : Port := Tbl.get {} s.ports s.issue.port
     let q : Port := Tbl.get {} ps s.issue.port
     q = { p with lat := q.lat, written := q.written })

theorem putLatch_onlyLatches (s : State) (k : Nat) (r : Option Nat) (mm : Bool) (f : Nat → Word) :
    s.OnlyLatches (s.putLatch k r mm f).ports := by
  refine ⟨fun p hp => ?_, ?_⟩
  · rw [putLatch_port, if_neg hp]
  · simp only [putLatch_port, if_true]

/-- A register result and the ports beside it. -/
theorem onlyResult_of {s t : State} {rs : List Nat} (h : s.OnlyRegs t rs) {ps : Tbl Port} (hp : s.OnlyLatches ps) :
    s.OnlyResult { t with ports := ps } rs := by
  obtain ⟨⟨e, hg⟩, hv, hr⟩ := h
  refine ⟨?_, hg, hv, hr, hp.1, hp.2⟩
  rw [e]

theorem onlyRegs_refl (s : State) (rs : List Nat) : s.OnlyRegs s rs :=
  ⟨⟨rfl, fun _ _ => rfl⟩, rfl, fun _ _ _ _ => rfl⟩

theorem putLatch_onlyResult (s : State) (k : Nat) (r : Option Nat) (mm : Bool) (f : Nat → Word) :
    s.OnlyResult (s.putLatch k r mm f) [] :=
  onlyResult_of (onlyRegs_refl s []) (putLatch_onlyLatches s k r mm f)

/-- A result of one register, before the count of free values goes on. -/
theorem putW_takes (s : State) (o : AOp) (f : Nat → Word) : s.Takes (s.putW (s.vname o.dst) o.mm o.nwb true f) o f := by
  simp only [Takes, putW]
  split
  · next h =>
    have hk : s.vname o.dst % 4 < 4 := Nat.mod_lt _ (by decide)
    have hl := putLatch_takes s hk (some (s.vname o.dst)) o.mm f
    have hp := putLatch_onlyLatches s (s.vname o.dst % 4) (some (s.vname o.dst)) o.mm f
    refine ⟨?_, ?_⟩
    · simp only [if_true]; split <;> exact hl
    · split
      · exact onlyResult_of (onlyRegs_refl s []) hp
      · exact ⟨putReg_takes s _ _ f, onlyResult_of (putReg_onlyRegs s _ _ f) hp⟩
  · exact fun h => ⟨putLatch_takes s (by omega) none o.mm f, putLatch_onlyResult s _ none o.mm f⟩

theorem onlyResult_tick {s t : State} {rs : List Nat} (h : s.OnlyResult t rs) : s.OnlyResult t.tick rs := by
  obtain ⟨e, h⟩ := h
  refine ⟨?_, h⟩
  conv_lhs => rw [e]
  rfl

/-- What an A-word of one register leaves. -/
theorem aPut_takes (s : State) (o : AOp) (f : Nat → Word) : s.Takes (s.aPut o f) o f := by
  have h := putW_takes s o f
  simp only [Takes] at h ⊢
  split
  · next hd =>
    rw [if_pos hd] at h
    refine ⟨h.1, ?_⟩
    have h2 := h.2
    split
    · next hn => rw [if_pos hn] at h2; exact onlyResult_tick h2
    · next hn => rw [if_neg hn] at h2; exact ⟨h2.1, onlyResult_tick h2.2⟩
  · next hd =>
    rw [if_neg hd] at h
    exact fun hk => ⟨(h hk).1, onlyResult_tick (h hk).2⟩

/-! ### Results of a pair -/

theorem OnlyResult.issue {s t : State} {rs : List Nat} (h : s.OnlyResult t rs) : t.issue = s.issue := by rw [h.1]
theorem OnlyResult.gid {s t : State} {rs : List Nat} (h : s.OnlyResult t rs) : t.gid = s.gid := by
  simp only [State.gid, h.issue]
theorem OnlyResult.active {s t : State} {rs : List Nat} (h : s.OnlyResult t rs) : t.active = s.active := by
  simp only [State.active, h.issue]
theorem OnlyResult.sl {s t : State} {rs : List Nat} (h : s.OnlyResult t rs) : t.sl = s.sl := by
  have hs : (t.grp t.issue.gid).slots = (s.grp s.issue.gid).slots := by
    have e := congrArg Group.slots h.2.2.1
    exact e
  show Tbl.get {} (t.grp t.issue.gid).slots t.issue.slot = Tbl.get {} (s.grp s.issue.gid).slots s.issue.slot
  rw [hs, h.issue]

theorem OnlyResult.trans {s t u : State} {rs rs' : List Nat} (h : s.OnlyResult t rs) (h' : t.OnlyResult u rs') :
    s.OnlyResult u (rs ++ rs') := by
  have hi := h.issue
  have hg := h.gid
  obtain ⟨e, a, b, c, d, f⟩ := h
  obtain ⟨e', a', b', c', d', f'⟩ := h'
  refine ⟨?_, fun g hne => ?_, ?_, fun r l hl hr => ?_, fun p hp => ?_, ?_⟩
  · rw [e', e]
  · rw [a' g (by rw [hg]; exact hne), a g hne]
  · rw [b', b]
  · rw [List.mem_append, not_or] at hr
    rw [← c r l hl hr.1, ← hg, c' r l hl hr.2]
  · rw [d' p (by rw [hi]; exact hp), d p hp]
  · rw [hi] at f'
    simp only at f f' ⊢
    rw [f', f]

/-- A latch that a later result does not write stands. -/
theorem LatchTakes.mono {s t u : State} {k : Nat} {f : Nat → Word} (h : s.LatchTakes t k f) (hi : t.issue = s.issue)
    {j : Nat} (hj : j ≠ k) {r : Option Nat} {mm : Bool} {f' : Nat → Word}
    (hu : u.issue = t.issue ∧ u.ports = (t.putLatch j r mm f').ports) : s.LatchTakes u k f := by
  obtain ⟨a, b⟩ := h
  have hl : ∀ l, u.latch k l = (t.putLatch j r mm f').latch k l := by
    intro l; simp only [latch, hu.1, hu.2]; rfl
  refine ⟨fun l hl32 ha => ?_, ?_⟩
  · rw [hl, putLatch_latch t j r mm f' hl32, if_neg (Ne.symm hj)]
    exact a l hl32 ha
  · rw [hu.2, putLatch_port, hi, if_pos rfl, BitVec.getLsbD_or, b, Bool.true_or]

theorem LatchTakes.of_same {s t u : State} {k : Nat} {f : Nat → Word} (h : t.LatchTakes u k f) (hi : t.issue = s.issue) :
    s.LatchTakes u k f := by
  obtain ⟨a, b⟩ := h
  refine ⟨fun l hl ha => a l hl ?_, ?_⟩
  · simpa only [State.active, hi] using ha
  · rw [← hi]; exact b

/-- A register that a second result writes, seen from before the first. -/
theorem RegTakes.of_later {s t u : State} {rs : List Nat} {r : Nat} {mm : Bool} {f : Nat → Word}
    (h : s.OnlyResult t rs) (hr : r ∉ rs) (h' : t.RegTakes u r mm f) : s.RegTakes u r mm f := by
  intro l hl
  have h1 := h' l hl
  have hc : t.vcell s.gid r l = s.vcell s.gid r l := h.2.2.2.1 r l hl hr
  have hv : t.vcur r l = s.vcur r l := by
    simp only [vcur, h.issue]
    cases hs : s.issue.snap with
    | some x => rfl
    | none =>
      have e : t.grp s.issue.gid = t.g := by simp only [State.g, h.issue]
      simpa only [Option.getD_none, vcell, State.g, State.gid, h.issue] using hc
  rw [h.active, h.sl, h.gid, hv, hc] at h1
  exact h1

/-- A register that a second result does not write. -/
theorem RegTakes.of_earlier {s t u : State} {rs : List Nat} {r : Nat} {mm : Bool} {f : Nat → Word}
    (h : s.RegTakes t r mm f) (hg : t.gid = s.gid) (h' : t.OnlyResult u rs) (hr : r ∉ rs) : s.RegTakes u r mm f := by
  intro l hl
  have hc : u.vcell s.gid r l = t.vcell s.gid r l := by rw [← hg]; exact h'.2.2.2.1 r l hl hr
  rw [hc]
  exact h l hl

/-- What an A-word of a pair leaves. -/
theorem aPutQ_takes (s : State) (o : AOp) (f : Nat → Quad) : s.TakesQ (s.aPutQ o f) o f := by
  let lo : Nat → Word := fun l => (f l).extractLsb' 0 32
  let hi : Nat → Word := fun l => (f l).extractLsb' 32 32
  let d := s.vname o.dst
  have key : ∀ (e : Nat) (x : State) (g : Nat → Word), e < 120 →
      x.LatchTakes (x.putW e o.mm o.nwb true g) (e % 4) g ∧
      (x.putW e o.mm o.nwb true g).ports = (x.putLatch (e % 4) (some e) o.mm g).ports ∧
      (x.putW e o.mm o.nwb true g).issue = x.issue ∧
      (if o.nwb then x.OnlyResult (x.putW e o.mm o.nwb true g) []
       else x.RegTakes (x.putW e o.mm o.nwb true g) e o.mm g ∧ x.OnlyResult (x.putW e o.mm o.nwb true g) [e]) := by
    intro e x g he
    have hk : e % 4 < 4 := Nat.mod_lt _ (by decide)
    have hl := putLatch_takes x hk (some e) o.mm g
    have hp := putLatch_onlyLatches x (e % 4) (some e) o.mm g
    simp only [putW, he, if_true]
    refine ⟨?_, trivial, ?_, ?_⟩
    · split <;> exact hl
    · split <;> rfl
    · split
      · exact onlyResult_of (onlyRegs_refl x []) hp
      · exact ⟨putReg_takes x _ _ g, onlyResult_of (putReg_onlyRegs x _ _ g) hp⟩
  show s.TakesQ ((s.putW d o.mm o.nwb true lo).putW (d + 1) o.mm o.nwb true hi).tick o f
  simp only [TakesQ]
  split
  · next hd =>
    have hd' : d + 1 < 120 := hd
    obtain ⟨l1, p1, i1, r1⟩ := key d s lo (by omega)
    obtain ⟨l2, p2, i2, r2⟩ := key (d + 1) (s.putW d o.mm o.nwb true lo) hi hd'
    refine ⟨l1.mono i1 (j := (d + 1) % 4) (by omega) ⟨i2, p2⟩, l2.of_same i1, ?_⟩
    split
    · next hn =>
      rw [if_pos hn] at r1 r2
      exact onlyResult_tick (r1.trans r2)
    · next hn =>
      rw [if_neg hn] at r1 r2
      have hg : (s.putW d o.mm o.nwb true lo).gid = s.gid := r1.2.gid
      refine ⟨r1.1.of_earlier hg (onlyResult_tick r2.2) (show d ∉ [d + 1] by simp), RegTakes.of_later r1.2 (show d + 1 ∉ [d] by simp) r2.1, ?_⟩
      exact onlyResult_tick (r1.2.trans r2.2)
  · next hd =>
    intro hd'
    have h1 : ¬ d < 120 := by omega
    have h2 : ¬ d + 1 < 120 := by omega
    have e : d + 1 - 120 = d - 119 := by omega
    simp only [putW, h1, h2, if_false, e]
    have l1 := putLatch_takes s (show d - 120 < 4 by omega) none o.mm lo
    have l2 := putLatch_takes (s.putLatch (d - 120) none o.mm lo) (show d - 119 < 4 by omega) none o.mm hi
    refine ⟨l1.mono rfl (j := d - 119) (by omega) ⟨rfl, rfl⟩, l2.of_same rfl, ?_⟩
    exact onlyResult_tick ((putLatch_onlyResult s _ none o.mm lo).trans (putLatch_onlyResult _ _ none o.mm hi))

end State
end Sys2Proof.Machine
end

