-- ==== Sys2Proof/Laws/Issue.lean ====
section
/-! SUPPORT. What the issue-time checks make of a word (15 R286, 18 R335). -/

namespace Sys2Proof.Machine.State

theorem issued_next {s : State} {i : Instr} (f : State → State) (h : s.Passes i) : s.issued i f = .next (f s) := by
  simp only [issued]
  rcases h with h | h
  · simp [h]
  · split
    · rfl
    · simp [h]

theorem issuedC_next {s : State} {i : Instr} (f : State → State) (h : s.Acts i) : s.issuedC i f = .next (f s) := by
  rw [issuedC, issued_next _ h.1, onActive, if_neg h.2]

theorem issuedC_idle {s : State} {i : Instr} (f : State → State) (h : s.Passes i) (ha : s.active = 0) :
    s.issuedC i f = .next s := by
  rw [issuedC, issued_next _ h, onActive, if_pos ha]

theorem issued_trap {s : State} {i : Instr} {k : Cause} (f : State → State) (h : s.issue.checked = false)
    (hk : s.issueCause i = some k) : s.issued i f = .next (s.takeIssueTrap k) := by
  simp [issued, h, hk]

/-- An A-word whose meaning writes `f` through `aPut` gives `f`. -/
theorem gives_aPut {s : State} {i : Instr} {o : AOp} {f : Nat → Word} {F : State → State}
    (h : exec i s = s.issued i F) (hF : F s = s.aPut o f) : s.Gives i o f :=
  fun hp => ⟨_, h.trans (issued_next _ hp), hF ▸ aPut_takes s o f⟩
theorem givesQ_aPutQ {s : State} {i : Instr} {o : AOp} {f : Nat → Quad} {F : State → State}
    (h : exec i s = s.issued i F) (hF : F s = s.aPutQ o f) : s.GivesQ i o f :=
  fun hp => ⟨_, h.trans (issued_next _ hp), hF ▸ aPutQ_takes s o f⟩

end Sys2Proof.Machine.State
end

