-- ==== Sys2Proof/Laws/PerInstr.lean ====
section
/-! SUPPORT. One lemma per constructor of Instr: how many bytes its encoding has (17 R315, R328, R329). -/

namespace Sys2Proof.Laws

/-- A bundle or a stream word has eight bytes, a traversal word four, an event none. -/
def WordBytes.Statement (i : Instr) : Prop :=
  (encode i).length = if i.isEvent then 0 else if (encodeT i).isSome then 4 else 8


theorem WordBytes.nop : WordBytes.Statement (.nop) := rfl
theorem WordBytes.imm {x0} : WordBytes.Statement (.imm x0) := rfl
theorem WordBytes.sarg {x0} : WordBytes.Statement (.sarg x0) := rfl
theorem WordBytes.bra {x0} {x1} {x2} {x3} : WordBytes.Statement (.bra x0 x1 x2 x3) := rfl
theorem WordBytes.brc {x0} {x1} {x2} {x3} : WordBytes.Statement (.brc x0 x1 x2 x3) := rfl
theorem WordBytes.brx {x0} : WordBytes.Statement (.brx x0) := rfl
theorem WordBytes.call {x0} {x1} {x2} : WordBytes.Statement (.call x0 x1 x2) := rfl
theorem WordBytes.ret {x0} : WordBytes.Statement (.ret x0) := rfl
theorem WordBytes.jset {x0} : WordBytes.Statement (.jset x0) := rfl
theorem WordBytes.join {x0} : WordBytes.Statement (.join x0) := rfl
theorem WordBytes.exit : WordBytes.Statement (.exit) := rfl
theorem WordBytes.rep {x0} {x1} {x2} {x3} : WordBytes.Statement (.rep x0 x1 x2 x3) := rfl
theorem WordBytes.trap {x0} : WordBytes.Statement (.trap x0) := rfl
theorem WordBytes.bkpt : WordBytes.Statement (.bkpt) := rfl
theorem WordBytes.eret : WordBytes.Statement (.eret) := rfl
theorem WordBytes.fence {x0} : WordBytes.Statement (.fence x0) := rfl
theorem WordBytes.sMov {x0} {x1} : WordBytes.Statement (.sMov x0 x1) := rfl
theorem WordBytes.sLi {x0} {x1} {x2} {x3} : WordBytes.Statement (.sLi x0 x1 x2 x3) := rfl
theorem WordBytes.sAdd {x0} {x1} {x2} : WordBytes.Statement (.sAdd x0 x1 x2) := rfl
theorem WordBytes.sSub {x0} {x1} {x2} : WordBytes.Statement (.sSub x0 x1 x2) := rfl
theorem WordBytes.sMul {x0} {x1} {x2} : WordBytes.Statement (.sMul x0 x1 x2) := rfl
theorem WordBytes.sAnd {x0} {x1} {x2} : WordBytes.Statement (.sAnd x0 x1 x2) := rfl
theorem WordBytes.sOr {x0} {x1} {x2} : WordBytes.Statement (.sOr x0 x1 x2) := rfl
theorem WordBytes.sXor {x0} {x1} {x2} : WordBytes.Statement (.sXor x0 x1 x2) := rfl
theorem WordBytes.sShl {x0} {x1} {x2} : WordBytes.Statement (.sShl x0 x1 x2) := rfl
theorem WordBytes.sShr {x0} {x1} {x2} : WordBytes.Statement (.sShr x0 x1 x2) := rfl
theorem WordBytes.sSra {x0} {x1} {x2} : WordBytes.Statement (.sSra x0 x1 x2) := rfl
theorem WordBytes.sCmp {x0} {x1} {x2} {x3} : WordBytes.Statement (.sCmp x0 x1 x2 x3) := rfl
theorem WordBytes.sRsr {x0} {x1} : WordBytes.Statement (.sRsr x0 x1) := rfl
theorem WordBytes.sWsr {x0} {x1} : WordBytes.Statement (.sWsr x0 x1) := rfl
theorem WordBytes.sLd {x0} {x1} : WordBytes.Statement (.sLd x0 x1) := rfl
theorem WordBytes.vbc {x0} {x1} : WordBytes.Statement (.vbc x0 x1) := rfl
theorem WordBytes.sxv {x0} {x1} {x2} : WordBytes.Statement (.sxv x0 x1 x2) := rfl
theorem WordBytes.vote {x0} {x1} {x2} : WordBytes.Statement (.vote x0 x1 x2) := rfl
theorem WordBytes.barInit {x0} {x1} {x2} {x3} : WordBytes.Statement (.barInit x0 x1 x2 x3) := rfl
theorem WordBytes.barArv {x0} : WordBytes.Statement (.barArv x0) := rfl
theorem WordBytes.barWait {x0} {x1} : WordBytes.Statement (.barWait x0 x1) := rfl
theorem WordBytes.barArw {x0} : WordBytes.Statement (.barArw x0) := rfl
theorem WordBytes.barTx {x0} {x1} {x2} : WordBytes.Statement (.barTx x0 x1 x2) := rfl
theorem WordBytes.barRem {x0} {x1} : WordBytes.Statement (.barRem x0 x1) := rfl
theorem WordBytes.acInit {x0} : WordBytes.Statement (.acInit x0) := rfl
theorem WordBytes.acTake {x0} : WordBytes.Statement (.acTake x0) := rfl
theorem WordBytes.acGive {x0} : WordBytes.Statement (.acGive x0) := rfl
theorem WordBytes.acRead {x0} : WordBytes.Statement (.acRead x0) := rfl
theorem WordBytes.acDrop {x0} : WordBytes.Statement (.acDrop x0) := rfl
theorem WordBytes.cpy {x0} : WordBytes.Statement (.cpy x0) := rfl
theorem WordBytes.cpyG {x0} {x1} : WordBytes.Statement (.cpyG x0 x1) := rfl
theorem WordBytes.cpyS {x0} {x1} : WordBytes.Statement (.cpyS x0 x1) := rfl
theorem WordBytes.sclCpy {x0} : WordBytes.Statement (.sclCpy x0) := rfl
theorem WordBytes.capBnd {x0} : WordBytes.Statement (.capBnd x0) := rfl
theorem WordBytes.capPrm {x0} : WordBytes.Statement (.capPrm x0) := rfl
theorem WordBytes.capOfs {x0} : WordBytes.Statement (.capOfs x0) := rfl
theorem WordBytes.capGet {x0} {x1} : WordBytes.Statement (.capGet x0 x1) := rfl
theorem WordBytes.capTst {x0} : WordBytes.Statement (.capTst x0) := rfl
theorem WordBytes.oclaim {x0} {x1} : WordBytes.Statement (.oclaim x0 x1) := rfl
theorem WordBytes.orel {x0} {x1} : WordBytes.Statement (.orel x0 x1) := rfl
theorem WordBytes.accLd {x0} {x1} {x2} {x3} : WordBytes.Statement (.accLd x0 x1 x2 x3) := rfl
theorem WordBytes.accSt {x0} {x1} {x2} {x3} : WordBytes.Statement (.accSt x0 x1 x2 x3) := rfl
theorem WordBytes.qlaunch {x0} : WordBytes.Statement (.qlaunch x0) := rfl
theorem WordBytes.qtake {x0} {x1} : WordBytes.Statement (.qtake x0 x1) := rfl
theorem WordBytes.selk {x0} : WordBytes.Statement (.selk x0) := rfl
theorem WordBytes.splat {x0} : WordBytes.Statement (.splat x0) := rfl
theorem WordBytes.inbox : WordBytes.Statement (.inbox) := rfl
theorem WordBytes.commit : WordBytes.Statement (.commit) := rfl
theorem WordBytes.jobpost {x0} {x1} : WordBytes.Statement (.jobpost x0 x1) := rfl
theorem WordBytes.ld {x0} {x1} : WordBytes.Statement (.ld x0 x1) := rfl
theorem WordBytes.ldInv {x0} {x1} : WordBytes.Statement (.ldInv x0 x1) := rfl
theorem WordBytes.st {x0} {x1} : WordBytes.Statement (.st x0 x1) := rfl
theorem WordBytes.ldc {x0} : WordBytes.Statement (.ldc x0) := rfl
theorem WordBytes.ldcSpair {x0} : WordBytes.Statement (.ldcSpair x0) := rfl
theorem WordBytes.stc {x0} : WordBytes.Statement (.stc x0) := rfl
theorem WordBytes.mwatch {x0} : WordBytes.Statement (.mwatch x0) := rfl
theorem WordBytes.mwait {x0} : WordBytes.Statement (.mwait x0) := rfl
theorem WordBytes.cacheCln {x0} : WordBytes.Statement (.cacheCln x0) := rfl
theorem WordBytes.cacheInv {x0} : WordBytes.Statement (.cacheInv x0) := rfl
theorem WordBytes.tlbInv {x0} {x1} : WordBytes.Statement (.tlbInv x0 x1) := rfl
theorem WordBytes.atom {x0} {x1} {x2} : WordBytes.Statement (.atom x0 x1 x2) := rfl
theorem WordBytes.red {x0} {x1} {x2} : WordBytes.Statement (.red x0 x1 x2) := rfl
theorem WordBytes.lds {x0} {x1} : WordBytes.Statement (.lds x0 x1) := rfl
theorem WordBytes.sts {x0} {x1} : WordBytes.Statement (.sts x0 x1) := rfl
theorem WordBytes.atoms {x0} {x1} : WordBytes.Statement (.atoms x0 x1) := rfl
theorem WordBytes.anop {x0} : WordBytes.Statement (.anop x0) := rfl
theorem WordBytes.iadd {x0} {x1} : WordBytes.Statement (.iadd x0 x1) := rfl
theorem WordBytes.isub {x0} {x1} : WordBytes.Statement (.isub x0 x1) := rfl
theorem WordBytes.imul {x0} {x1} : WordBytes.Statement (.imul x0 x1) := rfl
theorem WordBytes.imulh {x0} {x1} : WordBytes.Statement (.imulh x0 x1) := rfl
theorem WordBytes.imad {x0} : WordBytes.Statement (.imad x0) := rfl
theorem WordBytes.iabs {x0} : WordBytes.Statement (.iabs x0) := rfl
theorem WordBytes.iand {x0} : WordBytes.Statement (.iand x0) := rfl
theorem WordBytes.ior {x0} : WordBytes.Statement (.ior x0) := rfl
theorem WordBytes.ixor {x0} : WordBytes.Statement (.ixor x0) := rfl
theorem WordBytes.ishl {x0} {x1} : WordBytes.Statement (.ishl x0 x1) := rfl
theorem WordBytes.ishr {x0} {x1} : WordBytes.Statement (.ishr x0 x1) := rfl
theorem WordBytes.isra {x0} {x1} : WordBytes.Statement (.isra x0 x1) := rfl
theorem WordBytes.popc {x0} : WordBytes.Statement (.popc x0) := rfl
theorem WordBytes.clz {x0} : WordBytes.Statement (.clz x0) := rfl
theorem WordBytes.brev {x0} : WordBytes.Statement (.brev x0) := rfl
theorem WordBytes.imin {x0} {x1} : WordBytes.Statement (.imin x0 x1) := rfl
theorem WordBytes.imax {x0} {x1} : WordBytes.Statement (.imax x0 x1) := rfl
theorem WordBytes.isel {x0} {x1} : WordBytes.Statement (.isel x0 x1) := rfl
theorem WordBytes.icmp {x0} {x1} : WordBytes.Statement (.icmp x0 x1) := rfl
theorem WordBytes.fadd {x0} {x1} : WordBytes.Statement (.fadd x0 x1) := rfl
theorem WordBytes.fsub {x0} {x1} : WordBytes.Statement (.fsub x0 x1) := rfl
theorem WordBytes.fmul {x0} {x1} : WordBytes.Statement (.fmul x0 x1) := rfl
theorem WordBytes.ffma {x0} {x1} : WordBytes.Statement (.ffma x0 x1) := rfl
theorem WordBytes.fmin {x0} {x1} : WordBytes.Statement (.fmin x0 x1) := rfl
theorem WordBytes.fmax {x0} {x1} : WordBytes.Statement (.fmax x0 x1) := rfl
theorem WordBytes.fabs {x0} {x1} : WordBytes.Statement (.fabs x0 x1) := rfl
theorem WordBytes.fcls {x0} {x1} : WordBytes.Statement (.fcls x0 x1) := rfl
theorem WordBytes.frcp {x0} {x1} : WordBytes.Statement (.frcp x0 x1) := rfl
theorem WordBytes.frsq {x0} : WordBytes.Statement (.frsq x0) := rfl
theorem WordBytes.fsqrt {x0} {x1} : WordBytes.Statement (.fsqrt x0 x1) := rfl
theorem WordBytes.fex2 {x0} : WordBytes.Statement (.fex2 x0) := rfl
theorem WordBytes.flg2 {x0} : WordBytes.Statement (.flg2 x0) := rfl
theorem WordBytes.fsin {x0} : WordBytes.Statement (.fsin x0) := rfl
theorem WordBytes.fcos {x0} : WordBytes.Statement (.fcos x0) := rfl
theorem WordBytes.fcmp {x0} {x1} {x2} : WordBytes.Statement (.fcmp x0 x1 x2) := rfl
theorem WordBytes.cvt {x0} {x1} : WordBytes.Statement (.cvt x0 x1) := rfl
theorem WordBytes.packH {x0} : WordBytes.Statement (.packH x0) := rfl
theorem WordBytes.packBl {x0} : WordBytes.Statement (.packBl x0) := rfl
theorem WordBytes.packBh {x0} : WordBytes.Statement (.packBh x0) := rfl
theorem WordBytes.unpk {x0} : WordBytes.Statement (.unpk x0) := rfl
theorem WordBytes.dp4 {x0} : WordBytes.Statement (.dp4 x0) := rfl
theorem WordBytes.dp4U {x0} : WordBytes.Statement (.dp4U x0) := rfl
theorem WordBytes.dp4T8 {x0} : WordBytes.Statement (.dp4T8 x0) := rfl
theorem WordBytes.mov {x0} : WordBytes.Statement (.mov x0) := rfl
theorem WordBytes.shfl {x0} {x1} : WordBytes.Statement (.shfl x0 x1) := rfl
theorem WordBytes.qrot {x0} : WordBytes.Statement (.qrot x0) := rfl
theorem WordBytes.vsort {x0} {x1} : WordBytes.Statement (.vsort x0 x1) := rfl
theorem WordBytes.mxNop : WordBytes.Statement (.mxNop) := rfl
theorem WordBytes.mxZero {x0} {x1} {x2} : WordBytes.Statement (.mxZero x0 x1 x2) := rfl
theorem WordBytes.mxMma {x0} : WordBytes.Statement (.mxMma x0) := rfl
theorem WordBytes.mxRec {x0} {x1} {x2} {x3} {x4} {x5} : WordBytes.Statement (.mxRec x0 x1 x2 x3 x4 x5) := rfl
theorem WordBytes.mxProg {x0} : WordBytes.Statement (.mxProg x0) := rfl
theorem WordBytes.mxScl {x0} {x1} {x2} {x3} : WordBytes.Statement (.mxScl x0 x1 x2 x3) := rfl
theorem WordBytes.mxWait {x0} : WordBytes.Statement (.mxWait x0) := rfl
theorem WordBytes.mxArv {x0} : WordBytes.Statement (.mxArv x0) := rfl
theorem WordBytes.mxRel {x0} {x1} : WordBytes.Statement (.mxRel x0 x1) := rfl
theorem WordBytes.mxLoop {x0} {x1} {x2} {x3} : WordBytes.Statement (.mxLoop x0 x1 x2 x3) := rfl
theorem WordBytes.mxEnd : WordBytes.Statement (.mxEnd) := rfl
theorem WordBytes.nfetch {x0} : WordBytes.Statement (.nfetch x0) := rfl
theorem WordBytes.ndec {x0} {x1} : WordBytes.Statement (.ndec x0 x1) := rfl
theorem WordBytes.boxt : WordBytes.Statement (.boxt) := rfl
theorem WordBytes.trit {x0} : WordBytes.Statement (.trit x0) := rfl
theorem WordBytes.tritImm {x0} {x1} : WordBytes.Statement (.tritImm x0 x1) := rfl
theorem WordBytes.dist {x0} {x1} : WordBytes.Statement (.dist x0 x1) := rfl
theorem WordBytes.kcmp {x0} {x1} : WordBytes.Statement (.kcmp x0 x1) := rfl
theorem WordBytes.hit : WordBytes.Statement (.hit) := rfl
theorem WordBytes.push {x0} : WordBytes.Statement (.push x0) := rfl
theorem WordBytes.pushCl : WordBytes.Statement (.pushCl) := rfl
theorem WordBytes.pop {x0} : WordBytes.Statement (.pop x0) := rfl
theorem WordBytes.spill : WordBytes.Statement (.spill) := rfl
theorem WordBytes.fill : WordBytes.Statement (.fill) := rfl
theorem WordBytes.emit {x0} {x1} : WordBytes.Statement (.emit x0 x1) := rfl
theorem WordBytes.handoff : WordBytes.Statement (.handoff) := rfl
theorem WordBytes.brT {x0} {x1} {x2} : WordBytes.Statement (.brT x0 x1 x2) := rfl
theorem WordBytes.tMov {x0} {x1} : WordBytes.Statement (.tMov x0 x1) := rfl
theorem WordBytes.tMovImm {x0} {x1} : WordBytes.Statement (.tMovImm x0 x1) := rfl
theorem WordBytes.tAdd {x0} {x1} {x2} : WordBytes.Statement (.tAdd x0 x1 x2) := rfl
theorem WordBytes.tAddImm {x0} {x1} {x2} : WordBytes.Statement (.tAddImm x0 x1 x2) := rfl
theorem WordBytes.tLd {x0} {x1} {x2} : WordBytes.Statement (.tLd x0 x1 x2) := rfl
theorem WordBytes.tLdImm {x0} {x1} {x2} : WordBytes.Statement (.tLdImm x0 x1 x2) := rfl
theorem WordBytes.tEnd : WordBytes.Statement (.tEnd) := rfl
theorem WordBytes.tCmp {x0} {x1} {x2} {x3} : WordBytes.Statement (.tCmp x0 x1 x2 x3) := rfl
theorem WordBytes.tCmpImm {x0} {x1} {x2} {x3} : WordBytes.Statement (.tCmpImm x0 x1 x2 x3) := rfl
theorem WordBytes.perstDeassert {x0} : WordBytes.Statement (.perstDeassert x0) := rfl
theorem WordBytes.configRequest : WordBytes.Statement (.configRequest) := rfl
theorem WordBytes.bar2PostedWrite {x0} {x1} {x2} {x3} : WordBytes.Statement (.bar2PostedWrite x0 x1 x2 x3) := rfl
theorem WordBytes.bar2Read {x0} {x1} {x2} : WordBytes.Statement (.bar2Read x0 x1 x2) := rfl
theorem WordBytes.bar2AtomicOp {x0} {x1} {x2} {x3} {x4} : WordBytes.Statement (.bar2AtomicOp x0 x1 x2 x3 x4) := rfl
theorem WordBytes.registerWrite {x0} {x1} : WordBytes.Statement (.registerWrite x0 x1) := rfl
theorem WordBytes.peerRequest {x0} : WordBytes.Statement (.peerRequest x0) := rfl
theorem WordBytes.peerPortEvent {x0} {x1} : WordBytes.Statement (.peerPortEvent x0 x1) := rfl
theorem WordBytes.hbxQtailWrite {x0} {x1} {x2} : WordBytes.Statement (.hbxQtailWrite x0 x1 x2) := rfl
theorem WordBytes.tornClear {x0} : WordBytes.Statement (.tornClear x0) := rfl
theorem WordBytes.badentClear {x0} : WordBytes.Statement (.badentClear x0) := rfl
theorem WordBytes.suspend {x0} : WordBytes.Statement (.suspend x0) := rfl
theorem WordBytes.endCtx {x0} : WordBytes.Statement (.endCtx x0) := rfl
theorem WordBytes.resume {x0} : WordBytes.Statement (.resume x0) := rfl
theorem WordBytes.ctxctlComplete : WordBytes.Statement (.ctxctlComplete) := rfl
theorem WordBytes.fltHeadWrite {x0} : WordBytes.Statement (.fltHeadWrite x0) := rfl
theorem WordBytes.resolve {x0} {x1} : WordBytes.Statement (.resolve x0 x1) := rfl
theorem WordBytes.invalidation {x0} : WordBytes.Statement (.invalidation x0) := rfl
theorem WordBytes.invalidationComplete : WordBytes.Statement (.invalidationComplete) := rfl
theorem WordBytes.fltRfcountClear {x0} : WordBytes.Statement (.fltRfcountClear x0) := rfl
theorem WordBytes.ctxcreate : WordBytes.Statement (.ctxcreate) := rfl
theorem WordBytes.ctxdestroy : WordBytes.Statement (.ctxdestroy) := rfl
theorem WordBytes.memprot : WordBytes.Statement (.memprot) := rfl
theorem WordBytes.attest : WordBytes.Statement (.attest) := rfl
theorem WordBytes.fwstage : WordBytes.Statement (.fwstage) := rfl
theorem WordBytes.fwcommit : WordBytes.Statement (.fwcommit) := rfl
theorem WordBytes.fwabort : WordBytes.Statement (.fwabort) := rfl
theorem WordBytes.errlog : WordBytes.Statement (.errlog) := rfl
theorem WordBytes.ident : WordBytes.Statement (.ident) := rfl
theorem WordBytes.display {x0} : WordBytes.Statement (.display x0) := rfl
theorem WordBytes.mailboxComplete : WordBytes.Statement (.mailboxComplete) := rfl
theorem WordBytes.pwcBudgetWrite {x0} : WordBytes.Statement (.pwcBudgetWrite x0) := rfl
theorem WordBytes.pwcTjhotWrite {x0} : WordBytes.Statement (.pwcTjhotWrite x0) := rfl
theorem WordBytes.yield {x0} : WordBytes.Statement (.yield x0) := rfl
theorem WordBytes.swapOut {x0} : WordBytes.Statement (.swapOut x0) := rfl
theorem WordBytes.swapSave {x0} : WordBytes.Statement (.swapSave x0) := rfl
theorem WordBytes.noframeRetest {x0} : WordBytes.Statement (.noframeRetest x0) := rfl
theorem WordBytes.readmission {x0} : WordBytes.Statement (.readmission x0) := rfl
theorem WordBytes.deckleAdjust {x0} {x1} : WordBytes.Statement (.deckleAdjust x0 x1) := rfl
theorem WordBytes.clockGate {x0} {x1} : WordBytes.Statement (.clockGate x0 x1) := rfl
theorem WordBytes.powerGate {x0} {x1} : WordBytes.Statement (.powerGate x0 x1) := rfl
theorem WordBytes.ungate {x0} {x1} : WordBytes.Statement (.ungate x0 x1) := rfl
theorem WordBytes.hang {x0} : WordBytes.Statement (.hang x0) := rfl
theorem WordBytes.lostJoinRelease {x0} : WordBytes.Statement (.lostJoinRelease x0) := rfl
theorem WordBytes.watchReread {x0} : WordBytes.Statement (.watchReread x0) := rfl
theorem WordBytes.timeout {x0} : WordBytes.Statement (.timeout x0) := rfl
theorem WordBytes.monitorReread {x0} {x1} : WordBytes.Statement (.monitorReread x0 x1) := rfl
theorem WordBytes.subqueryLost {x0} {x1} : WordBytes.Statement (.subqueryLost x0 x1) := rfl
theorem WordBytes.cardReread {x0} : WordBytes.Statement (.cardReread x0) := rfl
theorem WordBytes.thermalTrip {x0} : WordBytes.Statement (.thermalTrip x0) := rfl
theorem WordBytes.thermalTripExit {x0} : WordBytes.Statement (.thermalTripExit x0) := rfl
theorem WordBytes.thermal {x0} : WordBytes.Statement (.thermal x0) := rfl
theorem WordBytes.dispatchStep : WordBytes.Statement (.dispatchStep) := rfl
theorem WordBytes.tokenGrant : WordBytes.Statement (.tokenGrant) := rfl
theorem WordBytes.cardFetch {x0} : WordBytes.Statement (.cardFetch x0) := rfl
theorem WordBytes.signal {x0} : WordBytes.Statement (.signal x0) := rfl
theorem WordBytes.chain {x0} : WordBytes.Statement (.chain x0) := rfl
theorem WordBytes.copy {x0} : WordBytes.Statement (.copy x0) := rfl
theorem WordBytes.watch {x0} : WordBytes.Statement (.watch x0) := rfl
theorem WordBytes.task {x0} : WordBytes.Statement (.task x0) := rfl
theorem WordBytes.taskPost {x0} : WordBytes.Statement (.taskPost x0) := rfl
theorem WordBytes.cardComplete {x0} : WordBytes.Statement (.cardComplete x0) := rfl
theorem WordBytes.retirement {x0} : WordBytes.Statement (.retirement x0) := rfl
theorem WordBytes.segmentDelivery {x0} : WordBytes.Statement (.segmentDelivery x0) := rfl
theorem WordBytes.fixupReplay {x0} : WordBytes.Statement (.fixupReplay x0) := rfl
theorem WordBytes.faultRecord : WordBytes.Statement (.faultRecord) := rfl
theorem WordBytes.replay {x0} {x1} : WordBytes.Statement (.replay x0 x1) := rfl
theorem WordBytes.pageWalk {x0} {x1} {x2} : WordBytes.Statement (.pageWalk x0 x1 x2) := rfl
theorem WordBytes.readRequest {x0} {x1} : WordBytes.Statement (.readRequest x0 x1) := rfl
theorem WordBytes.ownRequest {x0} {x1} {x2} : WordBytes.Statement (.ownRequest x0 x1 x2) := rfl
theorem WordBytes.fillRequest {x0} {x1} : WordBytes.Statement (.fillRequest x0 x1) := rfl
theorem WordBytes.invalidationReceipt {x0} {x1} : WordBytes.Statement (.invalidationReceipt x0 x1) := rfl
theorem WordBytes.acknowledgement {x0} {x1} : WordBytes.Statement (.acknowledgement x0 x1) := rfl
theorem WordBytes.ownCompletion {x0} : WordBytes.Statement (.ownCompletion x0) := rfl
theorem WordBytes.recallLine {x0} : WordBytes.Statement (.recallLine x0) := rfl
theorem WordBytes.writeBack {x0} : WordBytes.Statement (.writeBack x0) := rfl
theorem WordBytes.evictionNotice {x0} {x1} : WordBytes.Statement (.evictionNotice x0 x1) := rfl
theorem WordBytes.farReductionAccept {x0} : WordBytes.Statement (.farReductionAccept x0) := rfl
theorem WordBytes.farReductionApply {x0} : WordBytes.Statement (.farReductionApply x0) := rfl
theorem WordBytes.homeTake {x0} : WordBytes.Statement (.homeTake x0) := rfl
theorem WordBytes.homeGive {x0} : WordBytes.Statement (.homeGive x0) := rfl
theorem WordBytes.recallResponse {x0} : WordBytes.Statement (.recallResponse x0) := rfl
theorem WordBytes.ssuCommandStart {x0} : WordBytes.Statement (.ssuCommandStart x0) := rfl
theorem WordBytes.ssuComplete {x0} : WordBytes.Statement (.ssuComplete x0) := rfl
theorem WordBytes.queryStart {x0} {x1} : WordBytes.Statement (.queryStart x0 x1) := rfl
theorem WordBytes.nodeCacheFill {x0} {x1} : WordBytes.Statement (.nodeCacheFill x0 x1) := rfl
theorem WordBytes.subqueryReceive {x0} {x1} {x2} {x3} : WordBytes.Statement (.subqueryReceive x0 x1 x2 x3) := rfl
theorem WordBytes.subqueryResult {x0} {x1} {x2} : WordBytes.Statement (.subqueryResult x0 x1 x2) := rfl
theorem WordBytes.streamFetch {x0} : WordBytes.Statement (.streamFetch x0) := rfl
theorem WordBytes.firmwareError : WordBytes.Statement (.firmwareError) := rfl
theorem WordBytes.verticalBlank {x0} : WordBytes.Statement (.verticalBlank x0) := rfl
theorem WordBytes.jobpostResume {x0} {x1} : WordBytes.Statement (.jobpostResume x0 x1) := rfl
theorem WordBytes.perstAssert : WordBytes.Statement (.perstAssert) := rfl
theorem WordBytes.hostCompletion {x0} : WordBytes.Statement (.hostCompletion x0) := rfl
theorem WordBytes.peerResponse {x0} {x1} : WordBytes.Statement (.peerResponse x0 x1) := rfl

end Sys2Proof.Laws
end

