-- ==== Sys2Proof/Laws/Xlate.lean ====
section
/-! SUPPORT. Translation through a TLB entry that is already there (09 R185, R186). -/

namespace Sys2Proof.Machine.State

/-- A cached translation answers at once, and the TLBs stay as they are. -/
theorem translate_cached {s : State} {acc : Acc} {c ctx va : Nat} {x : Tlb}
    (hx : findTlb (Tbl.get [] s.l1tlb c) ctx va = some x) (hp : x.permits acc = true) (hf : s.fwRefused ctx x va = false) :
    s.translate (some c) ctx va acc = (.ok x.tgt (Tlb.pa x va), s) := by
  simp [translate, hx, hf, hp]

end Sys2Proof.Machine.State
end

