-- ==== Sys2Proof/Tests/Slice0.lean ====
section
/-! SUPPORT. Tests: ill-formed terms refused, words decoded from the encodings of the spec, values from its examples,
and for each statement with hypotheses states and operands that meet them. -/

namespace Sys2Proof.Tests

/-! One thread for all the evaluations by the kernel. -/
set_option Elab.async false

open Machine

/-! ### Well-formedness -/

/-- An A-word of v1, v2, v3. -/
def a123 : AOp := { dst := 1, srcA := 2, srcB := 3, pred := 0, mm := false, nwb := false }
def vm0 : VmOp := { ord := 0, scope := 0, data := 4, sel := 0, off := 1, ext := none }
def sp0 : SpOp := { ord := 0, peer := false, rank := 0, data := 4, sel := 0, off := 1, scope := 0, ext := none }
def sm0 : SmOp := { ord := 0, scope := 0, sd := 4, sel := 2, so := 6, ext := none }
def da0 : DaOp := { sel := 0, off := 1, ext := none }
def ac0 : AcOp := { sel := 0, sn := 0, sd := 2, wt := false, ext := none }
def cap0 : CapOp := { dk := false, d := 2, sk := false, src := 0, v := 8 }

/-- R317: vector fields end at 119, group-scalar fields at 23. -/
theorem test_wf_registers :
    (Instr.brx 120).wf = false ∧ (Instr.ret 120).wf = false ∧ (Instr.sMov 24 0).wf = false ∧ (Instr.sarg 24).wf = false ∧
      (Instr.vbc 119 23).wf = true := by decide
/-- R132, R134: scopes end at 4, RLX without ORD has scope 0, and each family has its ORD values. -/
theorem test_wf_orders :
    (Instr.ld .w { vm0 with ord := 1, scope := 5 }).wf = false ∧ (Instr.ld .w { vm0 with scope := 1 }).wf = false ∧
      (Instr.ld .w { vm0 with ord := 2 }).wf = false ∧ (Instr.st .w { vm0 with ord := 1 }).wf = false ∧
      (Instr.ldInv .w { vm0 with ord := 1 }).wf = false ∧ (Instr.red .add false { vm0 with ord := 3 }).wf = false ∧
      (Instr.fence 5).wf = false ∧ (Instr.sLd 0 { sm0 with ord := 2 }).wf = false ∧
      (Instr.atom .add false { vm0 with ord := 3, scope := 4 }).wf = true := by decide
/-- Operand records: data register, quads, offsets, PEER and rank. -/
theorem test_wf_memory :
    (Instr.ld .w { vm0 with data := 120 }).wf = false ∧ (Instr.ldc { vm0 with data := 5 }).wf = false ∧
      (Instr.lds .w { sp0 with rank := 1 }).wf = false ∧ (Instr.sts .w { sp0 with ord := 1 }).wf = false ∧
      (Instr.red .cas false vm0).wf = false ∧ (Instr.red .xchg false vm0).wf = false ∧
      (Instr.selk { da0 with off := 120 }).wf = false ∧ (Instr.sLd 4 sm0).wf = false ∧
      (Instr.ldcSpair { sm0 with sd := 5 }).wf = false ∧ (Instr.tlbInv 0 24).wf = false ∧
      (Instr.ld .w { vm0 with sel := 32 }).wf = false ∧ (Instr.ld .w { vm0 with off := 64 }).wf = false := by decide
/-- Control words. -/
theorem test_wf_control :
    (Instr.bra 3 0 0 none).wf = false ∧ (Instr.bra 0 1 0 none).wf = false ∧ (Instr.bra 1 1 1 (some 0)).wf = false ∧
      (Instr.brc false 0 0 none).wf = false ∧ (Instr.call 120 0 none).wf = false ∧ (Instr.jset 8).wf = false ∧
      (Instr.join 8).wf = false ∧ (Instr.rep 256 0 0 0).wf = false ∧ (Instr.rep 0 8 0 0).wf = false ∧
      (Instr.rep 0 0 32 0).wf = false ∧ (Instr.rep 0 0 0 120).wf = false ∧ (Instr.rep 255 7 31 119).wf = true := by decide
/-- Scalar words and special registers (Table 4.7). -/
theorem test_wf_scalar :
    (Instr.sAdd 0 0 (.reg 24)).wf = false ∧ (Instr.sCmp 0 0 (.reg 24) .eq).wf = false ∧
      (Instr.sLi 0 true 0 none).wf = false ∧ (Instr.sLi 0 false 1 (some 0)).wf = false ∧ (Instr.sRsr 0 14).wf = false ∧
      (Instr.sRsr 1 0x0C).wf = false ∧ (Instr.sWsr 0x09 (.imm 0)).wf = false ∧ (Instr.sWsr 0x06 (.reg 24 0)).wf = false ∧
      (Instr.sxv 0 0 32).wf = false ∧ (Instr.vote .any 0 120).wf = false ∧ (Instr.vbc 0 24).wf = false := by decide
/-- Barriers, counters, copies and capabilities. -/
theorem test_wf_fields :
    (Instr.barInit 64 1 31 none).wf = false ∧ (Instr.barInit 0 0 31 none).wf = false ∧
      (Instr.barInit 0 4096 31 none).wf = false ∧ (Instr.barInit 0 1 24 none).wf = false ∧
      (Instr.barInit 0 1 3 (some 0)).wf = false ∧ (Instr.barTx 64 31 none).wf = false ∧ (Instr.barRem 0 4).wf = false ∧
      (Instr.barArv 64).wf = false ∧ (Instr.acInit { ac0 with sn := 1 }).wf = false ∧
      (Instr.acTake { ac0 with sn := 31 }).wf = false ∧ (Instr.acGive { ac0 with wt := true }).wf = false ∧
      (Instr.acRead { ac0 with sn := 31, sd := 31 }).wf = false ∧ (Instr.acDrop { ac0 with sn := 0 }).wf = false ∧
      (Instr.cpy 3).wf = false ∧ (Instr.cpyG 0 124).wf = false ∧ (Instr.cpyS 0 125).wf = false ∧
      (Instr.capBnd { cap0 with d := 30 }).wf = false ∧ (Instr.capBnd { cap0 with dk := true, d := 12 }).wf = false ∧
      (Instr.capOfs { cap0 with v := 121 }).wf = false ∧ (Instr.capGet { cap0 with d := 0 } 6).wf = false ∧
      (Instr.capTst { cap0 with d := 1 }).wf = false ∧ (Instr.capTst { cap0 with d := 0, dk := true, v := 9 }).wf = false :=
  by decide
/-- Matrix, engine and task words. -/
theorem test_wf_engines :
    (Instr.oclaim 32 0).wf = false ∧ (Instr.orel 0 32).wf = false ∧ (Instr.accLd 0 0 2048 false).wf = false ∧
      (Instr.accSt 0 0 4096 true).wf = false ∧ (Instr.qtake 113 0).wf = false ∧ (Instr.qtake 9 0).wf = false ∧ (Instr.qtake 0 4).wf = false ∧
      (Instr.jobpost 32 da0).wf = false ∧ (Instr.mxZero 128 0 0).wf = false ∧ (Instr.mxScl 0 8 0 0).wf = false ∧
      (Instr.mxWait 64).wf = false ∧ (Instr.mxRel 0 0).wf = false ∧ (Instr.mxRel 0 33).wf = false ∧
      (Instr.mxLoop 0 0 0 0).wf = false ∧ (Instr.mxRec 0 32 0 0 0 0).wf = false := by decide
/-- R403: OP 7, DST 3, an S that is not SELGT's, and an operation after NONE. R214: CA without SA. -/
theorem test_wf_microprogram :
    (Instr.mxProg (BitVec.ofNat 56 (7 * 2 ^ 11))).wf = false ∧ (Instr.mxProg (BitVec.ofNat 56 (1 * 2 ^ 11 + 3 * 2 ^ 9))).wf = false ∧
      (Instr.mxProg (BitVec.ofNat 56 (1 * 2 ^ 11 + 1))).wf = false ∧ (Instr.mxProg (BitVec.ofNat 56 (2 ^ (14 + 11)))).wf = false ∧
      (Instr.mxMma { t := 0, pa := 0, swa := 0, pb := 0, swb := 0, s := 0, sa := false, ca := 1, sb := false, cb := 0 }).wf
        = false := by decide
/-- A-words: an unused source, odd latches as pairs, latches that are read, predicates, selectors. -/
theorem test_wf_awords :
    (Instr.iabs a123).wf = false ∧ (Instr.iadd true { a123 with dst := 121 }).wf = false ∧
      (Instr.iadd true { a123 with srcA := 123 }).wf = false ∧ (Instr.imad { a123 with dst := 120 }).wf = false ∧
      (Instr.iadd false { a123 with dst := 124 }).wf = false ∧ (Instr.iadd false { a123 with srcA := 128 }).wf = false ∧
      (Instr.iadd false { a123 with pred := 4 }).wf = false ∧ (Instr.isel 0 a123).wf = false ∧
      (Instr.vsort .u { a123 with dst := 120 }).wf = false ∧ (Instr.unpk { a123 with srcB := 12 }).wf = false ∧
      (Instr.cvt .fp32 { a123 with srcB := 0 }).wf = false ∧ (Instr.cvt .fp32 { a123 with srcB := 11 }).wf = false ∧
      (Instr.anop 4).wf = false ∧ (Instr.iadd false { a123 with dst := 123 }).wf = true := by decide
/-- Traversal words and events. -/
theorem test_wf_traversal :
    (Instr.nfetch 16).wf = false ∧ (Instr.push 1).wf = false ∧ (Instr.pop 3).wf = false ∧ (Instr.emit 0 2).wf = false ∧
      (Instr.brT .al 1 0).wf = false ∧ (Instr.brT .nz 1 0).wf = true ∧ (Instr.tAdd 16 0 0).wf = false ∧
      (Instr.peerPortEvent 2 true).wf = false ∧ (Instr.tornClear 32).wf = false ∧ (Instr.clockGate 152 0).wf = false ∧
      (Instr.replay 0 4).wf = false ∧ (Instr.pageWalk 0 0 (2 ^ 57)).wf = false ∧ (Instr.readRequest 190 0).wf = false ∧
      (Instr.ssuComplete 38).wf = false ∧ (Instr.queryStart 0 64).wf = false ∧ (Instr.verticalBlank 4).wf = false := by decide

/-! ### Words of the reference chapters' examples and of the encoding tables -/

theorem test_decode_control :
    decodeC 0x01C2FFFF 0 = .ok (.bra 2 2 0xFFFF none) ∧ decodeC 0x02600003 0 = .ok (.brc true 2 3 none) ∧
      decodeC 0x02870000 0 = .ok (.brx 7) ∧ decodeC 0x030A0004 0 = .ok (.call 10 4 none) ∧
      decodeC 0x038A0000 0 = .ok (.ret 10) ∧ decodeC 0x04300000 0 = .ok (.jset 3) ∧
      decodeC 0x05811208 0 = .ok (.rep 2 1 4 8) ∧ decodeC 0x05FFF000 0 = .ok (.rep 255 7 0 0) ∧
      decodeC 0x06000012 0 = .ok (.trap 0x12) ∧ decodeC 0x06800000 0 = .ok .bkpt ∧
      decodeC 0x01140000 0 = .ok (.sarg 5) := by decide
theorem test_decode_scalar :
    decodeC 0x090C9005 0 = .ok (.sAdd 3 4 (.imm 5)) ∧ decodeC 0x0D88A302 0 = .ok (.sCmp 2 5 (.reg 6) .lt) ∧
      decodeC 0x089DFFFF 0 = .ok (.sLi 7 false 0x1FFFF none) ∧ decodeC 0x0E080006 0 = .ok (.sRsr 2 6) ∧
      decodeC 0x8E82000A 0x10002048 = .ok (.sWsr 0x0A (.ext 0x10002048)) ∧
      decodeC 0x2E008133 0 = .ok (.sLd 3 { ord := 0, scope := 0, sd := 4, sel := 1, so := 6, ext := none }) ∧
      decodeC 0x2E008134 0 = .ok (.ldcSpair { ord := 0, scope := 0, sd := 4, sel := 1, so := 6, ext := none }) ∧
      decodeC 0x0F891940 0 = .ok (.sxv 3 9 5) ∧ decodeC 0x0F041800 0 = .ok (.vbc 4 3) ∧
      decodeC 0x10751020 0 = .ok (.vote .ballot 2 117) := by decide
theorem test_decode_barrier :
    decodeC 0x9082003F 0x4000 = .ok (.barInit 1 1 31 (some 0x4000)) ∧ decodeC 0x1102001F 0 = .ok (.barArv 1) ∧
      decodeC 0x1184041F 0 = .ok (.barWait 2 true) ∧ decodeC 0x1302081F 0 = .ok (.barRem 1 2) := by decide
theorem test_decode_copies_and_counters :
    decodeC 0x163F0000 0 = .ok (.cpy 1) ∧
      decodeC 0x140F0580 0 = .ok (.acTake { sel := 3, sn := 24, sd := 5, wt := true, ext := none }) := by decide
theorem test_decode_capability :
    decodeC 0x18040080 0 = .ok (.capBnd { dk := false, d := 2, sk := false, src := 0, v := 8 }) ∧
      decodeC 0x18450180 0 = .ok (.capBnd { dk := true, d := 2, sk := true, src := 0, v := 24 }) := by decide
theorem test_decode_engines :
    decodeC 0x1A802000 0 = .ok (.oclaim 0 1) ∧ decodeC 0x1B002000 0 = .ok (.orel 0 1) ∧
      decodeC 0x1B881805 0 = .ok (.accLd 8 3 5 false) ∧
      decodeC 0x1C81C0C0 0 = .ok (.qlaunch { sel := 14, off := 3, ext := none }) ∧ decodeC 0x1D108000 0 = .ok (.qtake 16 2) ∧
      decodeC 0x1D805F00 0 = .ok (.selk { sel := 2, off := 124, ext := none }) ∧
      decodeC 0x1E005F00 0 = .ok (.splat { sel := 2, off := 124, ext := none }) ∧
      decodeC 0x1F942180 0 = .ok (.jobpost 5 { sel := 1, off := 6, ext := none }) ∧
      decodeC 0x2F886000 0 = .ok (.tlbInv 2 3) := by decide
theorem test_decode_memory :
    decodeC 0x222C2041 0 = .ok (.ld .w { ord := 1, scope := 3, data := 4, sel := 1, off := 1, ext := none }) ∧
      decodeC 0x26804302 0 = .ok (.ldInv .q { ord := 0, scope := 0, data := 8, sel := 12, off := 2, ext := none }) ∧
      decodeC 0x2A000800 0 = .ok (.st .w { ord := 0, scope := 0, data := 1, sel := 0, off := 0, ext := none }) ∧
      decodeC 0x2C284081 0 = .ok (.ldc { ord := 1, scope := 2, data := 8, sel := 2, off := 1, ext := none }) ∧
      decodeC 0x2C806342 0 = .ok (.stc { ord := 0, scope := 0, data := 12, sel := 13, off := 2, ext := none }) ∧
      decodeC 0x306C23C9 0 = .ok (.atom .add false { ord := 3, scope := 3, data := 4, sel := 15, off := 9, ext := none }) ∧
      decodeC 0x404C23C9 0 = .ok (.red .add false { ord := 2, scope := 3, data := 4, sel := 15, off := 9, ext := none }) := by
  decide
theorem test_decode_scratchpad :
    decodeC 0x5E00E210 0 =
        .ok (.sts .w { ord := 0, peer := false, rank := 0, data := 7, sel := 2, off := 2, scope := 0, ext := none }) ∧
      decodeC 0xDE60E210 0x40 =
        .ok (.sts .w { ord := 0, peer := true, rank := 2, data := 7, sel := 2, off := 2, scope := 0, ext := some 0x40 }) ∧
      decodeC 0x65D0C212 0 =
        .ok (.atoms .add { ord := 3, peer := true, rank := 1, data := 6, sel := 2, off := 2, scope := 2, ext := none }) := by
  decide
theorem test_decode_awords :
    decodeA 0x2A141030 = .ok (.isel 1 { a123 with dst := 5 }) ∧
      decodeA 0x75D81840 = .ok (.fcmp .lt false { a123 with dst := 118, srcA := 3, srcB := 4 }) ∧
      decodeA 0x56100820 = .ok (.ffma false { a123 with dst := 4, srcA := 1, srcB := 2 }) ∧
      decodeA 0xC60C0820 = .ok (.packH { a123 with dst := 3, srcA := 1, srcB := 2 }) ∧
      decodeA 0xE4201030 = .ok (.vsort .f { a123 with dst := 8 }) ∧
      decodeA 0xCC142060 = .ok (.unpk { a123 with dst := 5, srcA := 4, srcB := 6 }) ∧
      decodeA 0xB60C1000 = .ok (.cvt .t8 { a123 with dst := 3, srcA := 2, srcB := 0 }) ∧
      decodeA 0xD2180820 = .ok (.dp4T8 { a123 with dst := 6, srcA := 1, srcB := 2 }) ∧
      decodeA 0xDE141030 = .ok (.qrot { a123 with dst := 5 }) ∧
      decodeA 0xD40C3FC0 = .ok (.mov { a123 with dst := 3, srcA := 7, srcB := 124 }) := by decide
theorem test_decode_stream :
    decodeMx 0x2001000000000000 = .ok (.mxRel 0 2) ∧ decodeMx 0x0461B00000000000 = .ok (.mxZero 12 1 11) ∧
      decodeMx 0x08000822C0000000 = .ok (.mxMma
        { t := 0, pa := 0, swa := 2, pb := 1, swb := 1, s := 3, sa := false, ca := 0, sb := false, cb := 0 }) ∧
      decodeMx 0x08688CA1E0810800 = .ok (.mxMma
        { t := 13, pa := 2, swa := 3, pb := 5, swb := 0, s := 7, sa := true, ca := 64, sb := true, cb := 128 }) ∧
      decodeMx 0x24000417FFFF4000 = .ok (.mxLoop 0 4 2 0x1FFFFD) ∧ decodeMx 0x100000000A381A50 = .ok (.mxProg 0x0A381A50) ∧
      decodeMx 0x1C20000000000000 = .ok (.mxArv 2) ∧ decodeMx 0x1810000000000000 = .ok (.mxWait 1) ∧
      decodeMx 0x2800000000000000 = .ok .mxEnd := by decide
theorem test_decode_traversal :
    decodeT 0x3903FFFB = .ok (.brT .ste 0 0x3FFFB) ∧ decodeT 0x0808C000 = .ok (.ndec 2 3) ∧
      decodeT 0x19140000 = .ok (.kcmp 4 5) ∧ decodeT 0x41110000 = .ok (.tAdd 4 4 4) ∧ decodeT 0x41102001 = .ok (.tAddImm 4 4 1) ∧
      decodeT 0x68D14000 = .ok (.tCmp .lt 3 4 5) ∧ decodeT 0x45502000 = .ok (.tLdImm 5 4 0) ∧
      decodeT 0x20180000 = .ok (.push 6) ∧ decodeT 0x20002000 = .ok .pushCl ∧ decodeT 0x24800000 = .ok (.pop 2) ∧
      decodeT 0x100C0000 = .ok (.trit 3) ∧ decodeT 0x100C2030 = .ok (.tritImm 3 48) ∧ decodeT 0x04140000 = .ok (.nfetch 5) := by
  decide
/-- Reserved opcodes and bits: LONE on a word that does not take it, code 126 without SARG. -/
theorem test_decode_refuses :
    decodeC 0x80000000 0 = .error .loneNotAccepted ∧ decodeC 0x00000001 0 = .error .reservedBits ∧
      decodeC 0x2B800000 0 = .error .reservedOpcode ∧ decodeA (0x37 * 2 ^ 25) = .error .reservedOpcode ∧
      decodeBundle 0 0x020C3FE0 = .error .noCarrier ∧
      decodeBundle 0x01140000 0x020C3FE0 = .ok { c := .sarg 5, a := some (.iadd false { a123 with dst := 3, srcA := 7, srcB := 126 }) } ∧
      decodeTableWord 32 0x20000000 = some (.push 0) := by decide

/-! ### Values of the spec's examples -/

/-- A group of one running lane on core 0 of context 1, past its checks, with lane 0 enabled. -/
def one (vregs : Tbl VCell) (sregs : Tbl Quad) : State :=
  { State.reset with
    ctxs := [(1, { exist := true, tvec := 0x4000 })],
    blks := [(1, { phase := .resident, gangIds := [1], ctx := 1, card := 1, desc := { nreg := 15, scr := 1, nbar := 64 } })],
    grps := [(32, { vregs, sregs, slots := [(0, { occ := true, run := 1 })] })],
    issue := { gid := 32, active := 1, checked := true } }
/-- v1, v2, v3, v4 of lane 0. -/
def regs (a b c d : Word) : State := one [(32, { val := a }), (64, { val := b }), (96, { val := c }), (128, { val := d })] []
/-- A field of the next state. -/
def after {α : Type} (r : Res) (f : State → α) : Option α :=
  match r with
  | .next t => some (f t)
  | _ => none
/-- Register `r` of lane 0 after the word. -/
def v (i : Instr) (s : State) (r : Nat) : Option Word := after (exec i s) fun t => (t.vcell 32 r 0).val
/-- s-register `k` after the word. -/
def sAfter (i : Instr) (s : State) (k : Nat) : Option Quad := after (exec i s) fun t => t.sreg k
def o4 : AOp := { dst := 4, srcA := 1, srcB := 2, pred := 0, mm := false, nwb := false }
def o4One : AOp := { o4 with srcB := 124 }

/-- 19 R382's example. -/
theorem test_imulh :
    v (.imulh false o4) (regs 0x80000000 2 0 0) 4 = some 0xFFFFFFFF ∧ v (.imulh true o4) (regs 0x80000000 2 0 0) 4 = some 1 ∧
      v (.imul false o4) (regs 0x80000000 2 0 0) 4 = some 0 ∧ v (.iabs o4One) (regs 0x80000000 0 0 0) 4 = some 0x80000000 := by
  decide +kernel
/-- 18 R355, 20 R416: counts; a shift by 32 leaves nothing, an arithmetic one the sign. -/
theorem test_counts_and_shifts :
    v (.clz o4One) (regs 0 0 0 0) 4 = some 32 ∧ v (.popc o4One) (regs 0x00FFFF00 0 0 0) 4 = some 16 ∧
      v (.brev o4One) (regs 1 0 0 0) 4 = some 0x80000000 ∧ v (.ishl false o4) (regs 1 32 0 0) 4 = some 0 ∧
      v (.isra false o4) (regs 0x80000000 40 0 0) 4 = some 0xFFFFFFFF := by decide +kernel
/-- 19 R372's example: FFMA rounds once, FMUL rounds the product to 1. -/
theorem test_ffma :
    v (.ffma false o4) (regs 0x3F800001 0x3F7FFFFF 0 0xBF800000) 4 = some 0x337FFFFE ∧
      v (.fmul false o4) (regs 0x3F800001 0x3F7FFFFF 0 0) 4 = some 0x3F800000 := by decide +kernel
/-- 20 R414's example. -/
theorem test_pack :
    v (.packH o4) (regs 0xAB 0xCD 0 0x12345678) 4 = some 0x00CD00AB ∧
      v (.packBl o4) (regs 0xAB 0xCD 0 0x12345678) 4 = some 0x1234CDAB ∧
      v (.packBh o4) (regs 0xAB 0xCD 0 0x12345678) 4 = some 0xCDAB5678 := by decide +kernel
/-- 20 R447's table. -/
theorem test_unpk :
    v (.unpk { o4 with srcB := 6 }) (regs 0x80FF7F01 0 0 0) 4 = some 0xFFFFFFFF ∧
      v (.unpk { o4 with srcB := 2 }) (regs 0x80FF7F01 0 0 0) 4 = some 0xFF ∧
      v (.unpk { o4 with srcB := 7 }) (regs 0x80FF7F01 0 0 0) 4 = some 0xFFFFFF80 ∧
      v (.unpk { o4 with srcB := 9 }) (regs 0x80FF7F01 0 0 0) 4 = some 0x80FF ∧
      v (.unpk { o4 with srcB := 11 }) (regs 0x80FF7F01 0 0 0) 4 = some 0xFFFF80FF := by decide +kernel
/-- 18 R366's example: 3.3 to T8, and 5000.0, which saturates and sets %satf. -/
theorem test_cvt :
    v (.cvt .t8 { o4 with srcB := 0 }) (regs 0x40533333 0 0 0) 4 = some 0x5A ∧
      v (.cvt .t8 { o4 with srcB := 0 }) (regs 0x459C4000 0 0 0) 4 = some 0x7F ∧
      after (exec (.cvt .t8 { o4 with srcB := 0 }) (regs 0x459C4000 0 0 0)) (·.g.satf) = some true := by decide +kernel
/-- 18 R368's example: DP4.T8 gives 35.0. -/
theorem test_dp4_t8 : v (.dp4T8 o4) (regs 0x74C85A40 0x40404040 0 0x3E800000) 4 = some 0x420C0000 := by decide +kernel
/-- 20 R433's example: lane 6 of SHFL.XOR with 1 receives lane 7's %lane. -/
theorem test_shfl :
    let s := { one [] [] with issue := { gid := 32, active := -1, checked := true, imm := some 1 } }
    after (exec (.shfl .xor { o4 with srcA := 125, srcB := 127 }) s) (fun t => ((t.vcell 32 4 6).val, (t.vcell 32 4 7).val)) =
      some (7, 6) := by decide +kernel
/-- 20 R419's example: QROT in lanes 4 to 7, with v1 (1, 2, 3, 7) and v2 (0, 0, 1, 0). -/
theorem test_qrot :
    let s := { one [(36, { val := 0x3F800000 }), (37, { val := 0x40000000 }), (38, { val := 0x40400000 }), (39, { val := 0x40E00000 }), (70, { val := 0x3F800000 })] [] with
      issue := { gid := 32, active := -1, checked := true } }
    after (exec (.qrot o4) s) (fun t => (List.range 4).map fun i => (t.vcell 32 4 (4 + i)).val) =
      some [0xBF800000, 0xC0000000, 0x40400000, 0x40E00000] := by decide +kernel
/-- 20 R426: a shift by 64 gives 0, the arithmetic one the sign; a product wraps. -/
theorem test_scalar :
    sAfter (.sShl 3 1 (.imm 64)) (one [] [(1, 1)]) 3 = some 0 ∧
      sAfter (.sSra 3 1 (.imm 64)) (one [] [(1, 0x8000000000000000)]) 3 = some (-1) ∧
      sAfter (.sMul 3 1 (.reg 1)) (one [] [(1, 0x100000001)]) 3 = some 0x200000001 ∧
      sAfter (.sLi 3 true 0 (some 5)) (one [] [(3, 7)]) 3 = some 0x500000007 := by decide +kernel
/-- 18 R344 to R348: the words of barrier b1 through the spec's table. -/
theorem test_barrier :
    let w := fun s : State => s.barWord 1 1
    (after (exec (.barInit 1 1 31 (some 0x4000)) (one [] [])) fun t =>
      (w t, w (t.charge 1 1 0 (-8192)), w ((t.charge 1 1 0 (-8192)).arrive 1 1 false 0),
        w (((t.charge 1 1 0 (-8192)).arrive 1 1 false 0).charge 1 1 0 (-8192)))) =
      some (0x0008000000200001, 0x0008000000100001, 0x0008008000100001, 0x8008000000000001) := by decide +kernel
/-- 18 R360's example: CAP.BND finds E = 7 and M = 782. -/
theorem test_cap_bnd :
    let c : Cap := Cap.make 0x100000 0x400 20 1 511 0 true
    let r := capBnd c 100001 0
    (r.exp, r.mant, r.base, r.offset, r.tag) = (7, 782, 0x100400, 0, true) := by decide +kernel
/-- The check value of the checksum that cards carry (13 R255): "123456789". -/
theorem test_crc : crc32c [0x31, 0x32, 0x33, 0x34, 0x35, 0x36, 0x37, 0x38, 0x39] = 0xE3069283 := by decide +kernel
/-- 15 R288 and Table 15.2: TRAP 0x12. -/
theorem test_trap :
    after (exec (.trap 0x12) (one [] [])) (fun t => (t.g.cause, t.g.epc, t.sl.pc)) =
      some (0x800F000000000012, 8, 0x800) := by decide +kernel
/-- 19 R385's queue of waiting: INBOX waits on an empty inbox. -/
theorem test_inbox_waits : after (exec .inbox (one [] [])) (·.sl.waitFor) = some .inbox := by decide +kernel
/-- A stream word and a traversal word. -/
theorem test_mx_wait :
    after (exec (.mxWait 1) (one [] [])) (fun t => ((t.seq 1).st, (t.seq 1).wbar)) = some (.waitBar, 1) := by decide +kernel
theorem test_t_add_wraps :
    let s : State := { State.reset with trps := [(0, { t := [(1, 0xFFFFFFFFFFFFFFFF)] })] }
    after (exec (.tAddImm 2 1 1) s) (fun t => (t.treg 2, t.tp.pc)) = some (0, 4) := by decide +kernel
/-- A step runs the word that withFetchWord placed: FFMA of zero registers, and PUSH. -/
theorem test_step_bundle :
    after (step (State.reset.withFetchWord 64 (0x090C9005 : Nat))) (fun t => Tbl.get 0 (t.grp 32).sregs 3) = some 5 := by decide +kernel
theorem test_step_thread :
    after (step (State.reset.withFetchWord 32 0x20000000)) (fun t => (t.trpAt 0).stk.length) = some 1 := by decide +kernel

/-! ### States and operands that meet the premises of the statements -/

/-- Every word acts in `one`: the premise Passes or Acts of the statements on A-words and C-words. -/
theorem witness_acts (i : Instr) : (one [] []).Passes i ∧ (one [] []).Acts i :=
  ⟨.inl rfl, .inl rfl, by decide⟩
/-- A word before its checks, none of which fails; and with no lane enabled. -/
theorem witness_passes_checks :
    let s : State := { one [] [] with issue := { gid := 32, active := 1 } }
    s.Passes (.iadd false o4) ∧ s.Acts (.sAdd 23 23 (.reg 23)) ∧ State.Passes { s with issue := { gid := 32 } } (.ld .w vm0) ∧
      State.active { s with issue := { gid := 32 } } = 0 :=
  ⟨.inr (by decide +kernel), ⟨.inr (by decide +kernel), by decide⟩, .inr (by decide +kernel), rfl⟩
/-- Conversion: a format in every source code; a saturating lane and none. -/
theorem witness_conversion :
    Fmt.ofCode 0 = some .fp32 ∧ Fmt.ofCode 10 = some .s20 ∧ (convert .fp32 .t8 .rne 0x459C4000).sat = true ∧
      (convert .fp32 .t8 .rne 0x40533333).sat = false ∧ (one [] []).active.getLsbD 0 = true := by decide +kernel
/-- NaN, and the ends of the range in which FLG2 gives one. -/
theorem witness_elementary :
    f32IsNan 0x7FC00000 = true ∧ 0x80000000 < (0x80000001 : Word).toNat ∧ (0xFF800000 : Word).toNat ≤ 0xFF800000 := by decide
/-- A finite FP32 word of the sign asked for. -/
theorem witness_rounding : ∃ k y, f32 0x3F800000 = .fin false k y := ⟨_, _, rfl⟩
/-- 05 R87, R93: 1 is not NaN, not infinite; the words around the infinity; a finite T8 value and a NaV. -/
theorem witness_values :
    (0x3F800000 : Nat) < fp32.infBits ∧ fp32.infBits < 0x7FC00000 ∧ fp32.infBits % 2 ^ 31 = fp32.infBits ∧
      (∃ m e, decodeFmt .t8 0x40 = .fin false m e) ∧ decodeFmt .t8 0x80 = .nan ∧ decodeFmt .s20 0x7F800 = .nan := by
  refine ⟨by decide, by decide, by decide, ⟨_, _, rfl⟩, by decide +kernel, by decide +kernel⟩
/-- 05 R93, R99: 1 ÷ 3 rounds once, √2 rounds once, a zero sum takes its sign from the mode. -/
theorem test_quotient_root_zero :
    fp32.div .rne (f32 0x3F800000) (f32 0x40400000) = 0x3EAAAAAB ∧ fp32.div .rz (f32 0x3F800000) (f32 0x40400000) = 0x3EAAAAAA ∧
      fp32.sqrt .rne (f32 0x40000000) = 0x3FB504F3 ∧ toF32 .rd ((f32 0x3F800000).add .rd (f32 0xBF800000)) = 0x80000000 ∧
      toF32 .rne ((f32 0x3F800000).add .rne (f32 0xBF800000)) = 0 := by decide +kernel
/-- 18 R368: products +1 and −1 beside dst +0 sum to −0 under RD alone. -/
theorem test_dot_zero :
    toF32 .rd (dotT8 .rd (f32 0) 0xC040 0x4040) = 0x80000000 ∧ toF32 .rne (dotT8 .rne (f32 0) 0xC040 0x4040) = 0 := by
  decide +kernel
/-- 12 R252: −0 ranks with +0, every NaN above infinity. -/
theorem test_sort_keys :
    sortKey .f 0x80000000 = sortKey .f 0 ∧ sortKey .f 0x7F800000 < sortKey .f 0xFFC00001 ∧
      sortKey .f 0xFFC00001 = sortKey .f 0x7FC00000 ∧ sortKey .s 0xFFFFFFFF < sortKey .s 0 := by decide +kernel
/-- UNPK at the last byte and half; VSORT's pair at its last place. -/
theorem witness_lane_operands :
    let s := one [] []
    ({ o4 with srcB := 3 } : AOp).srcB = 3 ∧ ({ o4 with srcB := 7 } : AOp).srcB = 4 + 3 ∧
      ({ o4 with srcB := 9 } : AOp).srcB = 8 + 1 ∧ ({ o4 with srcB := 11 } : AOp).srcB = 10 + 1 ∧
      s.vname 118 + 1 < 120 ∧ s.vname 119 < 120 ∧ 120 ≤ s.vname 122 ∧ s.vname 122 < 123 ∧ s.vname 123 < 124 := by decide +kernel

/-- A word whose check fails: a barrier number at NBAR, ERET outside a handler, a register beyond the allocation. -/
theorem witness_issue_traps :
    let s : State := { one [] [] with issue := { gid := 32, active := 1 } }
    let z : State := { s with blks := [(1, { desc := { nbar := 2, nreg := 15 } })] }
    s.issue.checked = false ∧ s.g.cause.getLsbD 63 = false ∧ (s.issueCause .eret).isSome = true ∧
      (Instr.barArv 2).barNo = some 2 ∧ z.b.desc.nbar ≤ 2 ∧ (z.issueCause (.barArv 2)).isSome = true ∧
      (s.issueCauses (.iadd false o4)) = [] ∧ (s.issueCause (.fadd true { o4 with dst := 5 })).isSome = true := by decide +kernel
/-- BRC: no lane takes, every running lane takes, some do with a free slot, and with none. -/
theorem witness_brc :
    let run2 : Slot := { occ := true, run := 3 }
    let s := fun (m : Tbl VCell) (slots : Tbl Slot) => ({ one m [] with
      grps := [(32, { vregs := m, slots })], issue := { gid := 32, active := 3, checked := true } } : State)
    let takes := fun (s : State) l => s.active.getLsbD l && ((s.vcur (116 + 1) l).val.getLsbD 0 != false)
    (∀ l, l < 32 → takes (s [] [(0, run2)]) l = false) ∧
      (let a := s [(117 * 32, { val := 1 }), (117 * 32 + 1, { val := 1 })] [(0, run2)]
       takes a 0 = true ∧ ∀ l, l < 32 → a.sl.run.getLsbD l = true → takes a l = true) ∧
      (let a := s [(117 * 32, { val := 1 })] [(0, run2)]
       takes a 0 = true ∧ a.sl.run.getLsbD 1 = true ∧ takes a 1 = false ∧ a.freeSlots 32 = [1, 2, 3] ∧ a.sl.occ = true) ∧
      (let a := s [(117 * 32, { val := 1 })] [(0, run2), (1, run2), (2, run2), (3, run2)]
       takes a 0 = true ∧ takes a 1 = false ∧ a.freeSlots 32 = [] ∧ a.sl.occ = true) ∧
      (let a := s [] [(0, run2)]
       a.branchPc 1 none = a.nextPc ∧ a.branchPc 2 none ≠ a.nextPc) := by decide +kernel
/-- BRX and RET with an aligned and a misaligned destination. -/
theorem witness_indirect :
    let a := one [(224, { val := 64 })] []
    let b := one [(224, { val := 65 })] []
    a.sl.run = a.active ∧ (∀ l, l < 32 → a.active.getLsbD l = true → (a.vcell a.gid (a.vname 7) l).val = 64) ∧
      (64 : Word).toNat % 8 = 0 ∧ b.active.getLsbD 0 = true ∧ (b.vcell b.gid (b.vname 7) 0).val.toNat % 8 ≠ 0 ∧
      a.sl.occ = true ∧ (∀ l, l < 32 → a.active.getLsbD l = true → a.sl.run.getLsbD l = true) ∧
      (∀ m, m < 32 → a.active.getLsbD m = true → 0 ≤ m) := by decide +kernel
/-- JOIN at a register not armed, armed and awaited, complete, with lanes it does not expect and without. -/
theorem witness_joins :
    let s := fun (j : JoinReg) (run : LaneMask) => ({ one [] [] with
      grps := [(32, { joins := [(7, j)], slots := [(0, { occ := true, run })] })] } : State)
    let more : JoinReg := { armed := true, expected := 3 }
    let last : JoinReg := { armed := true, expected := 3, arrived := 2 }
    ((one [] []).join 32 7).armed = false ∧ (s more 1).sl.run &&& more.expected ≠ 0 ∧
      more.arrived ||| ((s more 1).sl.run &&& more.expected) ≠ more.expected ∧ (s more 5).sl.run &&& ~~~more.expected ≠ 0 ∧
      (s more 1).sl.run &&& ~~~more.expected = 0 ∧ (∀ d ∈ (s more 1).g.defer, d.owner ≠ 0) ∧
      (s last 1).join 32 7 = last ∧ last.arrived ||| ((s last 1).sl.run &&& last.expected) = last.expected ∧
      (s last 1).issue.joins ≠ 1 ∧ ({ s last 1 with issue := { (s last 1).issue with joins := 1 } } : State).issue.joins = 1 := by
  decide +kernel
/-- 03 R47: a slot with two deferral entries of its own, between those of another; with a slot free and with none. -/
theorem witness_newest_deferral :
    let d := fun (owner : Nat) (pc : BitVec 54) => ({ owner, pc, mask := 4, fmt := 0 } : Deferral)
    let s := fun (slots : Tbl Slot) => ({ one [] [] with
      grps := [(32, { joins := [(7, { armed := true, expected := 3, arrived := 2 })], slots, defer := [d 0 8, d 1 9] ++ d 0 10 :: [d 2 11] })] } : State)
    let a := s [(0, { occ := true, run := 1 })]
    let b := s [(0, { occ := true, run := 1 }), (1, { occ := true, run := 4 }), (2, { occ := true, run := 8 }), (3, { occ := true, run := 16 })]
    a.sl.occ = true ∧ a.g.defer = [d 0 8, d 1 9] ++ d 0 10 :: [d 2 11] ∧ (d 0 10).owner = a.issue.slot ∧
      (∀ e ∈ [d 2 11], e.owner ≠ a.issue.slot) ∧ (d 0 10).wt = 0 ∧ a.freeSlots 32 = 1 :: [2, 3] ∧ b.freeSlots 32 = [] ∧
      a.sl.run &&& ~~~(a.join 32 7).expected = 0 ∧ a.g.par = none ∧
      after (exec .exit a) (fun t => (t.sl.pc, t.sl.run)) = some (10, 4) := by decide +kernel
/-- EXIT with lanes left and with none. -/
theorem witness_exit :
    let s : State := { one [] [] with grps := [(32, { slots := [(0, { occ := true, run := 3 })] })] }
    s.sl.run &&& ~~~s.active ≠ 0 ∧ s.sl.occ = true ∧ s.g.par = none ∧ s.g.ended ||| s.active ≠ -1 ∧
      (one [] []).sl.run &&& ~~~(one [] []).active = 0 ∧ (∀ d ∈ (one [] []).g.defer, d.owner ≠ 0) := by decide +kernel
/-- Traps: taken, held behind another handler, double, unhandled, in firmware. -/
theorem witness_traps :
    let s := one [] []
    let c := fun (cause : Quad) (fw : Bool) (tvec : Nat) => ({ s with
      ctxs := [(1, { fw, tvec })], grps := [(32, { cause, slots := [(0, { occ := true, run := 1 })] })] } : State)
    s.g.cause.getLsbD 63 = false ∧ (s.ctx s.ctxId).tvec ≠ 0 ∧
      (let a := c 0xA000000000000000 false 8
       a.g.cause.getLsbD 63 = true ∧ a.g.cause.toNat / 2 ^ 61 % 4 ≠ a.issue.slot) ∧
      (let a := c 0x8000000000000000 false 8
       a.g.cause.getLsbD 63 = true ∧ a.g.cause.toNat / 2 ^ 61 % 4 = a.issue.slot ∧ (a.ctx a.ctxId).fw = false) ∧
      (let a := c 0 false 0
       a.g.cause.getLsbD 63 = false ∧ (a.ctx a.ctxId).tvec = 0 ∧ (a.ctx a.ctxId).fw = false) ∧
      (let a := c 0 true 0
       (a.ctx a.ctxId).fw = true ∧ a.g.cause.getLsbD 63 = false ∧ (a.ctx a.ctxId).tvec = 0) := by decide +kernel
/-- A converged group and one that is not; words of SXV and VOTE that are none. -/
theorem witness_sxv_vote :
    let s := one [] []
    let d : State := { s with grps := [(32, { slots := [(0, { occ := true, run := 1 }), (1, { occ := true, run := 2 })] })] }
    s.converged s.gid = true ∧ d.converged d.gid = false ∧ fld 0x0F891941 23 8 = 0x1F ∧ fld 0x0F891941 0 6 ≠ 0 ∧
      fld 0x8F891940 31 1 = 1 ∧ fld 0x10751030 23 8 = 0x20 ∧ fld 0x10751030 4 2 = 3 ∧ fld 0x10751060 6 5 ≠ 0 ∧
      fld 0x10751021 0 4 ≠ 0 ∧ fld 0x90751020 31 1 = 1 := by decide +kernel
/-- VOTE: a lane that votes true, none, all, and one that does not. -/
theorem witness_votes :
    let yes := fun (s : State) l => s.active.getLsbD l = true ∧ (s.vcur (s.vname 5) l).val ≠ 0
    let a := one [(160, { val := 1 })] []
    let b := one [] []
    yes a 0 ∧ (∀ l, l < 32 → ¬ yes b l) ∧ (∀ l, l < 32 → a.active.getLsbD l = true → yes a l) ∧
      b.active.getLsbD 0 = true ∧ ¬ yes b 0 := by decide +kernel
/-- Barriers: no reduction sent, a record free, not covering and covering the group, and another identity. -/
theorem witness_arrivals :
    let s := one [] []
    let all : State := { s with grps := [(32, { ended := -2, slots := [(0, { occ := true, run := 1 })] })] }
    let other : State := { s with grps := [(32, { par := some { bar := 1, mask := 2 }, slots := [(0, { occ := true, run := 1 })] })] }
    (∀ r ∈ s.farSent, r.bid ≠ s.bid) ∧ (s.ctx s.ctxId).rfcount = 0 ∧ s.g.par = none ∧ s.active ||| s.g.ended ≠ -1 ∧
      all.active ||| all.g.ended = -1 ∧ (s.blk s.bid).phase = .resident ∧ (s.blk s.bid).stopped = false ∧
      s.peerCause 0 = none ∧ (s.blk (s.b.gangIds.getD 0 s.bid)).phase = .resident ∧
      other.g.par = some { bar := 1, mask := 2 } ∧ (1 : Nat) ≠ 0 ∧ s.b.desc.gang < 3 ∧
      (let x : RemArrival := { bid := 1, bar := 1, src := 0 }
       let w : State := { s with arrivals := [x] }
       let stop : State := { w with blks := [(1, { phase := .resident, stopped := true })] }
       w.arrivals[0]? = some x ∧ Tbl.has w.blks x.bid = true ∧ (w.blk x.bid).phase = .resident ∧ (w.blk x.bid).stopped = false ∧
         (stop.blk x.bid).stopped = true ∧ (stop.blk x.bid).absLog.length < 1024) := by decide +kernel
/-- 09 R201: an arrival that reaches a stopped block is logged and leaves its barrier word. -/
theorem test_arrival_logged :
    let s : State := { one [] [] with arrivals := [{ bid := 1, bar := 1, src := 0 }],
                                      blks := [(1, { phase := .resident, stopped := true })] }
    ((s.arrivalTurn 0).blk 1).absLog = [{ charge := false, bar := 1, src := 0, count := 1, bytes := 1 }] ∧
      (s.arrivalTurn 0).barWord 1 1 = 0 := by decide +kernel
/-- A word that a barrier update leaves in its phase, one that it turns, and a split that waits for that. -/
theorem witness_barrier_check :
    let s : State := { one [] [] with grps := [(32, { slots := [(0, { occ := true, run := 1, wait := .barrier, waitFor := .bar 0 false })] })] }
    32 / 32 = 1 ∧ (s.slotAt 32 0).waitFor = .bar 0 false ∧
      State.phaseOf ((s.updBar 1 0 fun _ => { exp := 1, arr := 1 }).barWord 1 0) ≠ false := by decide +kernel
/-- FENCE with nothing to wait for, behind a write to the paired card, and while the context has reduction faults. -/
theorem witness_fence :
    let s : State := { one [] [] with ctxs := [(1, { rfcount := 1 })] }
    let p : State := { one [] [] with pending := [{ id := 1, tgt := 2, gid := 32, slot := 0, write := some (0, [1]), seen := [32] }] }
    (∀ r ∈ s.farSent, r.bid ≠ s.bid) ∧ (s.ctx s.ctxId).rfcount ≠ 0 ∧
      (let o := one [] []
       (o.ctx o.ctxId).rfcount = 0 ∧ o.farSent = [] ∧ o.pending = []) ∧
      (p.ctx p.ctxId).rfcount = 0 ∧ p.farSent = [] ∧ (∀ x ∈ p.pending, x.red = none) ∧ ∃ x ∈ p.pending, p.gid ∈ x.seen := by
  decide +kernel
/-- Capabilities: CAP.BND's exponent, destinations at both ends, and one of every failing test of CheckCap. -/
theorem witness_capabilities :
    let c : Cap := Cap.make 0x1000 0 4 16 511 0 true
    (7 ≤ 47 ∧ (100001 + 2 ^ 7 - 1) / 2 ^ 7 ≤ 1023 ∧ ∀ f, f < 7 → 1023 < (100001 + 2 ^ f - 1) / 2 ^ f) ∧
      c.base + c.len ≤ 2 ^ 57 ∧ (capBnd c 16 0).tag = true ∧ (capPrm c 1).tag = true ∧ (capOfs c 8).tag = true ∧
      checkCap false c 240 16 pLOAD = .ok 0x10F0 ∧ checkCap false { c with tag := false } 0 1 pLOAD = .error 1 ∧
      checkCap false (Cap.make 0 0 48 1 511 0 true) 0 1 pLOAD = .error 2 ∧ checkCap true c 0 1 pLOAD = .error 3 ∧
      checkCap false c 0 1 pSCRATCHREF = .error 4 ∧ checkCap false c 241 16 pLOAD = .error 5 ∧
      ({ cap0 with d := 29 } : CapOp).d < 30 ∧ ({ cap0 with dk := true, d := 11 } : CapOp).d < 12 ∧
      (∀ m, m < 0 → (one [] []).active.getLsbD m = false) := by decide +kernel

/-- Page 0 of context 1, as the L1 TLB of core 0 caches it. -/
def page : Tlb := { ctx := 1, size := 12, vpage := 0, ppage := 0, tgt := 0, r := true, w := true, x := true }
/-- `one` with that page and with the capability of everything in s-pair 0. -/
def mem : State :=
  { one [] [] with
    l1tlb := [(0, [page])],
    grps := [(32, { sregs := [(0, fullCap.bits.extractLsb' 0 64), (1, fullCap.bits.extractLsb' 64 64)], stags := [(0, true)],
                    slots := [(0, { occ := true, run := 1 })] })] }
theorem mem_cached (acc : Acc) : mem.Cached acc 0 0 0 := ⟨page, rfl, by cases acc <;> rfl, rfl, rfl, rfl⟩
theorem mem_hits (acc : Acc) (n : Nat) (h : n ∈ [1, 2, 4, 8, 16, 64]) : mem.Hits acc n [(0, 0)] fun _ => 0 := by
  intro p hp
  simp only [List.mem_singleton] at hp
  subst hp
  refine ⟨mem_cached acc, ?_⟩
  simp only [List.mem_cons, List.not_mem_nil, or_false] at h
  rcases h with rfl | rfl | rfl | rfl | rfl | rfl <;> decide +kernel
theorem mem_quiet : mem.Quiet := by unfold State.Quiet State.L1Ok; decide +kernel
theorem mem_l1ok : mem.L1Ok := by unfold State.L1Ok; decide +kernel
theorem mem_one : mem.OneLane 0 := by unfold State.OneLane; decide +kernel
theorem mem_release (ord : Nat) : mem.MayRelease ord := .inr (by unfold State.Released State.Accepted; decide +kernel)

/-- The last byte of a store in its line; a table of lines in form. -/
theorem witness_home_store :
    mem.L1Ok ∧ mem.core < 152 ∧ 127 % 128 + ([1] : List Byte).length ≤ 128 ∧ ([1] : List Byte) ≠ [] ∧
      (mem.dir (State.lineOf 127)).ctr = false ∧ Tbl.wf ({} : L1Line) mem.lines = true :=
  ⟨mem_l1ok, by decide +kernel⟩
/-- The checks of a memory word: a capability that is not tagged, a misaligned lane. -/
theorem witness_memory_checks :
    (one [] []).issue.replay = false ∧ ((one [] []).ctx (one [] []).ctxId).rfcount = 0 ∧ (one [] []).farSent = [] ∧
      (∀ p ∈ (one [] []).pending, p.gid ≠ (one [] []).gid) ∧
      (∃ k, (one [] []).laneAddrs false 4 pLOAD 0 63 63 none (one [] []).active = .error k) ∧
      mem.laneAddrs false 4 pLOAD 0 63 63 (some 2) mem.active = .ok [(0, 2)] ∧ misaligned 4 [(0, 2)] = some (0, 2) :=
  ⟨rfl, by decide +kernel, rfl, by decide +kernel, ⟨_, rfl⟩, by decide +kernel, by decide⟩
/-- Words of a scratchpad and of granules: a capability that is not of the scratchpad, ranks that are not there and that have
retired, an untagged capability and a misaligned granule, each in the lowest lane. -/
theorem witness_other_checks :
    let c := Cap.make 0 0 0 1023 (511 + 512) 0 true
    let s := fun (gone : List Nat) => ({ one [] [] with
      blks := [(1, { phase := .resident, gangIds := 1 :: gone, ctx := 1, card := 1, desc := { nreg := 15, scr := 1, gang := gone.length } })] ++
                gone.map fun b => (b, { phase := .retired }),
      grps := [(32, { sregs := [(0, c.bits.extractLsb' 0 64), (1, c.bits.extractLsb' 64 64), (6, 2)], stags := [(0, true)],
                      slots := [(0, { occ := true, run := 1 })] })] } : State)
    (∃ k, mem.laneAddrs true 4 pLOAD 0 31 31 none mem.active = .error k) ∧
      (s []).laneAddrs true 4 pLOAD 0 31 31 (some 1) (s []).active = .ok [(0, 1)] ∧ misaligned 4 [(0, 1)] = some (0, 1) ∧
      (s []).laneAddrs true 4 pLOAD 0 31 31 none (s []).active = .ok [(0, 0)] ∧ misaligned 4 [(0, 0)] = none ∧
      ((s []).b.desc.gang < 1 ∧ 1 ≤ (s [5]).b.desc.gang ∧ ((s [5]).blk ((s [5]).b.gangIds.getD 1 0)).phase = .retired) ∧
      checkCap false ((one [] []).selCap 0 0) ((one [] []).effOff 0 63 63 none 0) 16 pLOAD = .error 1 ∧
      checkCap false (mem.selCap 0 0) (mem.effOff 0 63 63 (some 8) 0) 16 pLOAD = .ok 8 ∧
      (∀ j, j < 0 → mem.active.getLsbD j = false) ∧ mem.active.getLsbD 0 = true ∧ mem.Released ∧
      checkCap false (mem.selCap 0 0) 2 4 pLOAD = .ok 2 :=
  ⟨⟨_, rfl⟩, by decide +kernel, by decide, by decide +kernel, by decide, by decide +kernel, by decide +kernel, by decide +kernel,
    by decide, by decide +kernel, by unfold State.Released State.Accepted; decide +kernel, by decide +kernel⟩
/-- 15 Table 15.2: a misaligned LD traps with MISALIGN and the low 32 bits of its address. -/
theorem test_misaligned :
    after (exec (.ld .w { vm0 with off := 63, ext := some 2 }) mem) (fun t => (t.g.cause.toNat / 2 ^ 48 % 256, t.g.cause.toNat % 2 ^ 32)) =
      some (10, 2) := by decide +kernel
/-- Loads, stores and atomics at address 0, in the sizes at both ends. -/
theorem witness_accesses :
    mem.Quiet ∧ mem.L1Ok ∧ mem.core < 152 ∧ mem.MayRelease 2 ∧ mem.OneLane 0 ∧
      mem.laneAddrs false 1 pLOAD 0 63 63 none mem.active = .ok [(0, 0)] ∧
      mem.laneAddrs false 16 pSTORE 0 63 63 none mem.active = .ok [(0, 0)] ∧
      mem.laneAddrs false 8 (pLOAD + pSTORE + pATOMIC) 0 63 63 none mem.active = .ok [(0, 0)] ∧
      mem.laneAddrs false 4 (pSTORE + pATOMIC) 0 63 63 none mem.active = .ok [(0, 0)] ∧
      misaligned 16 [(0, 0)] = none ∧ mem.Hits .read 1 [(0, 0)] (fun _ => 0) ∧ mem.Hits .write 16 [(0, 0)] (fun _ => 0) ∧
      mem.Hits .rmw 8 [(0, 0)] (fun _ => 0) ∧ (mem.dir (State.lineOf 0)).ctr = false :=
  ⟨mem_quiet, mem_l1ok, by decide +kernel, mem_release 2, mem_one, by decide +kernel, by decide +kernel, by decide +kernel,
    by decide +kernel, by decide, mem_hits _ _ (by decide), mem_hits _ _ (by decide), mem_hits _ _ (by decide), rfl⟩
/-- S.LD and LDC.SPAIR through s-pair 0. -/
theorem witness_scalar_loads :
    let o : SmOp := { ord := 0, scope := 0, sd := 4, sel := 0, so := 31, ext := none }
    mem.smAddr o 8 none = .ok (0, fullCap) ∧ mem.smAddr o 16 (some subALIGN) = .ok (0, fullCap) ∧
      mem.Cached .read 0 0 0 ∧ mem.blocked 0 0 16 = false ∧ mem.bad 0 16 = false :=
  ⟨by decide +kernel, by decide +kernel, mem_cached _, by decide +kernel⟩
/-- LDC and STC: untagged quads, and a tagged one where memory has tags. -/
theorem witness_capability_memory :
    let s : State := { mem with dev := { mem.dev with chmask := 1, c := 1 } }
    mem.laneAddrs false 16 pLOAD 0 63 63 none mem.active = .ok [(0, 0)] ∧ mem.Hits .read 16 [(0, 0)] (fun _ => 0) ∧
      mem.laneAddrs false 16 (pSTORE + pSTORECAP) 0 63 63 none mem.active = .ok [(0, 0)] ∧ (8 : Nat) % 4 = 0 ∧
      (∀ l, l < 32 → (mem.quadCap 2 l).tag = false) ∧ s.hasTags 0 = true ∧ State.Apart 0 16 16 :=
  ⟨by decide +kernel, mem_hits _ _ (by decide), by decide +kernel, by decide, by decide +kernel, by decide +kernel, .inl (by decide)⟩
/-- RED where the L1 owns the line, and where it does not. -/
theorem witness_reductions :
    let s : State := { mem with lines := [(0, { owned := true })] }
    (s.l1 (s.l1Core s.core 0) 0).owned = true ∧ (mem.l1 (mem.l1Core mem.core 0) 0).owned = false ∧ (2 : Nat) < 3 ∧ (3 : Nat) ≤ 3 := by
  decide +kernel
/-- Scratchpad words of the block, at its first bytes; two lanes that add to one word. -/
theorem witness_scratch :
    let c := Cap.make 0 0 0 1023 (511 + 512) 0 true
    let s : State := { one [] [] with
      grps := [(32, { sregs := [(0, c.bits.extractLsb' 0 64), (1, c.bits.extractLsb' 64 64)], stags := [(0, true)],
                      vregs := [(128, { val := 1 }), (129, { val := 1 })], slots := [(0, { occ := true, run := 3 })] })],
      issue := { gid := 32, active := 3, checked := true } }
    let o : SpOp := { ord := 0, peer := false, rank := 0, data := 4, sel := 0, off := 31, scope := 0, ext := none }
    s.issue.replay = false ∧ s.issue.upTo = none ∧ o.peer = false ∧ s.spTarget o = 1 ∧ o.ord < 2 ∧ (s.blk 1).scrBad = [] ∧
      s.laneAddrs true 4 (pLOAD + pSTORE + pATOMIC) 0 31 31 none s.active = .ok [(0, 0), (1, 0)] ∧
      misaligned 4 [(0, 0), (1, 0)] = none ∧ s.farSent = [] ∧ (s.vcur (s.vname 4) 0).val = 1 ∧ (s.vcur (s.vname 4) 1).val = 1 ∧
      s.laneAddrs true 16 pLOAD 0 31 31 none 1 = .ok [(0, 0)] := by decide +kernel
/-- Two lanes whose ATOM.ADD meets one word of device memory; five lines for one MWATCH. -/
theorem witness_lanes :
    let wide : State := { mem with issue := { mem.issue with active := 31 }, grps := mem.grps.map fun p =>
      (p.1, { p.2 with slots := [(0, { occ := true, run := 31 })], vregs := (List.range 5).map fun l => (32 * 6 + l, { val := BitVec.ofNat 32 (128 * l) }) }) }
    let two : State := { wide with issue := { wide.issue with active := 3 } }
    two.laneAddrs false 4 (pLOAD + pSTORE + pATOMIC) 0 63 63 none two.active = .ok [(0, 0), (1, 0)] ∧
      (∀ p ∈ [(0, 0), (1, 0)], p.2 = 0) ∧ two.Hits .rmw 4 [(0, 0), (1, 0)] (fun _ => 0) ∧ two.Quiet ∧
      (∀ as, as = (List.range 5).map (fun l => (l, 128 * l)) →
        wide.laneAddrs false 4 pLOAD 0 6 63 none wide.active = .ok as → misaligned 4 as = none ∧ 4 < (as.map (·.2 / 128)).dedup.length) := by
  refine ⟨by decide +kernel, by decide, ?_, by unfold State.Quiet State.L1Ok; decide +kernel, ?_⟩
  · intro p hp
    simp only [List.mem_cons, List.not_mem_nil, or_false] at hp
    rcases hp with rfl | rfl <;> exact ⟨⟨page, rfl, rfl, rfl, rfl, rfl⟩, by decide +kernel⟩
  · rintro as rfl _
    exact ⟨by decide, by decide⟩
/-- Monitors: none, one armed on the line, one with an event, and a watched line. -/
theorem witness_monitors :
    let s := fun (m : Monitor) (w : WaitFor) => ({ mem with
      lines := [(0, { watch := true })],
      grps := [(32, { slots := [(0, { occ := true, run := 1, monitor := m, waitFor := w })] })] } : State)
    let armed : Monitor := { vlines := [0], lines := [0] }
    mem.sl.monitor = {} ∧ mem.watchCount mem.core < 128 ∧ 0 / 128 ∈ (s armed .none).sl.monitor.vlines ∧
      (s armed .none).sl.monitor.overflow = false ∧ (s armed .none).sl.monitor.ev = false ∧
      (s { armed with ev := true } .none).sl.monitor.ev = true ∧ State.lineOf (0 + 1 - 1) = 0 ∧
      0 ∈ (s armed .mwait).sl.monitor.lines ∧ (s armed .mwait).sl.waitFor = .mwait ∧
      ((s armed .mwait).l1 (s armed .mwait).core 0).watch = true := by decide +kernel
/-- CACHE.CLN and CACHE.INV of an unpinned line; TLB.INV with nothing left, with an access left, and after the wait. -/
theorem witness_cache_words :
    mem.laneAddrs false 1 pLOAD 0 124 124 none mem.active = .ok [(0, 0)] ∧ mem.Hits .read 1 [(0, 0)] (fun _ => 0) ∧
      (mem.l1 (mem.l1Core mem.core 0) 0).pins = 0 ∧ mem.translatedLeft 1 4 0 (mem.coveredPages 1 4 0) = false ∧
      (let p : State := { mem with pending := [{ id := 1, tgt := 1, gid := 32, slot := 0, ctx := 1, va := 4096 }] }
       p.translatedLeft 1 4 0 (p.coveredPages 1 4 0) = true) ∧
      (let w : State := { mem with grps := [(32, { slots := [(0, { occ := true, run := 1, waitFor := .tlbInv 1 4 0 [] })] })] }
       w.translatedLeft 1 4 0 [] = false ∧ (w.slotAt 32 0).waitFor = .tlbInv 1 4 0 []) ∧
      Tbl.wf [] mem.l1tlb = true ∧ Tbl.wf [] mem.l2tlb = true ∧
      (let d : State := { mem with lines := [(0, { owned := true, dirty := 1, data := [(0, 7)] })] }
       (d.l1 (d.l1Core d.core 0) 0).dirty ≠ 0) :=
  ⟨by decide +kernel, mem_hits _ _ (by decide), by decide +kernel, by decide +kernel, by decide +kernel, by decide +kernel,
    by decide +kernel, by decide +kernel, by decide +kernel⟩
/-- 09 R187: a translation through a page of 64 KiB that a range of one small page removes is waited for at any address of it. -/
theorem test_larger_page_left :
    let big : Tlb := { page with size := 16 }
    let s : State := { mem with l1tlb := [(0, [big])],
                                pending := [{ id := 1, tgt := 1, gid := 32, slot := 0, ctx := 1, va := 0x3000 }] }
    s.translatedLeft 1 0 0 (s.coveredPages 1 0 0) = true ∧ s.translatedLeft 1 0 0 [] = false := by decide +kernel
/-- A lane whose page is not mapped: `u` is the state with which the translation answers. -/
theorem witness_park :
    let s : State := { mem with l1tlb := [] }
    s.laneAddrs false 4 pLOAD 0 63 63 none s.active = .ok [(0, 0)] ∧ s.translate (some s.core) s.ctxId 0 .read = (.fault 1 4, s) ∧
      s.grps = s.grps := by decide +kernel
/-- A lane whose page lies in host memory. -/
theorem witness_host_load :
    let s : State := { mem with l1tlb := [(0, [{ page with tgt := 1 }])] }
    s.Cached .read 0 1 0 ∧ (∀ p ∈ s.pending, s.gid ∉ p.seen) ∧ s.Quiet :=
  ⟨⟨{ page with tgt := 1 }, rfl, rfl, rfl, rfl, rfl⟩, by decide +kernel, by unfold State.Quiet State.L1Ok; decide +kernel⟩

/-- The bytes of a counter line at 0: RESERVE, then INIT, OVF, CENTRAL and CAP, then the holder bits. -/
def ctrMem (reserve q1 holders : Nat) : Tbl Byte :=
  State.putBytes [] 0 (State.toLe 8 reserve ++ State.toLe 8 q1 ++ State.toLe 8 holders)
/-- `mem` with a counter at 0. -/
def ctr (reserve q1 holders : Nat) (allows : Tbl Allow) (msgs : List CtrMsg) : State :=
  { mem with mem := ctrMem reserve q1 holders, dirs := [(0, { ctr := true })], allows, ctrMsgs := msgs }
/-- AC.TAKE and AC.GIVE with n = 0 and n = 1, AC.DROP; an allowance that covers n, one that does not, none; a counter not
initialised, one in central mode. -/
theorem witness_counter_words :
    let ac : AcOp := { sel := 0, sn := 23, sd := 2, wt := false, ext := none }
    let s := ctr 5 (2 ^ 63) 1 [(0, { ctx := 1, allow := 3, cap := 4 })] []
    mem.acAddr ac = .ok 0 ∧ mem.sl.answer = none ∧ mem.inFlight 0 mem.core = false ∧ s.inFlight 0 s.core = false ∧
      mem.acQueue mem.core (State.allowKey 0 mem.core) = [] ∧ State.queued mem.ctrMsgs 0 = false ∧
      (23 : Nat) - 23 = 0 ∧ (0 : Nat) < 24 - 23 ∧
      s.hasAllow 0 s.core = true ∧ 1 ≤ (s.allowOf 0 s.core).allow ∧ mem.hasAllow 0 mem.core = false ∧
      mem.ctrInit 0 = false ∧ s.ctrInit 0 = true ∧ s.ctrCentral 0 = false ∧
      (s.allowOf 0 s.core).allow + 1 ≤ (s.allowOf 0 s.core).cap ∧ (ctr 5 (2 ^ 63 + 2 ^ 61) 1 [] []).ctrCentral 0 = true ∧
      State.leNum (mem.homeBytes 8 8) / 2 ^ 63 = 0 ∧ State.leNum (s.homeBytes 8 8) / 2 ^ 63 = 1 ∧
      (ctr 5 (2 ^ 63) 0 [] []).ctrHolders 0 = [] ∧ mem.blocked 0 0 64 = false ∧
      (s.allowOf 0 s.core).cap < (s.allowOf 0 s.core).allow + 2 ∧ mem.Accepted ∧
      (let a : State := { mem with grps := [(32, { slots := [(0, { occ := true, run := 1, answer := some 1 })] })] }
       a.sl.answer = some 1) := by
  unfold State.Accepted; decide +kernel
/-- Messages at the home: a take that RESERVE covers, one that it does not without and with holders, a give with and
without takes waiting, and the last of two responses. -/
theorem witness_counter_home :
    let take : CtrMsg := { pa := 0, core := 0, kind := .take 2 32 0 true, units := 0 }
    let give : CtrMsg := { pa := 0, core := 0, kind := .give, units := 1 }
    let sent : CtrMsg := { pa := 0, core := 0, kind := .sent 32 0 none, units := 1 }
    let resp : CtrMsg := { pa := 0, core := 1, kind := .recallResponse, units := 1 }
    let s := ctr 2 (2 ^ 63) 0 [] [take]
    let w : State := { ctr 1 (2 ^ 63 + 2 ^ 61) 0 [] [give] with ctrWait := [(0, [{ who := .split 32 0, n := 2 }])] }
    let x : Txn := { kind := .counter 0 1 9 32 0 false 0 1, ackn := 2, acks := 1 }
    let r : State := { ctr 1 (2 ^ 63) 2 [] [resp] with txns := [(0, x)] }
    let h := ctr 1 (2 ^ 63) 2 [] [take]
    let v : State := { ctr 1 0 0 [] [take] with grps := [(32, { slots := [(0, { occ := true, waitFor := .take })] })] }
    (s.ctrMsgs[0]? = some take ∧ s.firstOfChannel 0 take = true ∧ take.core < 152 ∧ take.arrived = false ∧ s.takeHeld 0 = false ∧
      2 + 0 ≤ 2 ^ 48 - 1 - 0 ∧ s.allows = [] ∧ s.ctrCentral 0 = false) ∧
      (v.ctrInit 0 = false ∧ (v.slotAt 32 0).waitFor = .take ∧ v.takeHeld 0 = false) ∧
      (h.ctrMsgs[0]? = some take ∧ h.ctrReserve 0 + 0 < 2 ∧ h.takeHeld 0 = false ∧ ∀ c, Tbl.get false h.left c = false) ∧
      (w.ctrReserve 0 + 1 = 2 ∧ w.ctrInit 0 = true) ∧ (r.ctrMsgs[0]? = some resp ∧ r.ctrReserve 0 + 1 < 9 ∧
      Tbl.get [] r.ctrWait 0 = []) ∧ ({ x with acks := 0 } : Txn).acks + 1 < x.ackn ∧
      State.queued s.ctrMsgs 0 = false ∧ s.ctrInit 0 = true ∧ Tbl.get [] s.ctrWait 0 = [] ∧ 2 ≤ s.ctrReserve 0 ∧
      (s.allowsOf 0).length < 64 ∧ (ctr 1 (2 ^ 63) 0 [] [take]).ctrReserve 0 < 2 ∧
      ((ctr 1 (2 ^ 63) 2 [] [take]).ctrHolders 0).filter (· != 0) = [1] ∧ w.ctrMsgs[0]? = some give ∧
      w.ctrCentral 0 = true ∧ w.firstOfChannel 0 give = true ∧ Tbl.get [] w.ctrWait 0 = [{ who := .split 32 0, n := 2 }] ∧
      r.txns.lookup 0 = some x ∧ r.firstOfChannel 0 resp = true ∧ r.ctrCentral 0 = false ∧ x.ackn ≤ x.acks + 1 ∧
      (let g : State := { ctr 1 (2 ^ 63) 0 [] [sent] with grps := [(32, { slots := [(0, { occ := true, waitFor := .give })] })] }
       g.ctrMsgs[0]? = some sent ∧ g.firstOfChannel 0 sent = true ∧ (g.slotAt 32 0).waitFor = .give ∧ g.ctrInit 0 = true ∧
         (ctr 1 0 0 [] [sent]).ctrInit 0 = false) := by
  exact ⟨by decide +kernel, by decide +kernel, ⟨rfl, by decide +kernel, by decide +kernel, fun _ => rfl⟩, by decide +kernel,
    by decide +kernel, by decide +kernel, by decide +kernel⟩

/-- Operand slots that are empty, claimed and filled; a rectangle in range and one that is not. -/
theorem witness_slots :
    let s := fun (st : SlotState) (stamp : Bool) => ({ one [] [] with
      blks := [(1, { mx := { hdrs := [(0, { st, stamp }), (31, { st, stamp })] } })] } : State)
    (∀ i, i ≤ 1 → ((one [] []).hdr 1 ((31 + i) % 32)).st = .empty) ∧
      (∀ i, i ≤ 1 → ((s .claimed false).hdr 1 ((31 + i) % 32)).st = .claimed) ∧
      ((s .claimed true).hdr 1 31).stamp = true ∧ ((s .claimed false).hdr 1 31).stamp = false ∧
      ((s .filled true).hdr 1 31).st ≠ .empty ∧ ((s .filled true).hdr 1 31).st ≠ .claimed ∧
      (let bad := fun t q => t / 2 ^ 14 ≠ 0 ∨ 11 < t % 16 ∨ 11 < t / 2 ^ 7 % 16 ∨ 8 < t / 2 ^ 4 % 8 + t / 2 ^ 11 % 8 + 1 ∨
         12 < t % 16 + t / 2 ^ 7 % 16 + 1 ∨ 32 * (t / 2 ^ 11 % 8 + 1) * (t / 2 ^ 7 % 16 + 1) ≤ q
       ¬ bad (11 + 7 * 2 ^ 4) 31 ∧ bad (11 + 7 * 2 ^ 4) 32 ∧ bad 12 0 ∧ bad (2 ^ 14) 0) := by decide +kernel
/-- A query record that can be read, a completion queue with a record; SELK's descriptor aligned and not. -/
theorem witness_queries :
    let s : State := { mem with cqs := [(3, [{ ctx := 1, words := [1, 2, 3, 4] }])] }
    mem.laneAddrs false 64 (pLOAD + pNODE) 0 124 124 none mem.active = .ok [(0, 0)] ∧ mem.Hits .read 64 [(0, 0)] (fun _ => 0) ∧
      (Tbl.get [] mem.ingress mem.core).length < 256 ∧ (Tbl.get [] s.cqs (4 * (s.core / 4) + 3)).length = 1 ∧
      checkCap false (mem.selCap 0 0) (mem.effOff 0 124 124 none 0) 64 pLOAD = .ok 0 ∧
      checkCap false (mem.selCap 0 0) (mem.effOff 0 124 124 (some 8) 0) 64 pLOAD = .ok 8 ∧
      ((Tbl.get [] mem.ssus (mem.core / 4)).filter fun c => !c.started).length < 16 :=
  ⟨by decide +kernel, mem_hits _ _ (by decide), by decide +kernel⟩
/-- Tasks: an inbox with a record of the block and one of another; a queue that may be posted to, a full one, one that
may not. -/
theorem witness_tasks :
    let mine : InboxRec := { ctx := 1, descVa := 0, card := 1, quads := [] }
    let other : InboxRec := { ctx := 2, descVa := 0, card := 1, quads := [] }
    let s : State := { mem with inbox := [(0, [other, mine])], queues := [(5, { en := true, devpost := true, ctx := 1 })] }
    let full : State := { mem with queues := [(5, { en := true, devpost := true, ctx := 1, tail := 15 })] }
    Tbl.get [] s.inbox s.core = [other] ++ mine :: [] ∧ (∀ x ∈ [other], ¬ (x.ctx = s.ctxId ∧ x.descVa = s.b.descVa)) ∧
      mine.ctx = s.ctxId ∧ mine.descVa = s.b.descVa ∧ s.g.task = none ∧ Tbl.get [] mem.inbox mem.core = [] ∧
      checkCap false (s.selCap 0 0) (s.effOff 0 124 124 none 0) 128 pLOAD = .ok 0 ∧ s.farSent = [] ∧
      ((s.queue 5).en = true ∧ (s.queue 5).devpost = true ∧ (s.queue 5).ctx = s.ctxId) ∧
      ((s.queue 5).tail.toNat + 1) % 16 ≠ (s.queue 5).head.toNat % 16 ∧
      ((full.queue 5).tail.toNat + 1) % 16 = (full.queue 5).head.toNat % 16 ∧ (mem.queue 5).en = false ∧
      (s.queue 5).base.getLsbD 63 = false ∧ s.blocked 0 0 32 = false := by decide +kernel
/-- Copies: descriptors that pass for CPY, CPY.G, CPY.S and SCL.CPY, and one that does not. -/
theorem witness_copies :
    let full := fullCap.bits
    let sp := (Cap.make 0 0 0 1023 (511 + 512) 0 true).bits
    let s := fun (d : BitVec 128) (q4 q7 : Quad) => ({ one [] [] with
      grps := [(32, { sregs := [(0, full.extractLsb' 0 64), (1, full.extractLsb' 64 64), (2, d.extractLsb' 0 64),
                                (3, d.extractLsb' 64 64), (4, q4), (7, q7)],
                      stags := [(0, true), (1, true)], slots := [(0, { occ := true, run := 1 })] })] } : State)
    let bad := fun (x : State) (f : CpyForm) (g : Bool) =>
      (CpyDesc.ofQuads (x.sreg 4).toNat (x.sreg 5).toNat (x.sreg 6).toNat (x.sreg 7).toNat).bad f g x.b.desc.mxs
        x.b.desc.nbar (x.pairCap 1).bits
    let a := s full 16 0
    let b := s sp 16 (BitVec.ofNat 64 (2 ^ 55))
    bad a .cpy false = false ∧ bad a .gather true = false ∧ bad b .scratch false = false ∧ bad (s full 0 0) .cpy false = true ∧
      (a.inFlightCopies a.core).length < 64 ∧ checkCap false (a.pairCap 0) 0 16 pCOPYSRC = .ok 0 ∧
      checkCap false (a.pairCap 1) 0 16 pCOPYDST = .ok 0 ∧ checkCap true (b.pairCap 1) 0 16 pCOPYDST = .ok 0 ∧
      (lanesOf a.active).length = 1 ∧ (a.vcur (a.vname 9) 0).val = 0 ∧ a.lineHeld 0 = false ∧
      (let z := { s 0 4096 0 with issue := a.issue }
       z.sreg 2 = 0 ∧ z.sreg 3 = 0 ∧ z.sreg 5 = 0 ∧ z.sreg 6 = 0 ∧ (z.sreg 7).toNat / 2 ^ 12 = 0 ∧
         (z.sreg 7).toNat % 2 ^ 12 + 4096 ≤ 4096 ∧
         checkCap false (z.pairCap 0) (z.pairCap 0).offset (4 * 4096) pCOPYSRC = .ok 0) := by decide +kernel

/-- Stream words: barrier numbers, phases, slots, loop counters, and the checks of MX.MMA. -/
theorem witness_stream :
    let s := fun (h0 h1 : SlotHdr) (q : Seq) => ({ one [] [] with
      blks := [(1, { phase := .resident, desc := { nbar := 2 }, mx := { hdrs := [(0, h0), (1, h1)], seq := q } })] } : State)
    let f := fun fmt => ({ st := .filled, fmt } : SlotHdr)
    let a := s (f 0) (f 0) {}
    (∀ r ∈ [(0, 7, 11), (95, 0, 0)], r.1 < 96 ∧ r.1 / 12 + r.2.1 + 1 ≤ 8 ∧ r.1 % 12 + r.2.2 + 1 ≤ 12) ∧
      4064 + 32 * (0 + 1) ≤ 4096 ∧ 4096 < 4065 + 32 * (0 + 1) ∧ ¬ 95 / 12 + 1 + 1 ≤ 8 ∧ 1 < a.b.desc.nbar ∧
      a.b.desc.nbar ≤ 2 ∧ State.phaseOf (a.barWord 1 1) = (a.seq 1).ep.getLsbD 1 ∧
      State.phaseOf ((s (f 0) (f 0) { ep := 2 }).barWord 1 1) ≠ (2 : Quad).getLsbD 1 ∧ (a.blk 1).phase = .resident ∧
      (a.blk 1).stopped = false ∧ (a.hdr 1 0).st = .filled ∧ ((s {} {} {}).hdr 1 0).st ≠ .filled ∧
      (let l : LoopCtr := Tbl.get {} a.b.mx.seq.lc 3
       0 < (if l.arm then l.rem else 2) - 1 ∧ (if l.arm then l.rem else 1) - 1 = 0) ∧
      -- MX.MMA and MX.REC: states, swizzles, ranges and formats that serve, and that fault
      ((a.hdr 1 0).swz = 0 ∧ (a.hdr 1 0).fmt ≤ 3 ∧ 3 + 1 ≤ 4 ∧ 3968 + 32 * (3 + 1) ≤ 4096 ∧ ¬ 3 + 1 + 1 ≤ 4) ∧
      ((s (f 4) (f 4) {}).hdr 1 0).fmt = 4 ∧ ((s (f 4) (f 0) {}).hdr 1 1).fmt ≤ 3 ∧ ((a.hdr 1 0).swz = 1 → False) ∧
      microOps (0x0A381A50 : Nat) ≠ [] ∧ a.b.mx.seq.step = 0 := by decide +kernel
/-- 19 R400, R403: MX.LOOP of COUNT 0, and MX.PROG with each operation that is not allowed. -/
theorem witness_stream_illegal :
    let s := fun (w : Quad) => ({ one [] [] with
      blks := [(1, { phase := .resident, gangIds := [1], ctx := 1, card := 1, desc := { mxs := true, nbar := 2 }, mx := { seq := { word := some w } } })] } : State)
    let word := fun (i op : Nat) => 4 * 2 ^ 58 + op * 2 ^ (14 * i)
    (s 0).seqLive 1 = true ∧ ((s 5).seq 1).word = some 5 ∧
      (9 * 2 ^ 58 / 2 ^ 58 = 9 ∧ 9 * 2 ^ 58 / 2 ^ 40 % 2 ^ 16 = 0) ∧
      (∀ op ∈ [7 * 2 ^ 11, 2 ^ 11 + 3 * 2 ^ 9, 2 ^ 11 + 1, 1], decodeMx (word 0 op) = .error .reservedValue) ∧
      decodeMx (word 1 (2 ^ 11)) = .error .reservedValue ∧ decodeMx (9 * 2 ^ 58) = .error .reservedValue ∧
      after (seqTurn exec 1 (s (BitVec.ofNat 64 (9 * 2 ^ 58)))) (fun t => ((t.seq 1).st, (t.seq 1).fcode)) = some (.fault, 1) := by
  decide +kernel

/-- A thread of core 0 in context 1 under the capability of everything, its first page cached and in the node cache. -/
def thr (t : Trp) : State :=
  { mem with trps := [(0, { t with phase := .run, ctx := 1, ncap := fullCap })], ncache := [(0, some false), (64, some false)] }
/-- What NodeBytes asks of each byte, in the state without the thread. -/
def byteOk (a n i : Nat) : Prop :=
  State.findTlb (Tbl.get [] mem.l1tlb 0) 1 (a + i) = some page ∧ page.permits .read = true ∧
    mem.fwRefused 1 page (a + i) = false ∧ page.tgt = 0 ∧ 12 ≤ page.size ∧
    (mem.dir (State.lineOf (State.Tlb.pa page (a + i)))).ctr = false ∧
    mem.farOf (State.lineOf (State.Tlb.pa page (a + i))) = [] ∧
    Tbl.get none [(0, some false), (64, some false)] (64 * State.lineOf (State.Tlb.pa page (a + i)) + 0) = some false ∧
    (List.replicate n (0 : Byte))[i]? = some (mem.peek (State.Tlb.pa page (a + i)))
theorem thr_bytes (t : Trp) (a n : Nat) (c : ∃ x, checkAddr fullCap a n pLOAD = .ok x) (h : ∀ i, i < n → byteOk a n i) :
    (thr t).NodeBytes a n (List.replicate n 0) :=
  by
  have e : (thr t).trCore = 0 ∧ (thr t).trCluster = 0 ∧ (thr t).tp.ctx = 1 ∧ (thr t).tp.ncap = fullCap := by
    refine ⟨?_, ?_, rfl, rfl⟩ <;> simp [State.trCore, State.trCluster, thr, mem, one]
  refine ⟨List.length_replicate, ?_, fun i hi => ⟨page, ?_⟩⟩
  · rw [e.2.2.2]; exact c
  · rw [e.1, e.2.1, e.2.2.1]; exact h i hi
theorem thr_node (t : Trp) : (thr t).NodeBytes 0 128 (List.replicate 128 0) :=
  thr_bytes t 0 128 ⟨0, by decide +kernel⟩ (by unfold byteOk; decide +kernel)
theorem thr_triangle (t : Trp) : (thr t).NodeBytes 0 48 (List.replicate 48 0) :=
  thr_bytes t 0 48 ⟨0, by decide +kernel⟩ (by unfold byteOk; decide +kernel)
theorem thr_quad (t : Trp) : (thr t).NodeBytes 160 8 (List.replicate 8 0) ∧ (thr t).NodeBytes 160 32 (List.replicate 32 0) :=
  ⟨thr_bytes t 160 8 ⟨160, by decide +kernel⟩ (by unfold byteOk; decide +kernel),
    thr_bytes t 160 32 ⟨160, by decide +kernel⟩ (by unfold byteOk; decide +kernel)⟩
/-- A thread's store and load of [160, 160 + n). -/
theorem thr_at (t : Trp) (acc : Acc) (perm n : Nat) (hp : perm = pLOAD ∨ perm = pSTORE) (hn : n = 16 ∨ n = 32) :
    (thr t).ThreadAt acc perm 160 n fun i => 160 + i := by
  have e : (thr t).trCore = 0 ∧ (thr t).tp.ctx = 1 ∧ (thr t).tp.ncap = fullCap := by
    refine ⟨?_, rfl, rfl⟩; simp [State.trCore, thr, mem, one]
  refine ⟨rfl, rfl, ?_, ?_⟩
  · rw [e.2.2]
    rcases hp with rfl | rfl <;> rcases hn with rfl | rfl <;> exact ⟨160, by decide +kernel⟩
  · intro i hi
    have h : ∀ i, i < 32 → State.findTlb (Tbl.get [] mem.l1tlb 0) 1 (160 + i) = some page ∧
        mem.fwRefused 1 page (160 + i) = false ∧ page.tgt = 0 ∧ 12 ≤ page.size ∧ State.Tlb.pa page (160 + i) = 160 + i ∧
        mem.lineHeld (State.lineOf (160 + i)) = false ∧ (mem.dir (State.lineOf (160 + i))).ctr = false ∧
        mem.bad (160 + i) 1 = false := by decide +kernel
    obtain ⟨h1, h2⟩ := h i (by omega)
    rw [e.1, e.2.1]
    exact ⟨page, h1, by cases acc <;> rfl, h2⟩
/-- T.LD of the decoded node, of memory, of neither; T.END and HIT. -/
theorem witness_traversal_registers :
    let s := thr { node := some { va := 0, desc := [0x1000000000000000], bytes := [30] } }
    let dn : DecNode := { va := 0, desc := [0x1000000000000000], bytes := [30] }
    s.tp.node = some dn ∧ 248 / 8 < (DecDesc.ofQuads dn.desc).children dn.bytes + 1 ∧
      (DecDesc.ofQuads dn.desc).children dn.bytes ≤ 248 / 8 ∧ 240 / 8 < (DecDesc.ofQuads dn.desc).children dn.bytes ∧
      (thr {}).tp.node = none ∧ (checkAddr (thr {}).tp.ncap (2 ^ 57) 8 pLOAD).toOption = none ∧
      (thr { cand := some [1, 2, 3, 4] }).tp.cand = some [1, 2, 3, 4] ∧ State.qFIRST (thr {}).tp = false ∧
      State.qFIRST (thr { quads := [0, 0, 0, 0, 0, 0, 0, 256] }).tp = true ∧ (thr {}).tp.subs = [] ∧ (thr {}).tp.parts = [] ∧
      (thr {}).tp.sent = 0 ∧ (thr {}).tp.echo = none ∧ (Tbl.get [] (thr {}).cqs 0).length < 256 ∧
      (thr { subs := [{ idx := 0, ord := 0, sent := 0, ptr := 0, hit := [] }] }).tp.subs ≠ [] := by decide +kernel
/-- The stack below four entries, at four with room in its frame and without; an entry that POP takes and one that it
does not; EMIT; HANDOFF with each of its outcomes. -/
theorem witness_traversal_stack :
    let four := List.replicate 4 (0 : BitVec 128)
    let room : List Quad := [0, 0, 0, 0, 0, 0, BitVec.ofNat 64 (2 ^ 57 + 160)]
    let nohand : List Quad := [0, 0, 0, 0, 0, 0, 0, 512]
    (thr {}).tp.stk.length < 4 ∧ (thr { stk := four }).tp.stk = 0 :: List.replicate 3 0 ∧
      (thr { stk := four }).tp.sd = State.qSFLEN (thr { stk := four }).tp ∧
      (let t := (thr { stk := four, quads := room }).tp
       t.sd ≠ State.qSFLEN t ∧ State.qSF t + 16 * t.sd = 160) ∧
      (let t := (thr { stk := [], quads := room, sd := 1 }).tp
       0 < t.sd ∧ t.stk = [] ∧ State.qSF t + 16 * (t.sd - 1) = 160) ∧
      (0 : BitVec 128).toNat / 2 ^ 126 ≠ 3 ∧ (-1 : BitVec 128).toNat / 2 ^ 126 = 3 ∧ (thr {}).tp.sd = 0 ∧
      ((thr { t := [(1, 160)] }).treg 1).toNat = 160 ∧ 160 % 8 = 0 ∧ ((thr { t := [(1, 161)] }).treg 1).toNat % 8 ≠ 0 ∧
      (thr {}).tp.rmt = false ∧ State.qNOHAND (thr { rmt := true, quads := nohand }).tp = true ∧
      (thr { rmt := true }).linkUp = false ∧
      (let s := { thr { rmt := true } with dev := { State.reset.dev with ports := 1 } }
       s.tp.rmt = true ∧ State.qNOHAND s.tp = false ∧ s.tp.echo = none ∧ s.linkUp = true ∧ s.tp.subs.length < 4) := by
  decide +kernel
/-- Nodes: REMOTE pointers, misaligned ones, a missing line, descriptors that serve and that do not, the three kinds. -/
theorem witness_traversal_nodes :
    let p := fun v => ((thr { t := [(1, v)] }).treg 1).toNat
    let d := fun q0 => DecDesc.ofQuads [q0]
    let kd : Quad := BitVec.ofNat 64 (2 ^ 60 + 2 ^ 50 + 2 ^ 40 + 16 * 2 ^ 32 + 2 ^ 11)
    2 ^ 63 ≤ p (BitVec.ofNat 64 (2 ^ 63)) ∧ 2 ^ 57 ≤ p (BitVec.ofNat 64 (2 ^ 57)) ∧ p (BitVec.ofNat 64 (2 ^ 57)) < 2 ^ 63 ∧
      p 1 % 128 ≠ 0 ∧ p 1 % 32 ≠ 0 ∧ p 128 % 128 = 0 ∧ (d 0).bad = true ∧ (d kd).bad = false ∧ (d kd).kind = 1 ∧
      (let s := { thr { t := [(1, 128)] } with ncache := [] }
       Tbl.get none s.ncache (64 * State.lineOf (State.Tlb.pa page 128) + s.trCluster) = none ∧
         State.findTlb (Tbl.get [] s.l1tlb s.trCore) s.tp.ctx 128 = some page ∧ s.fwRefused s.tp.ctx page 128 = false) ∧
      (thr {}).tp.wide = none ∧ (thr { wide := some { va := 0, bytes := [] } }).tp.wide = some { va := 0, bytes := [] } ∧
      (d (BitVec.ofNat 64 (2 * 2 ^ 60))).kind = 2 ∧ (d 0).kind = 0 ∧ nodeByte [2] 0 ≤ 2 ∧ 2 < nodeByte [3] 0 ∧ 15 < 14 + 2 ∧
      (1 : Nat) % vecBytes 0 ≠ 0 := by decide +kernel

/-- What the words of Completions meet: lanes left at EXIT, slots of each state, a rectangle, monitors, a thread at a triangle,
and a lane that awaits the host. -/
theorem witness_completions :
    let e : State := { one [] [] with grps := [(32, { slots := [(0, { occ := true, run := 3 })] })] }
    let slots := fun (st : SlotState) => ({ one [] [] with blks := [(1, { mx := { hdrs := [(31, { st }), (0, { st })] } })] } : State)
    let w : State := { mem with grps := [(32, { slots := [(0, { occ := true, run := 1, monitor := { ev := true } })] })] }
    let x : ParkedLane := { lane := 0, va := 0, out := some 7, dest := some (1, 0) }
    let h : State := { mem with pending := [{ id := 7, tgt := 1, gid := 32, slot := 0 }],
                                grps := [(32, { slots := [(0, { occ := true, run := 1, wait := .parked, parked := some { lanes := [x] } })] })] }
    (e.sl.run &&& ~~~e.active ≠ 0 ∧ e.sl.occ = true ∧ e.g.par = none ∧ e.g.ended ||| e.active ≠ -1) ∧
      ((one [] []).ctx 1).rfcount = 0 ∧ (one [] []).farSent = [] ∧ (one [] []).pending = [] ∧
      ((one [] []).hdr 1 31).st = .empty ∧ ((slots .claimed).hdr 1 31).st = .claimed ∧ ((slots .claimed).hdr 1 0).st = .claimed ∧
      (one [] []).accSeg 0 31 = .ok (accKey 31 0) ∧ mem.sl.monitor = {} ∧ w.sl.monitor.ev = true ∧
      mem.translatedLeft 1 4 0 (mem.coveredPages 1 4 0) = false ∧ (h.slotAt 32 0).parked = some { lanes := [x] } ∧ x.dest ≠ none ∧
      (thr {}).NodeBytes 0 48 (List.replicate 48 0) ∧ State.leNum (((List.replicate 48 (0 : Byte)).drop 40).take 8) = 0 :=
  ⟨by decide +kernel, by decide +kernel, rfl, rfl, by decide +kernel, by decide +kernel, by decide +kernel, by decide +kernel,
    by decide +kernel, by decide +kernel, by decide +kernel, by decide +kernel, by decide, thr_triangle {}, by decide +kernel⟩

/-- Home messages: entries in each state and each transaction that a message finds. -/
theorem witness_coherence :
    let s := fun (d : DirEntry) (x : Tbl Txn) (l : Tbl L1Line) =>
      ({ State.reset with dev := { State.reset.dev with clmask := 1 }, dirs := [(0, d)], txns := x, lines := l } : State)
    let own : TxnKind := .own 1 true
    Tbl.wf ({} : L1Line) (s {} [] []).lines = true ∧ ((s {} [] []).agentOn 3 = true ∧ (s {} [] []).l1Core 3 0 = 3) ∧
      (s {} [] []).agentOn 4 = false ∧ ((s {} [] []).dir 0).ctr = false ∧
      (let c := s { st := .x, cpe := true, ptrs := [2] } [] []
       (c.dir 0).st = .x ∧ (c.dir 0).cpe = true) ∧ ((s {} [] []).dir 0).coarse = false ∧ ((s {} [] []).dir 0).st = .i ∧
      (s {} [] []).farOf 0 = [] ∧ (s {} [] []).txns.lookup 0 = none ∧ ((s { st := .s, ptrs := [2] } [] []).dir 0).ptrs = [2] ∧
      ((s { st := .x, ptrs := [2] } [] []).dir 0).st = .x ∧ ((s { st := .x, ptrs := [2] } [] []).dir 0).cpe = false ∧
      (s {} [(0, { kind := own })] []).txns.lookup 0 = some { kind := own } ∧
      ((s {} [] [(1, { owned := true })]).l1 1 0).owned = true ∧ (s {} [] []).lineBusy 0 = false ∧
      CohMsg.inv 2 1 ∈ ({ kind := own, msgs := [.inv 2 1] } : Txn).msgs ∧ ((s {} [] []).l1 2 0).dirty = 0 ∧
      (let x : Txn := { kind := own, granted := true, ackn := 1, msgs := [.ack 2 1] }
       CohMsg.ack 2 1 ∈ x.msgs ∧ CohMsg.completion 1 ∉ x.msgs ∧ x.acks + 1 = x.ackn ∧ x.granted = true) ∧
      ({ kind := own, ackn := 2 } : Txn).acks + 1 ≠ 2 ∧ CohMsg.completion 1 ∈ ({ kind := own, msgs := [.completion 1] } : Txn).msgs ∧
      ({ kind := .read 3, msgs := [.recall 2 true] } : Txn).queue = [] ∧ ((s {} [] []).l1 151 0).pins = 0 ∧
      ((s {} [] [(1, { pins := 1 })]).l1 1 0).pins ≠ 0 := by decide +kernel
/-- Reductions sent, with room in the queue of the line and without, and one to apply. -/
theorem witness_far_reductions :
    let r : FarRed := { pa := 0, op := .add, z := true, operand := 1, rm := 0, scope := 3, va := 0, lane := 0, bid := 1, opc := 0 }
    let s := fun q => ({ State.reset with farSent := [r], farQ := q } : State)
    (s []).farSent[0]? = some r ∧ r.cause = 0 ∧ ((s []).farOf 0).length < 15 ∧
      15 ≤ ((s [(0, List.replicate 15 r)]).farOf 0).length ∧ (s [(0, [r])]).farOf 0 = r :: [] ∧ State.lineOf r.pa = 0 ∧
      (s []).lineHeld 0 = false ∧ ((s []).dir 0).ctr = false ∧ (s []).bad 0 (atomBytes true) = false := by decide +kernel
/-- The cause of a walk that fails. -/
def causeOf (r : Except (Nat × Nat × Nat) Tlb) : Option Nat :=
  match r with
  | .error e => some e.1
  | .ok _ => none
/-- Fault records: a ring with room and a full one, in device and in host memory; a fault that a RESOLVE covers and one that
it does not; a walk that ends at each kind of outcome. -/
theorem witness_fault_unit :
    let r : FaultRec := { va := 4096, ctx := 1, party := .split 32 0 }
    let s := fun (tail base : Quad) => ({ mem with
      dev := { mem.dev with bootDone := true },
      flt := { ringbase := base, ringsize := 4, tail, held := [r], open_ := [r], resva := 4096 },
      grps := [(32, { slots := [(0, { occ := true, run := 1, wait := .parked, parked := some { lanes := [{ lane := 0, va := 4096 }] } })] })] } : State)
    let n := 2 ^ (s 0 0).fltBits
    let put := fun m a e => State.putBytes m a (State.toLe 8 e)
    let pte : Tbl Byte := put (put (put [] 4096 8193) 8192 12289) 12288 59
    (s 0 0).flt.held = [r] ∧ ((s 0 0).flt.tail.toNat % n + 1) % n ≠ (s 0 0).flt.head.toNat % n ∧
      ((s (BitVec.ofNat 64 (n - 1)) 0).flt.tail.toNat % n + 1) % n = 0 ∧ (s 0 0).flt.ringbase.getLsbD 63 = false ∧
      (s 0 (BitVec.ofNat 64 (2 ^ 63))).flt.ringbase.getLsbD 63 = true ∧ (s 0 0).lineHeld 0 = false ∧ (s 0 0).farQ = [] ∧
      State.reset.flt.held = [] ∧ (s 0 0).dev.bootDone = true ∧ (s 0 0).dev.posted = [] ∧ (s 0 0).flt.open_ = [r] ∧
      ((s 0 0).blk (32 / 32)).phase ≠ .swapped ∧ ((s 0 0).slotAt 32 0).parked.isSome = true ∧
      (r.ctx = (0x10004 : Nat) / 2 ^ 16 % 2 ^ 16 ∧ (0x10004 : Nat) % 8 = 4) ∧ r.va / 2 ^ 12 = 4096 / 2 ^ 12 ∧ ¬ r.ctx = 2 ∧
      Tbl.wf [] (s 0 0).l1tlb = true ∧ Tbl.wf [] (s 0 0).l2tlb = true ∧ ((s 0 0).dir 0).ctr = false ∧ (s 0 0).bad 0 128 = false ∧
      ((s 0 0).slotAt 32 0).parked = some { lanes := [{ lane := 0, va := 4096 }] } ∧
      (∃ c ∈ ({ s 0 0 with cards := [(1, { since := some 0 })] } : State).cards, c.2.since.isSome = true) ∧
      (let i : State := { s 0 0 with flt := { (s 0 0).flt with invalidating := [(1, 4, 0, [])] } }
       i.translatedLeft 1 4 0 [] = false ∧
         ({ i with farSent := [{ pa := 0, op := .add, z := true, operand := 1, rm := 0, scope := 3, va := 0, lane := 0, bid := 1, opc := 0, ctx := 1 }] } : State).translatedLeft 1 4 0 [] = true) ∧
      (State.walk mem 1 0).toOption = none ∧ mem.pteRefused 1 0 = false ∧ causeOf (State.walk mem 1 0) = some 1 ∧
      (let e : State := { mem with ctxs := [(1, { ptroot := 4096 })], poison := [(4096 / 32, true)], dev := { mem.dev with chmask := 1 } }
       causeOf (e.walk 1 0) = some 4) ∧
      (let w : State := { mem with mem := pte, dev := { mem.dev with chmask := 1 }, ctxs := [(1, { ptroot := 4096 })] }
       (w.walk 1 0).toOption = some { page with size := 30 } ∧ w.fwRefused 1 { page with size := 30 } 0 = false) := by decide +kernel
/-- A replay: a load parked for lane 0, its fault resolved. -/
theorem witness_replay :
    let w : Again := { word := .ld .w { vm0 with off := 63 }, active := 1, mm := false, snap := [] }
    let x : ParkedLane := { lane := 0, va := 0 }
    let p : Parked := { lanes := [x], resolved := true }
    let s : State := { mem with
      grps := [(32, { slots := [(0, { occ := true, run := 1, again := some w, parked := some p })] })] }
    let u : State := { s with issue := { gid := 32, slot := 0 } }
    (s.slotAt 32 0).again = some w ∧ w.cells = [] ∧ (s.slotAt 32 0).waitFor = .none ∧ (s.slotAt 32 0).held = false ∧
      (p.resolved = true ∧ p.pages = [] ∧ p.errs = 0 ∧ x.dest = none ∧ x.half = 0 ∧ x.out = none ∧ x.err = false) ∧
      (s.blk 1).stopped = false ∧ (s.blk 1).poisoned = false ∧ s.gatedPart (s.blk 1).core (s.partOf 32) = false ∧
      Tbl.get ({} : Port) s.ports (State.portKey (s.blk 1).core (s.partOf 32) 0) = {} ∧ (s.dir 0).ctr = false ∧
      s.issue.upTo = none ∧ (s.card (s.blk 1).card).invs = [] ∧ (s.slotAt 32 0).occ = true ∧ (s.slotAt 32 0).wait = .ready ∧ w.active ≠ 0 ∧
      (s.slotAt 32 0).parked = some p ∧ p.lanes = [x] ∧ (s.blk 1).phase = .resident ∧ (s.partAt (s.blk 1).core (s.partOf 32)).gate = .on ∧
      u.Cached .read 0 0 0 ∧ s.blocked 0 0 4 = false ∧ s.bad 0 4 = false :=
  ⟨rfl, rfl, rfl, rfl, by decide, rfl, rfl, by decide +kernel, by decide +kernel, rfl, rfl, rfl, rfl, rfl, by decide, rfl, rfl, rfl, by decide +kernel, ⟨page, rfl, rfl, rfl, rfl, rfl⟩, by decide +kernel⟩
/-- Copies at work: a segment of a row that translates, one that faults, and a listed one. -/
theorem witness_copy_segments :
    let side : CopySide := { kind := 0, start := 0 }
    let k : Copy := { bid := some 1, gid := 32, slot := 0, core := 0, cslot := 0, ctx := 1, card := 1, quads := [], src := side,
                      dst := { kind := 0, start := 256 }, rowb := 64, nrow := 1 }
    let f : FixRange := { first := 0, count := 1, row := 0, off := 0 }
    let s := fun k => ({ mem with copies := [(0, k)] } : State)
    let far : Copy := { k with src := { kind := 0, start := 8192 } }
    (k.withdrawn = false ∧ (s k).farSent = [] ∧ (s k).farQ = [] ∧ k.src.kind = 0 ∧ k.src.rows = [] ∧ k.dst.rows = [] ∧ k.owned = [] ∧
      k.part = [] ∧ k.dst.kind ≤ 1 ∧ ((s k).dir 0).ctr = false ∧ ((s k).dir 2).ctr = false ∧ State.lineHeld (s k) 2 = false ∧
      (s k).bad 256 64 = false ∧ k.fix = [] ∧ f.count = 1) ∧
      (let late : State := { s { k with fix := [f] } with flt := { (s k).flt with open_ := [{ va := 0, ctx := 1, party := .copy 0 }] } }
       ∃ r ∈ late.flt.open_, r.party = .copy 0 ∧ r.va = k.src.start + f.row * k.src.stride + f.off) ∧
      (s k).copy 0 = some k ∧ (s k).segXlate k 0 0 = (.ok ((0, 0), (0, 256)), s k) ∧
      State.lineHeld (s k) 0 = false ∧ (s k).bad 0 64 = false ∧ k.row < k.nrow ∧ k.bar = none ∧
      (s far).segXlate far 0 0 = (.error (1, 4, 0), s far) ∧ ({ k with fix := [f], row := 1 } : Copy).fix = [f] ∧ (∀ r ∈ (s k).flt.open_, r.party ≠ .copy 0) ∧ ({ k with dst := { kind := 1, start := 0, bids := [1] } } : Copy).dst.bids = [1] := by
  decide +kernel

/-- A listed segment that is due: one that translates now, and one that faults again. -/
theorem witness_copy_replay :
    let side : CopySide := { kind := 0, start := 0 }
    let f : FixRange := { first := 0, count := 1, row := 0, off := 0, due := some 0 }
    let k := fun src => ({ bid := some 1, gid := 32, slot := 0, core := 0, cslot := 0, ctx := 1, card := 1, quads := [], src := { side with start := src },
                           dst := { kind := 0, start := 256 }, rowb := 64, nrow := 1, row := 1, fix := [f] } : Copy)
    let s := fun k => ({ mem with copies := [(0, k)] } : State)
    (s (k 0)).segXlate (k 0) 0 0 = (.ok ((0, 0), (0, 256)), s (k 0)) ∧
      (s (k 8192)).segXlate (k 8192) 0 0 = (.error (1, 4, 0), s (k 8192)) ∧ (k 0).fix = [f] ∧ 0 < f.count := by decide +kernel

/-- The SSU: a descriptor that asks for nothing possible, one of five elements; a command done, and one to report. -/
theorem witness_ssu :
    let cmd : SsuCmd := { gid := 32, bid := 1, ctx := 1, card := 1, va := 0, isSplat := false, cap := fullCap }
    let b : Block := { phase := .resident, gangIds := [1], ctx := 1, card := 1, desc := { nreg := 15, scr := 1, nbar := 1 } }
    let s := fun c => ({ mem with blks := [(1, b)], ssus := [(0, [c])] } : State)
    let done : SsuCmd := { cmd with started := true, sts := 16, record := [1, 2] }
    Tbl.get [] (s cmd).ssus 0 = cmd :: [] ∧ (s cmd).farSent = [] ∧ (s cmd).pending = [] ∧ ((s done).blk 1).stopped = false ∧
      (let c : SsuCmd := { cmd with nbar := 1, scrKib := 1 }
       ssuBar (fun _ => 0) < c.nbar ∧ 8 * c.nbar ≤ 16 ∧ 16 + 16 ≤ 1024 * c.scrKib) ∧ cmd.started = false ∧ (s cmd).ssuHeld 0 = false ∧
      (s cmd).engRead (some ((s cmd).blk 1).core) 1 0 64 = (.ok (List.replicate 64 0, false), s cmd) ∧
      (let q : Nat → Nat := fun _ => 0
       (SelkDesc.ofQuads q).k = 0 ∧ ssuBar q < 1) ∧
      done.started = true ∧ (s done).ssuHeld 0 = false ∧ done.glob = [] ∧ done.scr = [] ∧ Tbl.has (s done).blks 1 = true ∧
      done.record.length = 2 ∧ ((s done).blk 1).desc.nbar * 8 ≤ done.sts ∧ done.bar < ((s done).blk 1).desc.nbar ∧
      ({ done with report := true } : SsuCmd).report = true := by decide +kernel
/-- 12 R251's example: the three largest of 3, 7, 7, 1, 9, with a descriptor that meets every premise of SELK. -/
def selk : State :=
  let put := fun m a e => State.putBytes m a (State.toLe 8 e)
  let words := State.putBytes [] 64 ([3, 7, 7, 1, 9].flatMap (State.toLe 4))
  { mem with
    mem := put (put (put (put (put (put words 0 64) 8 128) 16 192) 24 (3 * 2 ^ 32 + 5)) 32 (2 ^ 15 + 2 ^ 12)) 40 16,
    blks := [(1, { phase := .resident, gangIds := [1], ctx := 1, card := 1, desc := { nreg := 15, scr := 1, nbar := 1 } })],
    ssus := [(0, [{ gid := 32, bid := 1, nbar := 1, scrKib := 1, ctx := 1, card := 1, va := 0, isSplat := false, cap := fullCap }])] }
theorem test_selk :
    after (exec (.ssuCommandStart 0) selk) (fun t => (Tbl.get [] t.ssus 0).map fun x => (x.glob, x.record)) =
      some [([(128, State.toLe 4 4 ++ State.toLe 4 1 ++ State.toLe 4 2), (192, State.toLe 4 9 ++ State.toLe 4 7 ++ State.toLe 4 7)],
        [3, 0x4080000041B80000])] := by decide +kernel
theorem witness_selk :
    let q := fun i => State.leNum ((selk.peekBytes 0 64 |>.drop (8 * i)).take 8)
    let d := SelkDesc.ofQuads q
    selk.engRead (some 0) 1 0 64 = (.ok (selk.peekBytes 0 64, false), selk) ∧ d.resv = false ∧ ssuSts false q = 16 ∧
      d.type ≤ 5 ∧ (d.k, d.n) = (3, 5) ∧ d.src % selkBytes d.type = 0 ∧ d.oidx % 4 = 0 ∧
      State.ssuRangesOk { gid := 32, bid := 1, ctx := 1, card := 1, va := 0, isSplat := false, cap := fullCap }
        [(d.src, 20, pLOAD), (d.oidx, 12, pSTORE), (d.oval, 12, pSTORE)] = true ∧
      selk.engRead (some 0) 1 d.src 20 = (.ok (selk.peekBytes 64 20, false), selk) ∧ State.meets d.oidx 12 d.src 20 = false ∧
      State.meets d.oval 12 d.src 20 = false ∧ State.meets d.oidx 12 d.oval 12 = false := by decide +kernel
/-- A query, a node that threads miss, a sub-query from a known and an unknown context, results and lost sub-queries. -/
theorem witness_queries_at_work :
    let r : QueryRec := { ctx := 1, card := 1, block := 0, va := 0, quads := List.replicate 8 0, cap := fullCap }
    let x : SubOut := { idx := 0, ord := 0, sent := 0, ptr := 0, hit := [] }
    let s : State := { mem with dev := { mem.dev with clmask := 1, fwcol := 18 }, ingress := [(0, [r])], trps := [(1, { phase := .run, miss := some 0, subs := [x] })],
                                ctxs := [(1, { exist := true, pairctx := 7 })] }
    let w := 2 ^ 48 + 4 * 2 ^ 16
    (s.trpAt (64 * 0 + 63)).phase = .free ∧ Tbl.get [] s.ingress 0 = r :: [] ∧
      (s.lineHeld 0 = false ∧ (s.dir 0).ctr = false ∧ ∃ p ∈ s.trps, p.1 / 256 = 0 ∧ p.2.miss = some 0) ∧
      (w / 2 ^ 48 % 2 ^ 16 ≠ 0 ∧ (s.ctx 1).exist = true ∧ (s.ctx 1).pairctx = 7 ∧ w / 2 ^ 38 % 4 = 0 ∧
        w / 2 ^ 19 % 2 ^ 11 = 0 ∧ w / 2 % 2 ^ 15 = 0 ∧ w / 2 ^ 16 % 8 ≤ 4) ∧
      ¬ (s.ctx 1).pairctx = 8 ∧ (s.trpAt 1).subs = x :: [] ∧ ¬ x.sent + 2 ^ 24 < s.clock ∧
      (let c : State := { s with dirs := [(0, { ctr := true })] }
       c.clusterOn 0 = true ∧ c.lineHeld 0 = false ∧ (c.dir 0).ctr = true) ∧
      (s.clusterOn 0 = true ∧ s.farQ = [] ∧ 0 ∈ s.computeClusters ∧ (s.ctx 1).fw = false) ∧
      (let late : State := { s with clock := 2 ^ 24 + 1 }
       x.sent + 2 ^ 24 < late.clock ∧ (late.trpAt 1).echo = none ∧
         (Tbl.get [] late.cqs (4 * (1 / 256) + State.qField (late.trpAt 1) 7 0 2)).length < 256) := by decide +kernel
theorem witness_query_record : State.queryOk [0, 0, 0, 0, 0, 0x1000, 0, 0] = true := by decide +kernel
/-- The sequencer's fetch, served and faulting; JOBPOST's wait on a full and on an open ring. -/
theorem witness_stream_fetch :
    let b : Block := { phase := .resident, gangIds := [1], ctx := 1, card := 1, desc := { mxs := true, stream := 8 } }
    let on : State := { mem with cards := [(1, { since := some 0 })] }
    let s : State := { on with blks := [(1, b)] }
    let far : State := { on with blks := [(1, { b with mx := { seq := { pc := 8192 } } })] }
    let j := fun tail => ({ mem with queues := [(0, { tail })], grps := [(32, { slots := [(0, { occ := true, run := 1, waitFor := .jobpost 0 })] })] } : State)
    s.seqLive 1 = true ∧ (s.seq 1).word = none ∧ (s.card 1).since = some 0 ∧ s.heldFrom (some 0) 1 = 0 ∧
      s.fetch (s.blk 1).core 1 (s.seq 1).pc 8 (some 0) = (.ok (List.replicate 8 0), s) ∧
      far.seqLive 1 = true ∧ (far.card 1).since = some 0 ∧ far.fetch 0 1 (far.seq 1).pc 8 (some 0) = (.fault 1 4, far) ∧
      ((j 0).slotAt 32 0).waitFor = .jobpost 0 ∧ (((j 15).queue 0).tail.toNat + 1) % 16 = ((j 15).queue 0).head.toNat % 16 := by
  decide +kernel
/-- Gates, hangs, thermal limits, Deckle's target and its waiting list. -/
theorem witness_power :
    let s := fun (p : Part) => ({ mem with parts := [(0, p)] } : State)
    let all : State := { mem with parts := [(0, { idle := 1500000 }), (1, { gate := .power }), (2, { gate := .power }), (3, { gate := .power })] }
    let line := fun (q1 : Nat) => (State.reset.setCq State.deckleAt 0 5).setCq State.deckleAt 1 q1
    let wait : State := { line (2 ^ 63 + 2 ^ 61) with ctrWait := [(64, [{ who := .headbox 1, n := 5 }])] }
    let free : State := { line (2 ^ 63) with dev := { State.reset.dev with bootDone := true } }
    let off : State := { State.reset with pwr := { State.reset.pwr with trip := true } }
    ((s { idle := 75000 }).partAt 0 0).gate = .on ∧ (s { idle := 75000 }).pwr.gate.toNat ≤ 75000 ∧
      ((s { gate := .clock }).partAt 0 0).gate ≠ .on ∧ (s {}).pwr.gate.toNat > 0 ∧ (s { idle := 1500000 }).pwr.pgate.toNat ≤ 1500000 ∧
      (all.partAt 0 3).gate = .power ∧ (all.partAt 0 2).gate = .power ∧ (all.partAt 0 1).gate = .power ∧
      (all.partAt 0 0).gate ≠ .power ∧ all.allowsOf 0 = [] ∧ Tbl.get none all.fused 0 = none ∧
      (s { gate := .clock }).candidates 0 0 ≠ [] ∧ mem.hangCounts 1 = true ∧ State.reset.hangCounts 1 = false ∧
      State.reset.pwr.tjtrip.toNat ≤ 105 ∧ 104 < State.reset.pwr.tjtrip.toNat ∧ 94 + 10 < State.reset.pwr.tjtrip.toNat ∧
      (120 : Nat) ≤ 120 ∧ (200 ≤ (520 : Quad).toNat ∧ (520 : Quad).toNat ≤ 520) ∧ ((199 : Quad).toNat < 200 ∨ 520 < 199) ∧
      (60 ≤ (60 : Quad).toNat ∧ (60 : Quad).toNat ≤ 100) ∧ ((101 : Quad).toNat < 60 ∨ 100 < (101 : Quad).toNat) ∧
      State.reset.waitsOn State.deckleAt = [] ∧ State.reset.pwr.budget.toNat < 521 ∧ 10 * 467 < 9 * State.reset.pwr.budget.toNat ∧
      ({ State.reset.hbx with waitedInPeriod := true } : Headbox).waitedInPeriod = true ∧
      (free.handOver = false ∧ free.waitsOn State.deckleAt = [] ∧ free.ctrInit State.deckleAt = true ∧
        free.ctrCentral State.deckleAt = false ∧ free.allows = []) ∧ wait.ctrCentral State.deckleAt = true ∧
      (off.pwr.tripBelow = none ∧ ({ off.pwr with tripBelow := some 0 } : Power).tripBelow = some 0 ∧ 0 + 750000 ≤ 750000) ∧
      (∀ m ∈ all.ctrMsgs, m.core ≠ 0) ∧ all.txns = [] ∧ (∀ k, k < 8 → mem.sectorBad k = false) ∧ Tbl.get false all.left 0 = false ∧
      (mem.blk 1).hangFrom + mem.pwr.hang.toNat ≤ 2 ^ 64 ∧ mem.poison = [] ∧
      wait.waitsOn State.deckleAt = { who := .headbox 1, n := 5 } :: [] ∧ 5 ≤ wait.deckle ∧ ¬ 6 ≤ wait.deckle := by decide +kernel

/-- The host's accesses: below the firmware end, inside and above the usable memory, and the peer's window. -/
theorem witness_host :
    let s : State := { State.reset with dev := { State.reset.dev with bootDone := true, chmask := 1, f := 1, winbase := 0x80000000, winlim := 0x90000000 } }
    let o : State := { State.reset with pending := [{ id := 1, tgt := 2, gid := 32, slot := 0, write := some (0, [1]) }] }
    let m : State := { mem with grps := [(32, { slots := [(0, { occ := true, run := 1, waitFor := .mwait, monitor := { remote := [(1, 0, 5)] } })] })] }
    State.reset.dev.bootDone = false ∧ (s.dev.bootDone = true ∧ s.dev.posted = [] ∧ s.farQ = []) ∧
      s.fwEnd ≤ 0x80000000 ∧ 0x80000000 + 4 ≤ s.usable ∧ 4 + 4 ≤ s.fwEnd ∧ s.usable ≤ 2 ^ 40 ∧ s.dev.fwref ≠ 0xFFFFFFFF ∧
      s.lineHeld (0x80000000 / 128) = false ∧ (s.dir (0x80000000 / 128)).ctr = false ∧ s.bad 0x80000000 8 = false ∧
      (s.dev.winbase.toNat ≤ 0x80000000 ∧ 0x80000000 + 4 ≤ s.dev.winlim.toNat) ∧ ¬ s.dev.winbase.toNat ≤ 0x7FFFFFFF ∧
      o.pending = [{ id := 1, tgt := 2, gid := 32, slot := 0, write := some (0, [1]) }] ∧
      (∃ x ∈ (m.slotAt 32 0).monitor.remote, BitVec.ofNat 32 (State.leNum (m.tgtBytes x.1 x.2.1 4)) ≠ x.2.2) ∧
      (mem.slotAt 32 0).monitor.remote = [] ∧
      (let r : State := { mem with grps := [(32, { slots := [(0, { occ := true, run := 1, monitor := { remote := [(2, 0, 5)] } })] })] }
       (r.slotAt 32 0).monitor.remote = [(2, 0, 5)] ∧ r.linkUp = false) ∧ (∀ x ∈ (m.slotAt 32 0).monitor.remote, m.tgtBad x.1 x.2.1 4 = false) ∧
      Tbl.has ({ State.reset with dev := { State.reset.dev with outputs := [(3, { tenBit := true })] } } : State).dev.outputs 3 = true := by
  decide +kernel
/-- Boot: held and not held, a table that does not verify; the configuration space 10 ms after PERST#. -/
theorem witness_boot :
    State.reset.dev.boot = .held ∧ ({ State.reset.dev with boot := .failed } : Dev).boot ≠ .held ∧
      (0 : Nat) + 1500000 < 1500001 ∧
      (let i : BootInput := { sku120 := true, clMask := -1, chFuse := -1, table := State.toLe 8 0x5A4C394300000000 ++ State.toLe 8 (2 ^ 19 + 2 ^ 10) ++ State.toLe 8 0xE4 ++ List.replicate 40 0, tableSigOk := true, image := [],
                              imageVer := 0, imageSigOk := true, rom := [], trained := 1, carveOk := true }
       i.table.length = 64 ∧ (BootTable.ofQuads (quadsOf i.table)).ok (quadsOf i.table) i.clMask = true ∧ (BootTable.ofQuads (quadsOf i.table)).minver ≤ i.imageVer.toNat ∧ (i.chFuse &&& i.trained) ≠ 0) := by
  decide +kernel
/-- The mailbox: free, busy, with a command done, with a commit of a staged image; contexts that exist and that do not. -/
theorem witness_mailbox :
    let d : Dev := { State.reset.dev with bootDone := true, chmask := 1, c := 1 }
    let s := fun (d : Dev) => ({ State.reset with dev := d } : State)
    let c : State := { s { d with arg0 := 1 } with ctxs := [(1, { endDone := true })] }
    (s d).dev.mbox = none ∧ (s d).dev.fwerr = false ∧ (s { d with mbox := some (some 1) }).dev.mbox ≠ none ∧
      ¬ ((0x8000000000000001 : Quad).toNat % 256 = 6 ∧ (1 : Nat) = 0) ∧ (6 : Quad).toNat % 256 = 6 ∧
      (s { d with staged := some (1, 2) }).dev.staged = some (1, 2) ∧ (1 : Nat) % 128 ≠ 0 ∧ 128 + 128 ≤ (s d).usable ∧
      (s d).lineHeld 1 = false ∧ (s d).bad 128 128 = false ∧ Tbl.has c.ctxs 1 = true ∧ (c.ctx 1).endDone = true ∧
      ((s d).ctx 2).endDone = false ∧ (∃ x ∈ c.ctxs, x.2.fw = false) ∧ (∀ x ∈ (s d).ctxs, x.2.fw = true) ∧ 1 ≤ 512 ∧
      (s d).badCtxDesc (List.replicate 16 0) = true ∧
      (s d).badCtxDesc ([1, 0, 0, 0x40000000001, 8192] ++ List.replicate 11 0) = false ∧ 4 ≤ 4 ∧ 4096 % 4096 = 0 ∧ 4096 < (s d).usable ∧ 704 ≤ (s d).usable := by
  decide +kernel

/-- A card: its read and its checks, its step by kind, its end. -/
theorem witness_cards :
    let q0 := fun (kind : Nat) => BitVec.ofNat 64 kind
    let k := fun (p : CardPhase) (quads : List Quad) => ({ phase := p, ctx := 1, va := 0, queue := 0, quads } : Card)
    let qu : Queue := { en := true, ctx := 1, card := some 1 }
    let s := fun (x : Card) (qu : Queue) => ({ mem with dev := { mem.dev with bootDone := true }, queues := [(0, qu)], cards := [(1, x)] } : State)
    let f := s (k .fetch []) qu
    f.readable 0 = true ∧ (f.card 1).rereadAt = none ∧ (f.card 1).phase = .fetch ∧
      ((f.queue 0).rel = none ∧ (f.queue 0).ready = [] ∧ (f.queue 0).card = some 1 ∧ (s { k .fetch [] with fromRing := true } qu |>.card 1).fromRing = true) ∧
      (let r := s (k .fetch []) { qu with rel := some 1, card := none }
       r.readable 0 = true ∧ (r.queue 0).rel = some 1 ∧ (r.queue 0).card = none ∧ (r.card 1).fromRing = false) ∧
      (f.card 1).fltWait = false ∧ cardOk (List.replicate 128 0) = false ∧ (f.card 1).fails < 3 ∧
      3 ≤ ((s { k .fetch [] with fails := 3 } qu).card 1).fails ∧
      ((s { k .fetch [] with rereadAt := some 5 } qu).card 1).rereadAt = some 5 ∧ f.clock < 5 ∧
      (s (k .armed []) qu).clock + 0 < 1 ∧ ((s { k .running [] with succ := some [] } qu).card 1).succ = some [] ∧
      ((s { k .running [] with live := 1 } qu).card 1).live ≠ 0 ∧ (f.card 1).desc = none ∧ State.reset.chooseQueue = none ∧
      Tbl.has f.cards 1 = true ∧ q0 0 = 0 := by decide +kernel

/-! ### Cards, swap-out and contexts -/

set_option maxRecDepth 100000

/-- A table at 0x8000 that stands for levels 4 to 1, and whose second entry maps page 1 to itself. -/
def tables : Tbl Byte :=
  State.putBytes (State.putBytes [] 0x8000 (State.toLe 8 (0x8000 + 1))) 0x8008 (State.toLe 8 (0x1000 + 0x3B))
/-- Card 1 of queue 0 in context 1, with its own tables; the card stands at 0x1000. -/
def carded (k : Card) (qu : Queue) : State :=
  { mem with dev := { mem.dev with bootDone := true, chmask := 1, clmask := 1, fwcol := 18, p := 500 }, mem := tables,
             ctxs := [(1, { exist := true, ptroot := 0x8000, nframe := 1, stride := 8, pool := 0x100000 })],
             queues := [(0, { qu with en := true, ctx := 1, card := some 1 })], cards := [(1, { k with ctx := 1, va := 0x1000 })] }
def cardOf (kind : Nat) (l : List Quad) : Card :=
  { phase := .ready, quads := (BitVec.ofNat 64 (2 ^ 63 + kind * 2 ^ 56) : Quad) :: l }
/-- What a read of the Headbox gives. -/
def gets (s : State) (va n : Nat) (bs : List Byte) : Bool :=
  match s.engRead none 1 va n with
  | (.ok (b, bad), t) => b == bs && !bad && t == s
  | _ => false
theorem gets_reads {s : State} {va n : Nat} {bs : List Byte} (h : gets s va n bs = true) :
    s.engRead none 1 va n = (.ok (bs, false), s) := by
  unfold gets at h
  split at h
  · simp_all
  · cases h
/-- What a write of the Headbox leaves alone. -/
def puts (s : State) (va : Nat) (bs : List Byte) : Bool :=
  match s.engWrite none 1 va bs with
  | (.ok (), u) => u.dev == s.dev && u.hbx == s.hbx && u.cards == s.cards && u.queues == s.queues && u.clock == s.clock
  | _ => false
theorem puts_writes {s : State} {va : Nat} {bs : List Byte} (h : puts s va bs = true) :
    ∃ u, s.engWrite none 1 va bs = (.ok (), u) ∧ u.cards = s.cards ∧ u.queues = s.queues ∧ u.hbx = s.hbx ∧ u.dev = s.dev ∧
      u.clock = s.clock := by
  unfold puts at h
  split at h
  · exact ⟨_, ‹_›, by simp_all⟩
  · cases h

theorem witness_card_served :
    (carded (cardOf kCHAIN []) {}).isServed 1 kCHAIN = true ∧ (carded (cardOf kSIGNAL []) {}).isServed 1 kSIGNAL = true ∧
      (carded (cardOf kCOPY []) {}).isServed 1 kCOPY = true ∧ (carded (cardOf kWATCH []) {}).isServed 1 kWATCH = true ∧
      (carded { cardOf kTASK [] with desc := some {} } {}).isServed 1 kTASK = true ∧
      copyCapOk (cardOf kCOPY []) = true ∧ copyCapOk { cardOf kCOPY [0, 0, 0, 0, 128] with dev := some {} } = false := by
  decide +kernel
/-- SIGNAL's word and WATCH's word are in page 1; WATCH for 0 matches, for 1 it does not. -/
theorem witness_signal_watch :
    let a := fun (k : Nat) => carded (cardOf k [0, 0, 0x1008, 1]) {}
    let s' := fun (k : Nat) => ({ a k with hbx := { (a k).hbx with lastServed := 0 } } : State)
    puts (s' kSIGNAL) 0x1008 (State.toLe 8 1) = true ∧ gets (s' kWATCH) 0x1008 8 (List.replicate 8 0) ∧ (0 + 2 ^ 64 - 0) % 2 ^ 64 < 2 ^ 63 ∧
      ¬ (0 + 2 ^ 64 - 1) % 2 ^ 64 < 2 ^ 63 ∧ (a kWATCH).armedCount < 32 ∧ ((a kWATCH).card 1).phase = .ready := by
  decide +kernel
/-- An armed card: its reread, and its time-out, one clock before and on the clock. -/
theorem witness_watch_armed :
    let k := { cardOf kWATCH [0, 0, 0x1008, 1, 1] with phase := .armed, armedAt := 0 }
    let s := fun (c : Nat) => ({ carded k {} with clock := c } : State)
    ((s 1024).card 1).phase = .armed ∧ ((s 1024).card 1).fltWait = false ∧ ((s 1024).card 1).lastRead + 1024 ≤ (s 1024).clock ∧
      gets (s 1024) 0x1008 8 (List.replicate 8 0) ∧ 0 + 1024 * 1 ≤ (s 1024).clock ∧ (s 1023).clock < 0 + 1024 * 1 := by
  decide +kernel
/-- The card's own bytes: none (torn), a card that breaks a rule (NEXT with bit 57), and a good one released to the queue. -/
theorem witness_card_fetch :
    let e := carded { phase := .fetch } {}
    let at_ := fun (q : List (Nat × Quad)) => ({ e with mem := q.foldl (fun m p => State.putBytes m (0x1000 + 8 * p.1) (State.toLe 8 p.2.toNat)) tables } : State)
    let g := at_ [(0, 0x8400000000000000), (13, 3702152623)]
    let b := at_ [(0, 0x8400000000000000), (2, 0x0200000000000000), (13, 2242940950)]
    let gb := g.peekBytes 0x1000 128
    let bb := b.peekBytes 0x1000 128
    gets e 0x1000 128 (List.replicate 128 0) = true ∧ cardOk (List.replicate 128 0) = false ∧ g.readable 0 = true ∧
      gets g 0x1000 128 gb = true ∧ cardOk gb = true ∧
      badCard (quadsOf gb) ((g.queue (cardQsel (quadsOf gb))).ctx == 1) = false ∧
      gets b 0x1000 128 bb = true ∧ cardOk bb = true ∧
      badCard (quadsOf bb) ((b.queue (cardQsel (quadsOf bb))).ctx == 1) = true := by decide +kernel
/-- A card of the ring, with no predecessor left and with one: what SEEN's write leaves alone. -/
theorem witness_ring_card :
    let e := carded { phase := .fetch, fromRing := true } {}
    let quads : Nat → List (Nat × Nat) := fun preds => [(0, 0x8400000000000000), (1, preds), (13, 3702152623)]
    let put := fun (m : Tbl Byte) (p : Nat × Nat) => State.putBytes m (0x1000 + 8 * p.1) (State.toLe 8 p.2)
    let at_ := fun (preds : Nat) => ({ e with mem := (quads preds).foldl put tables } : State)
    let fine := fun (n : Nat) =>
      let g := at_ n
      let bs := g.peekBytes 0x1000 128
      let w := State.leNum ((bs.drop 8).take 4)
      g.readable 0 = true ∧ gets g 0x1000 128 bs = true ∧ cardOk bs = true ∧
        badCard (quadsOf bs) ((g.queue (cardQsel (quadsOf bs))).ctx == 1) = false ∧ w % 2 ^ 31 = n ∧
        puts g (0x1000 + 8) (State.toLe 4 (w % 2 ^ 31 + 2 ^ 31)) = true
    fine 0 ∧ fine 2 := by decide +kernel
/-- The reread of a torn card, three clocks late. -/
theorem witness_card_reread :
    let s := ({ carded { phase := .fetch, rereadAt := some 0, fails := 2 } {} with clock := 3 } : State)
    let w := s.updCard 1 fun y => { y with rereadAt := none }
    s.readable 0 = true ∧ (s.card 1).rereadAt = some 0 ∧ ((s.queue 0).rel = none ∧ (s.queue 0).card = some 1) ∧ (s.card 1).fltWait = false ∧ 0 ≤ s.clock ∧
      (s.card 1).phase ≠ .entry ∧ (s.card 1).fails < 3 ∧ gets w 0x1000 128 (List.replicate 128 0) := by decide +kernel
/-- A card on the ready list that was passed over, beside a card of the ring. -/
theorem witness_card_released :
    let x : Queue := { ready := [(1, 0x1000), (1, 0x1080)], passed := [(0x1000, some {}, 7)] }
    let s := carded { phase := .tokens } x
    let d := s.freshId s.cards
    let w := ((((s.updQueue 0 fun y => { y with passed := [] }).takeId d).setCard d
      { phase := .fetch, ctx := 1, va := 0x1000, queue := 0, dev := some {} }).updQueue 0 fun y => { y with rel := some d, cur := BitVec.ofNat 57 0x1000 })
    s.readable 0 = true ∧ (s.queue 0).rel = none ∧ (s.queue 0).ready = (1, 0x1000) :: [(1, 0x1080)] ∧ (s.queue 0).ctx = 1 ∧
      (s.queue 0).passed = [(0x1000, some {}, 7)] ∧ gets w 0x1000 128 (List.replicate 128 0) = true := by decide +kernel
/-- GRID with its descriptor read: a block of one group fits core 0; a CHAIN card at the head of the queue chosen. -/
theorem witness_dispatch :
    let d : Desc := { nreg := 15, scr := 1, nbar := 64 }
    let s := carded { cardOf kGRID [0, 0, 0, 1] with desc := some d } {}
    let calm := fun (s : State) => s.noteWaiting.readyGangs s.noteWaiting.stepPrio = [] ∧ s.noteWaiting.dueGang s.noteWaiting.stepPrio = none
    let e : State := { s with blks := [] }
    let c := carded (cardOf kCHAIN []) {}
    calm e ∧ e.noteWaiting.chooseQueue = some 0 ∧ e.noteWaiting.servedCard 0 = some 1 ∧ cardKind (e.card 1).quads = kGRID ∧
      State.cardRoom { e.noteWaiting with hbx := { e.hbx with lastServed := 0 } } (e.card 1) d = some [0] ∧
      Tbl.get none e.fused (0 / 4) = none ∧ calm c ∧ c.noteWaiting.chooseQueue = some 0 ∧ c.noteWaiting.servedCard 0 = some 1 ∧ cardKind (c.card 1).quads = kCHAIN ∧
      calm State.reset ∧ State.reset.noteWaiting.chooseQueue = none := by
  decide +kernel
/-- A card whose work has ended, and one whose successors are released. -/
theorem witness_card_complete :
    let s := carded { cardOf kSIGNAL [] with phase := .running } {}
    Tbl.has s.cards 1 = true ∧ (s.card 1).fltWait = false ∧ (s.card 1).succ = none ∧ (s.card 1).live = 0 ∧ (s.card 1).copy = none ∧
      (s.card 1).err = none ∧ cardKind (s.card 1).quads ≠ kTASK ∧ s.unansweredReleased = false ∧ (s.card 1).phase = .running ∧
      puts (s.endInvariants 1) (0x1000 + 112) (State.toLe 8 (1 * 2 ^ 56) ++ State.toLe 8 s.clock) = true := by decide +kernel
/-- Tokens that a completing card gives back to Deckle. -/
theorem witness_card_tokens :
    let s := { carded { cardOf kSIGNAL [] with phase := .running, tokens := 4 } {} with
      mem := ((State.reset.setCq State.deckleAt 0 96).setCq State.deckleAt 1 (2 ^ 63)).mem }
    (s.card 1).tokens = 4 ∧ s.ctrInit State.deckleAt = true ∧ s.waitsOn State.deckleAt = [] ∧ s.allows = [] ∧ s.deckle + 4 < 2 ^ 48 := by
  decide +kernel
/-- A successor with one predecessor left, seen by the Headbox, and one with two. -/
theorem witness_release :
    let e := carded { phase := .running, succ := some [0x1080] } {}
    let s := fun (preds : Nat) => ({ e with mem := State.putBytes tables 0x1088 (State.toLe 8 (2 ^ 31 + preds)) } : State)
    let fine := fun (n : Nat) =>
      let bs := (s n).peekBytes 0x1080 16
      let w := State.leNum ((bs.drop 8).take 4)
      Tbl.has (s n).cards 1 = true ∧ (s n).unansweredReleased = false ∧ gets (s n) 0x1080 16 bs = true ∧ w / 2 ^ 31 = 1 ∧
        (w % 2 ^ 31 + 2 ^ 31 - 1) % 2 ^ 31 = n - 1 ∧
        puts (s n) (0x1080 + 8) (State.toLe 4 (w / 2 ^ 31 * 2 ^ 31 + (w % 2 ^ 31 + 2 ^ 31 - 1) % 2 ^ 31)) = true
    fine 1 ∧ fine 2 := by decide +kernel
/-- A successor's card that cannot be read without error. -/
theorem witness_release_error :
    let s : State := { carded { phase := .running, succ := some [0x1080] } {} with poison := [(0x1080 / 32, true)] }
    (s.card 1).succ = some [0x1080] ∧ (s.card 1).rereadAt = none ∧ s.unansweredReleased = false ∧
      (match s.engRead none 1 0x1080 16 with
       | (.ok (_, bad), t) => bad && t == s
       | _ => false) = true := by decide +kernel
/-- A record whose pins are more than the L1 of its core admits. -/
theorem witness_record_waits :
    let r : List Quad := [0, 0, 0, 0, BitVec.ofNat 64 (2 ^ 63 + 2 ^ 62 + 0x1000), 0, 0, 0]
    let full : Tbl L1Line := (List.range 4).map fun i => ((32 + 256 * (i + 1)) * 256, { pins := 1 })
    let s := fun (lines : Tbl L1Line) => ({ carded { cardOf kTASK [] with phase := .running, desc := some {}, unposted := [r] } {} with lines } : State)
    (s []).postCore ((s []).card 1) 0 = some 0 ∧ ((s []).card 1).assigned = [] ∧ (s []).recordFits ((s []).card 1) 0 (List.replicate 8 0) = true ∧
      (s full).recordFits ((s full).card 1) 0 r = false ∧ (s []).recordFits ((s []).card 1) 0 r = true := by decide +kernel
/-- The post of an empty record to core 0, which runs a loop block of the descriptor. -/
theorem witness_task_post :
    let s := carded { cardOf kTASK [] with phase := .running, desc := some {}, unposted := [List.replicate 8 0] } {}
    (s.card 1).unposted = List.replicate 8 0 :: [] ∧ (s.ctx 1).suspended = false ∧ s.postCore (s.card 1) 0 = some 0 ∧
      ((List.replicate 8 (0 : Quad)).getD 4 0).toNat < 2 ^ 63 := by decide +kernel

/-- One block of context 1 with its groups. -/
def blocked1 (b : Block) (g : Group) (c : Ctx) : State :=
  { carded {} {} with ctxs := [(1, { c with exist := true })], grps := [(32, g)],
                      blks := [(1, { b with gangIds := [1], ctx := 1, card := 1, desc := { nreg := 1, scr := 1 } })] }
/-- A block that has ended; one stopped by SUSPEND with a frame and without; one that drains. -/
theorem witness_swap_out :
    let e := blocked1 { phase := .resident } { ended := -1 } {}
    let r := fun (n : Nat) => blocked1 { phase := .resident } { slots := [(0, { occ := true, run := 1 })] } { suspended := true, nframe := n }
    let w := blocked1 { phase := .resident, stopped := true, swapping := true, frame := some 0 } {} { nframe := 1 }
    let t := blocked1 { phase := .resident, noframe := true, tsusp := 0 } {} { suspended := true, nframe := 1 }
    e.mayRetire 1 = true ∧ Tbl.has e.blks 1 = true ∧ (r 0).mayRetire 1 = false ∧ (r 1).gangOf 1 = [1] ∧ (r 1).swapCause [1] = true ∧
      (r 1).freeFrames 1 = [0] ∧ (r 0).freeFrames 1 = [] ∧ e.swapCause [1] = false ∧ ((r 1).blk 1).noframe = false ∧
      (w.blk 1).swapping = true ∧ w.drained 1 = true ∧ w.farSent = [] ∧ t.swapCause [1] = true ∧ (t.blk 1).noframe = true ∧
      (t.blk 1).tsusp + 10000 ≤ 10000 ∧ t.freeFrames 1 = 0 :: [] := by decide +kernel
/-- 12 R244: a block with a command outstanding at the SSU is not saved; one without is. -/
theorem witness_save_waits :
    let b : Block := { phase := .resident, stopped := true, swapping := true, frame := some 0 }
    let s := fun (q : Tbl (List SsuCmd)) => ({ blocked1 b {} { nframe := 1 } with ssus := q } : State)
    let cmd : SsuCmd := { gid := 32, bid := 1, ctx := 1, card := 1, va := 0, isSplat := false, cap := fullCap }
    (s [(0, [cmd])]).ssuBusy 1 = true ∧ (s []).ssuBusy 1 = false ∧ (s []).gangOf 1 = [1] ∧ ((s []).blk 1).saved = false ∧
      ((s []).blk 1).poisoned = false ∧ (s []).farSent = [] ∧ (s []).drained 1 = true ∧
      after (exec (.swapSave 1) (s [(0, [cmd])])) (fun t => (t.blk 1).saved) = some false := by decide +kernel
/-- A swapped block: no room, room on core 0 with its header as saved, and room once block 2 leaves core 0. -/
theorem witness_return :
    let b : Block := { phase := .swapped, frame := some 0, eligibleFrom := some 0 }
    let f := blocked1 b {} { nframe := 1, stride := 8, pool := 0x100000 }
    let s : State := { f with mem := (f.headerOf 1 2).foldl (fun m p => Tbl.set 0 m (0x100000 + p.1) p.2) f.mem, clock := 150000 }
    let core := fun (n : Nat) (stopped : Bool) => ({ phase := .resident, gangIds := [n], ctx := 1, card := 1, core := n - 2, stopped, desc := { scr := 384 } } : Block)
    let y : State := { s with blks := s.blks ++ [(2, core 2 false), (3, core 3 true), (4, core 4 true), (5, core 5 true)],
                              ctxs := [(1, { exist := true, nframe := 2 })] }
    s.gangOf 1 = [1] ∧ s.eligible [1] = true ∧ (s.blk 1).desc.tok ≤ (s.blk 1).tokens ∧ s.roomFor [1] = some [0] ∧
      (∃ r, s.readFrame 1 = some r ∧ s.headerOk 1 r.1 = true) ∧ (s.blk 1).absLog = [] ∧ (s.blk 1).heldLog = [] ∧
      y.roomFor [1] = none ∧ y.eligible [1] = true ∧ (0 : Nat) + y.hbx.yield_.toNat ≤ y.clock ∧ s.yieldGangs [1] = [] ∧
      y.yieldGangs [1] = [[2]] ∧ (y.blk 2).noframe = false ∧ y.freeFrames 1 ≠ [] := by
  refine ⟨?_, ?_, ?_, ?_, ⟨_, rfl, ?_⟩, ?_⟩ <;> decide +kernel
/-- Lanes held at join 7 by a split that waits for a task record. -/
theorem witness_lost_join :
    let r : JoinReg := { armed := true, arrived := 2, expected := 3 }
    let s := blocked1 { phase := .resident } { joins := [(7, r)], slots := [(0, { occ := true, run := 1, wait := .barrier, waitFor := .record })] } {}
    Tbl.has s.grps 32 = true ∧ s.stuck 32 = true ∧ s.heldJoins 32 = [(7, r)] ∧ s.freeSlots 32 ≠ [] ∧ s.join 32 7 = r ∧
      (one [] []).stuck 32 = false := by decide +kernel
/-- HBX_CTXCTL: idle, and busy with each operation on context 1. -/
theorem witness_ctxctl :
    let c := fun (op : Nat) => ({ blocked1 { phase := .swapped } {} {} with hbx := { State.reset.hbx with ctl := BitVec.ofNat 64 (2 ^ 63 + 2 ^ 16 + op) } } : State)
    State.reset.hbx.ctl.getLsbD 63 = false ∧ Tbl.has (c 1).ctxs 1 = true ∧ ((c 1).ctx 1).ended = false ∧ ((c 1).ctx 1).fw = false ∧
      (c 3).hbx.ctl.getLsbD 63 = true ∧ (c 3).hbx.ctl.toNat % 4 = 3 ∧ (c 1).hbx.ctl.toNat % 4 = 1 ∧
      1 = (c 1).hbx.ctl.toNat / 2 ^ 16 % 2 ^ 16 ∧ (c 1).ctxOut 1 = true ∧
      ({ c 1 with blks := [(1, { phase := .resident, ctx := 1 })] } : State).ctxOut 1 = false ∧ (c 2).hbx.ctl.toNat % 4 = 2 := by
  decide +kernel
/-- Boot at its two points; a mailbox command kept back by a held line, and FWSTAGE's staging area. -/
theorem witness_boot_steps :
    let i : BootInput := { sku120 := true, clMask := -1, chFuse := -1, table := [], tableSigOk := true, image := [],
                           imageVer := 0, imageSigOk := true, rom := [], trained := 1, carveOk := true }
    let at_ := fun (b : BootPhase) => ({ State.reset with dev := { State.reset.dev with boot := b, bootIn := some i, clmask := -1 } } : State)
    let s : State := { State.reset with dev := { State.reset.dev with bootDone := true, chmask := 1, f := 1, c := 1, arg0 := 128, fwerr := true } }
    let held : State := { s with dirs := [(1, { st := .x, ptrs := [0] })], txns := [(1, { kind := .read 3, msgs := [.recall 0 true] })] }
    ((at_ .booting).dev.boot = .booting ∧ (at_ .booting).dev.bootIn = some i) ∧
      ((at_ .loading).dev.boot = .loading ∧ i.table.length ≠ 64) ∧ held.blocked 0 128 128 = true ∧ 128 + 128 ≤ held.usable ∧
      s.dev.fwerr = true ∧ (2 : Nat) ≠ 8 ∧ State.stageAt + 4 ≤ s.fwEnd ∧ s.blocked 0 State.stageAt 4 = false ∧
      (s.dir (State.lineOf State.stageAt)).ctr = false ∧ s.bad 128 4 = false ∧ (0x100 : Quad).toNat % 256 = 0 := by decide +kernel
/-- A WATCH that finds 32 armed; TASK with its records read, and with one record to read; a gang to re-admit, one to yield for. -/
theorem witness_card_waits :
    let a := carded (cardOf kWATCH [0, 0, 0x1008, 1]) {}
    let w : State := { a with cards := a.cards ++ (List.range 32).map fun i => (i + 2, ({ phase := .armed, ctx := 1 } : Card)) }
    let d : Desc := { nreg := 15 }
    let t := fun (r : Bool) => carded { cardOf kTASK [0, 0, 0x4000, 1, 0, 0, 0x1040] with desc := some d, recsRead := r } {}
    let s' : State := { t false with hbx := { (t false).hbx with lastServed := 0 } }
    w.isServed 1 kWATCH = true ∧ 32 ≤ w.armedCount ∧ (t true).isServed 1 kTASK = true ∧ ((t true).card 1).recsRead = true ∧
      (t false).isServed 1 kTASK = true ∧ ((t false).card 1).desc = some d ∧ ((t false).card 1).recsRead = false ∧
      gets s' 0x1040 64 (List.replicate 64 0) = true ∧ recordOk (List.replicate 8 0) d ((t false).card 1).lcap = true ∧
      recordOk [0, 0, 0, 0, 1, 1, 0, 0] d ((t false).card 1).lcap = false := by decide +kernel
/-- A gang whose gang waits to come back first and one whose yield is due; a yield kept without a frame; the second part of a
save and of a return; END with cards aborted and with one left. -/
theorem witness_swap_parts :
    let b : Block := { phase := .swapped, frame := some 0, eligibleFrom := some 0 }
    let f := blocked1 b {} { nframe := 1, stride := 8, pool := 0x100000 }
    let core := fun (n : Nat) (stopped : Bool) => ({ phase := .resident, gangIds := [n], ctx := 1, card := 1, core := n - 2, stopped, desc := { scr := 384 } } : Block)
    let y := fun (two : Block) (c : Ctx) => ({ f with clock := 150000,
                                                      blks := f.blks ++ [(2, two), (3, core 3 true), (4, core 4 true), (5, core 5 true)],
                                                      ctxs := [(1, { c with exist := true, nframe := 1 })] } : State)
    let z := y { core 2 false with noframe := true, yieldTo := some 1 } { frames := [0] }
    let due := (y (core 2 false) {}).noteWaiting
    let w := blocked1 { phase := .resident, stopped := true, swapping := true, saved := true, frame := some 0 } {} { nframe := 1, pool := 0x100000 }
    let r := blocked1 { phase := .resident, restoring := true, stopped := true, frame := some 0 } {} { nframe := 1, pool := 0x100000, frames := [0] }
    f.noteWaiting.readyGangs f.noteWaiting.stepPrio = [1] ∧
      (due.readyGangs due.stepPrio = [] ∧ due.dueGang due.stepPrio = some 1 ∧ (y (core 2 false) {}).yielding = none) ∧
      (z.gangOf 2 = [2] ∧ (z.blk 2).noframe = true ∧ (z.blk 2).tsusp + 10000 ≤ z.clock ∧ z.swapCause [2] = false ∧
        (z.blk 2).yieldTo = some 1 ∧ z.eligible (z.gangOf 1) = true ∧ (z.yieldGangs (z.gangOf 1)).contains [2] = true ∧
        z.freeFrames 1 = []) ∧
      (w.gangOf 1 = [1] ∧ (w.blk 1).saved = true ∧ (w.blk 1).poisoned = false ∧ (w.blk 1).desc.fuse = false ∧
        w.frameAt 1 = some 0x100000 ∧ State.deckleAt + 128 ≤ 0x100000) ∧
      (r.gangOf 1 = [1] ∧ (r.blk 1).restoring = true ∧ (r.blk 1).absLog = [] ∧ (r.blk 1).heldLog = [] ∧ r.frameAt 1 = some 0x100000) ∧
      f.userCtx 1 = true ∧ f.allAborted 1 = true ∧
      ({ f with cards := [(1, { phase := .abort, ctx := 1 })] } : State).allAborted 1 = false ∧
      f.yielding.any (· != 1) = false := by decide +kernel

/-! ### Steps -/

theorem witness_forms : State.reset.Forms := by unfold State.Forms State.MemWf State.L1Ok; decide +kernel
theorem witness_step_form : ∃ t, step State.reset = .next t ∧
    ∀ core line, State.reset.agenda.head? ≠ some (.event (.acknowledgement core line)) := ⟨_, rfl, fun _ _ h => nomatch h⟩
/-- Each turn has something to run: an event, a thread's PUSH, a stream's RELEASE, and a bundle; a thread that has ended. -/
theorem witness_step_runs :
    let th := State.reset.withFetchWord 32 0x20000000
    let sp := ({ th with agenda := [] } : State).perform none
    let u : State := { sp.tick with issue := { thr := 0 } }
    let sq : State := { blocked1 { phase := .resident, mx := { seq := { word := some 0x2001000000000000 } } } {} {} with agenda := [.seq 1] }
    let sq1 : State := { sq with blks := sq.blks.map fun p => (p.1, { p.2 with desc := { p.2.desc with mxs := true } }) }
    let ended : State := { State.reset with trps := [(0, { phase := .ended })] }
    Instr.perstAssert.isEvent = true ∧ th.pwr.stopped = false ∧ sp.trpPick 0 [] = some 0 ∧ u.tp.phase ≠ .ended ∧
      (∃ v bs i, u.ncRead u.wordAt 4 .exec = .ok (v, bs) ∧ decodeT (State.leNum bs) = .ok i) ∧
      sq1.seqLive 1 = true ∧ (sq1.seq 1).word = some 0x2001000000000000 ∧ decodeMx 0x2001000000000000 = .ok (.mxRel 0 2) ∧
      ended.trpPick 0 [] = some 0 := by
  refine ⟨?_, ?_, ?_, ?_, ⟨_, _, _, rfl, rfl⟩, ?_⟩ <;> decide +kernel
/-- A bundle of two words that the port fetches and runs; one whose C-word goes on after a wait. -/
theorem witness_step_bundle :
    let s := State.reset.withFetchWord 64 0x090C9005
    let sp := ({ s with agenda := [] } : State).perform none
    let u := sp.tick.startIssue (State.portKey 0 0 0) 32 0 true
    let b : Bundle := { c := .sAdd 3 4 (.imm 5), a := some (.anop 0) }
    let f := (u.fetch u.core u.ctxId u.issue.addr 8).2
    let w := (f.updSl fun sl => { sl with parked := none, unf := 0 }).loadBundle b
    let again : Again := { word := .sAdd 3 4 (.imm 5), active := 1, mm := false, snap := [] }
    let v : State := { sp with grps := [(32, { slots := [(0, { occ := true, run := 1, again := some again })] })] }
    sp.gatedPart 0 0 = false ∧ sp.pick 0 0 0 [] = some ((32, 0), true) ∧ u.sl.again = none ∧
      (u.fetch u.core u.ctxId u.issue.addr 8).1 = .ok [5, 0x90, 0x0C, 9, 0, 0, 0, 0] ∧
      decodeBundleBytes [5, 0x90, 0x0C, 9, 0, 0, 0, 0] = .ok b ∧
      State.firstCause ((b.c :: b.a.toList).flatMap w.issueCauses) = none ∧ b.c.isControl = false ∧
      (∃ x y, exec b.c { w with issue := { w.issue with checked := true } } = .next x ∧ x.waits = false ∧
        x.issue.out = .advance ∧ w.collides b = false ∧ exec (.anop 0) x = .next y) ∧
      decodeBundleBytes [0xFF, 0xFF, 0xFF, 0xFF, 0xFF, 0xFF, 0xFF, 0xFF] ≠ .ok b ∧
      v.pick 0 0 0 [] = some ((32, 0), true) := by
  refine ⟨?_, ?_, ?_, ?_, ?_, ?_, ?_, ⟨_, _, rfl, ?_, ?_, ?_, rfl⟩, ?_⟩ <;> decide +kernel
/-- The bundle that the port would run in a state that stores the word. -/
def bundleAt (word : Nat) : State × List (BitVec 8) :=
  let s := State.reset.withFetchWord 64 word
  let u := (({ s with agenda := [] } : State).perform none).tick.startIssue (State.portKey 0 0 0) 32 0 true
  let f := u.fetch u.core u.ctxId u.issue.addr 8
  (f.2.updSl fun sl => { sl with parked := none, unf := 0 }, match f.1 with | .ok bs => bs | _ => [])
/-- 17 R316: a C-word with LONE stands alone in its bundle. -/
theorem test_lone_bundle :
    decodeBundle 0x8E82000A 0x10002048 = .ok { c := .sWsr 0x0A (.ext 0x10002048), a := none } := by decide +kernel
/-- A branch with its A-word, INBOX that waits, a word that fails a check, bytes that are no bundle; INBOX going on. -/
theorem witness_step_kinds :
    let w := fun (n : Nat) (b : Bundle) => ((bundleAt n).1.loadBundle b)
    let ok := fun (n : Nat) (b : Bundle) => ({ w n b with issue := { (w n b).issue with checked := true } } : State)
    let bra : Bundle := { c := .bra 2 2 0xFFFF none, a := some (.anop 0) }
    let inbox : Bundle := { c := .inbox, a := some (.anop 0) }
    let causes := fun (n : Nat) (b : Bundle) => State.firstCause ((b.c :: b.a.toList).flatMap (w n b).issueCauses)
    decodeBundleBytes (bundleAt 0x01C2FFFF).2 = .ok bra ∧ causes 0x01C2FFFF bra = none ∧ bra.c.isControl = true ∧
      (∃ x y, exec (.anop 0) (ok 0x01C2FFFF bra) = .next x ∧ exec bra.c x = .next y ∧ y.issue.out = .jumped) ∧
      decodeBundleBytes (bundleAt 511705088).2 = .ok inbox ∧ causes 511705088 inbox = none ∧
      (∃ x y, exec inbox.c (ok 511705088 inbox) = .next x ∧ x.waits = true ∧ exec (.anop 0) x = .next y) ∧
      (∃ e, decodeBundleBytes (bundleAt 0xFFFFFFFF).2 = .error e) := by
  refine ⟨?_, ?_, ?_, ⟨_, _, rfl, rfl, ?_⟩, ?_, ?_, ⟨_, _, rfl, ?_, rfl⟩, ⟨_, rfl⟩⟩ <;> decide +kernel
/-- The page of the pc is cached, its line is not in the instruction cache. -/
theorem witness_fetch :
    mem.farQ = [] ∧ mem.L1Ok ∧ State.findTlb (Tbl.get [] mem.l1tlb 0) 1 0 = some page ∧ page.permits .exec = true ∧
      mem.fwRefused 1 page 0 = false ∧ page.tgt = 0 ∧ mem.blocked 0 (State.Tlb.pa page 0) 8 = false ∧
      mem.bad (State.Tlb.pa page 0) 8 = false ∧ Tbl.get ((0, []) : Nat × List Byte) mem.icache (State.lineKey (State.lineOf (State.Tlb.pa page 0)) 0) = (0, []) :=
  ⟨by decide +kernel, mem_l1ok, by decide +kernel, by decide +kernel, by decide +kernel, by decide +kernel, by decide +kernel,
    by decide +kernel, by decide +kernel⟩
/-- Well-formed words of each of the four encodings. -/
theorem witness_round_trips :
    (Instr.sLi 3 false 5 none).wf = true ∧ encodeC (.sLi 3 false 5 none) ≠ none ∧ (Instr.iadd false a123).wf = true ∧
      encodeA (.iadd false a123) ≠ none ∧ (Instr.mxRel 0 2).wf = true ∧ encodeMx (.mxRel 0 2) ≠ none ∧
      (Instr.brT .ste 0 0x3FFFB).wf = true ∧ encodeT (.brT .ste 0 0x3FFFB) ≠ none := by decide +kernel
theorem witness_power_registers :
    ({ State.reset with dev := { State.reset.dev with bootDone := true } } : State).dev.bootDone = true ∧ 200 ≤ (200 : Quad).toNat ∧
      ¬ (200 ≤ (199 : Quad).toNat) := by decide +kernel

end Sys2Proof.Tests
end

section
/-! SUPPORT. Re-admission of a block whose tasks' pins have to wait (09 R202, log 79), and the state that refutes O53. -/

namespace Sys2Proof.Machine

namespace State

/-- The state in which `readmit` makes the pins of a block that is placed on `core`: the place held for the block is taken
(02 R41), and the cluster is fused or split (06 R116). -/
def placedFor (s : State) (bid core : Nat) : State :=
  ({ s with hbx := { s.hbx with yieldFor := s.hbx.yieldFor.filter (· != bid) } } : State).prepareCluster (core / 4)
    (s.blk bid).desc.fuse (s.blk bid).card

/-- A block with room and a sound frame stays out while its pins have to wait. -/
theorem readmit_of_pins_later {s : State} {bid core : Nat} {f : Tbl Byte × (Nat → Bool)}
    (hroom : s.roomFor [bid] = some [core]) (hframe : s.readFrame bid = some f) (hhead : s.headerOk bid f.1 = true)
    (hpins : (s.placedFor bid core).pinGang [(bid, core)] = .later) :
    s.readmit [bid] = s.updBlk bid fun b => { b with eligibleFrom := none } := by
  unfold placedFor at hpins
  simp [readmit, hroom, hframe, hhead, hpins]

end State

/-- An eligible block that holds its tokens, and before which nothing else is placed, is handed to `readmit`. -/
theorem execReadmission_eligible {s : State} {bid : Nat} (hgang : s.gangOf bid = [bid])
    (hnew : (s.blk bid).restoring = false) (helig : s.eligible [bid] = true) (htok : (s.blk bid).desc.tok ≤ (s.blk bid).tokens)
    (hyield : s.yielding.any (· != bid) = false) : exec (.readmission bid) s = .next (s.readmit [bid]) := by
  have htokens : s.hasTokens [bid] = true := by simpa [State.hasTokens, State.tokensFor] using htok
  simp [execReadmission, hgang, hnew, helig, hyield, htokens]

/-- Block 1 is swapped out with a sound frame, and its descriptor's NGRP is 32, one more than its five bits hold (02 Table
2.2). Its 33rd group number is then that of group 0 of block 2, whose task belongs to a card that waits on a fault. -/
def overlongBlock : State :=
  { State.reset with
    dev := { State.reset.dev with clmask := 1, fwcol := 18 }
    ctxs := [(1, { exist := true, pool := 0x100000, stride := 128, nframe := 1, frames := [0] })]
    mem := [(0x100004, 1), (0x100007, 0x80)]
    cards := [(1, { phase := .running, ctx := 1, fltWait := true })]
    blks := [(1, { phase := .swapped, gangIds := [1], ctx := 1, card := 1, desc := { nreg := 1, ngrp := 32 }, frame := some 0 }),
             (2, { phase := .resident, gangIds := [2], ctx := 1, card := 1, desc := { nreg := 1 } })]
    grps := [(64, { task := some { record := [], card := 1 } })] }

/-- Core 1 has room for block 1 (core 0 has less, for block 2), and the header in memory is the block's. -/
theorem overlongBlock_hasPlace :
    overlongBlock.roomFor [1] = some [1] ∧
      ∃ f, overlongBlock.readFrame 1 = some f ∧ overlongBlock.headerOk 1 f.1 = true := by
  refine ⟨?_, _, rfl, ?_⟩ <;> decide +kernel

/-- No group with a number of block 1 has a task. -/
theorem overlongBlock_task (g : Nat) (hg : g / 32 = 1) : (overlongBlock.grp g).task = none := by
  have hne : g ≠ 64 := by omega
  simp [State.grp, overlongBlock, Tbl.get, Ne.symm hne]

/-- The pins wait all the same: for the task of group 64. -/
theorem overlongBlock_pins_later : (overlongBlock.placedFor 1 1).pinGang [(1, 1)] = .later := by decide +kernel

/-- Refutes O53 in its clause on the return of a swapped block: the clause asks for groups without a task where the group
number divided by 32 is the block's, which leaves out the groups beyond the 32nd that a descriptor with NGRP above 31 adds,
and a task of such a group keeps the block out (log 79). -/
theorem not_swapAndContexts : ¬ Obligations.SwapAndContexts := by
  unfold Obligations.SwapAndContexts
  intro h
  obtain ⟨hroom, f, hframe, hhead⟩ := overlongBlock_hasPlace
  have hgang : overlongBlock.gangOf 1 = [1] := by decide +kernel
  have helig : overlongBlock.eligible [1] = true := by decide +kernel
  obtain ⟨-, -, -, -, -, -, -, -, hreturn, -⟩ := h overlongBlock 1 0 0
  obtain ⟨-, hloads⟩ := hreturn hgang rfl helig (Nat.le_refl 0) rfl
  obtain ⟨t, ht, hphase, -⟩ := hloads 1 f hroom hframe hhead rfl rfl overlongBlock_task
  rw [execReadmission_eligible hgang rfl helig (Nat.le_refl 0) rfl,
    State.readmit_of_pins_later hroom hframe hhead overlongBlock_pins_later] at ht
  cases ht
  have hout : ((overlongBlock.updBlk 1 fun b => { b with eligibleFrom := none }).blk 1).phase = .swapped := by decide +kernel
  simp [hout] at hphase

end Sys2Proof.Machine
end

section
/-! SUPPORT. Splits that leave their slot, deferral entries and join registers (03 R44 to R52): what the operations that move
splits leave alone, what a slot holds after them, and the words JSET and JOIN (19 R388). Settles O10. -/

namespace Sys2Proof.Machine

/-- Reading after a map that keeps the keys and the unlisted value. -/
theorem Tbl.get_map {α : Type} (d : α) (f : Nat × α → Nat × α) (hkey : ∀ p, (f p).1 = p.1) (t : Tbl α) (n : Nat)
    (hd : (f (n, d)).2 = d) : Tbl.get d (t.map f) n = (f (n, Tbl.get d t n)).2 := by
  induction t with
  | nil => exact hd.symm
  | cons p r ih =>
    obtain ⟨k, v⟩ := p
    have hk : f (k, v) = (k, (f (k, v)).2) := Prod.ext (hkey _) rfl
    rw [List.map_cons, hk]
    by_cases h : k = n
    · subst h; simp [Tbl.get]
    · simp [Tbl.get, h, ih]

namespace State

/-! ### Slots and join registers after a write -/

@[simp] theorem grp_updGrp_self (s : State) (gid : Nat) (f : Group → Group) :
    (s.updGrp gid f).grp gid = f (s.grp gid) := by simp [updGrp]
theorem grp_updGrp_ne (s : State) {gid g : Nat} (f : Group → Group) (h : g ≠ gid) : (s.updGrp gid f).grp g = s.grp g := by
  simp [updGrp, grp_setGrp, h]
theorem slotAt_of_grp {s t : State} {gid : Nat} (h : (t.grp gid).slots = (s.grp gid).slots) (k : Nat) :
    t.slotAt gid k = s.slotAt gid k := by simp [slotAt, h]
theorem join_of_grp {s t : State} {gid : Nat} (h : (t.grp gid).joins = (s.grp gid).joins) (j : Nat) :
    t.join gid j = s.join gid j := by simp [join, h]
theorem slotAt_setSlot (s : State) (gid k n : Nat) (v : Slot) :
    (s.setSlot gid k v).slotAt gid n = if n = k then v else s.slotAt gid n := by
  simp [slotAt, setSlot, Tbl.get_set]
@[simp] theorem defer_setSlot (s : State) (gid k : Nat) (v : Slot) :
    ((s.setSlot gid k v).grp gid).defer = (s.grp gid).defer := by simp [setSlot]
@[simp] theorem join_setSlot (s : State) (gid k j : Nat) (v : Slot) : (s.setSlot gid k v).join gid j = s.join gid j :=
  join_of_grp (by simp [setSlot]) j
@[simp] theorem join_setJoin_self (s : State) (gid j : Nat) (v : JoinReg) : (s.setJoin gid j v).join gid j = v := by
  simp [join, setJoin]
theorem join_setJoin_ne (s : State) (gid : Nat) {j m : Nat} (v : JoinReg) (h : m ≠ j) :
    (s.setJoin gid j v).join gid m = s.join gid m := by
  simp [join, setJoin, Tbl.get_set_ne _ _ _ h]
@[simp] theorem slotAt_setJoin (s : State) (gid j k : Nat) (v : JoinReg) :
    (s.setJoin gid j v).slotAt gid k = s.slotAt gid k :=
  slotAt_of_grp (by simp [setJoin]) k

theorem freeSlots_congr {s t : State} {gid : Nat} (h : ∀ n, (t.slotAt gid n).occ = (s.slotAt gid n).occ) :
    t.freeSlots gid = s.freeSlots gid := by simp [freeSlots, h]
theorem not_occ_of_freeSlots {s : State} {gid m : Nat} {rest : List Nat} (h : s.freeSlots gid = m :: rest) :
    (s.slotAt gid m).occ = false := by
  have hm : m ∈ s.freeSlots gid := by simp [h]
  simpa using (List.mem_filter.mp hm).2

@[simp] theorem slotBase_age (s : State) (gid k : Nat) : (s.slotBase gid k).age = (s.slotAt gid k).age := by
  simp only [slotBase]; split <;> rfl
@[simp] theorem slotBase_occ (s : State) (gid k : Nat) : (s.slotBase gid k).occ = false := by
  simp only [slotBase]; split <;> rfl
@[simp] theorem slotBase_wait (s : State) (gid k : Nat) : (s.slotBase gid k).wait = .ready := by
  simp only [slotBase]; split <;> rfl

/-! ### The frame of the operations that move splits -/

/-- Nothing but the slots, join registers and deferral entries of group `gid` differs. -/
def OnlySplits (gid : Nat) (s t : State) : Prop :=
  t = { s with grps := t.grps } ∧ (∀ g, g ≠ gid → t.grp g = s.grp g) ∧
    t.grp gid = { s.grp gid with
      slots := (t.grp gid).slots, joins := (t.grp gid).joins, defer := (t.grp gid).defer }

theorem OnlySplits.refl (gid : Nat) (s : State) : OnlySplits gid s s := ⟨rfl, fun _ _ => rfl, rfl⟩

theorem OnlySplits.trans {gid : Nat} {s t u : State} (h : OnlySplits gid s t) (h' : OnlySplits gid t u) :
    OnlySplits gid s u := by
  obtain ⟨hst, hother, hgrp⟩ := h
  obtain ⟨htu, hother', hgrp'⟩ := h'
  refine ⟨?_, fun g hg => (hother' g hg).trans (hother g hg), ?_⟩
  · rw [htu, hst]
  · rw [hgrp', hgrp]

theorem updGrp_onlySplits (s : State) (gid : Nat) (f : Group → Group)
    (hf : f (s.grp gid) = { s.grp gid with
      slots := (f (s.grp gid)).slots, joins := (f (s.grp gid)).joins, defer := (f (s.grp gid)).defer }) :
    OnlySplits gid s (s.updGrp gid f) :=
  ⟨rfl, fun _ hg => grp_updGrp_ne s f hg, by simpa only [grp_updGrp_self] using hf⟩

theorem setSlot_onlySplits (s : State) (gid k : Nat) (v : Slot) : OnlySplits gid s (s.setSlot gid k v) :=
  updGrp_onlySplits s gid _ rfl

theorem setJoin_onlySplits (s : State) (gid j : Nat) (v : JoinReg) : OnlySplits gid s (s.setJoin gid j v) :=
  updGrp_onlySplits s gid _ rfl

theorem OnlySplits.grp_ne {gid g : Nat} {s t : State} (h : OnlySplits gid s t) (hg : g ≠ gid) : t.grp g = s.grp g := by
  obtain ⟨-, hother, -⟩ := h
  exact hother g hg

theorem OnlySplits.issue {gid : Nat} {s t : State} (h : OnlySplits gid s t) : t.issue = s.issue := by
  obtain ⟨hst, -⟩ := h
  rw [hst]

/-- The issuing split's slot, seen from before the operation. -/
theorem OnlySplits.sl {gid : Nat} {s t : State} (h : OnlySplits gid s t) : t.sl = t.slotAt s.gid s.issue.slot := by
  simp only [State.sl, h.issue, State.gid]

theorem setOut_grp (s : State) (o : Out) (gid : Nat) : (s.setOut o).grp gid = s.grp gid := rfl
theorem slotAt_setOut (s : State) (o : Out) (gid k : Nat) : (s.setOut o).slotAt gid k = s.slotAt gid k := rfl
theorem join_setOut (s : State) (o : Out) (gid j : Nat) : (s.setOut o).join gid j = s.join gid j := rfl

/-! ### A slot that its split leaves (R47) -/

theorem resumeSlot_onlySplits (s : State) (gid k : Nat) : OnlySplits gid s (s.resumeSlot gid k) := by
  simp only [resumeSlot]
  split
  · exact .refl gid s
  · split
    · exact setSlot_onlySplits s gid k _
    · exact (updGrp_onlySplits s gid _ rfl).trans (setSlot_onlySplits _ gid k _)

@[simp] theorem join_resumeSlot (s : State) (gid k j : Nat) : (s.resumeSlot gid k).join gid j = s.join gid j := by
  simp only [resumeSlot]
  split
  · rfl
  · split
    · exact join_setSlot s gid k j _
    · exact (join_setSlot _ gid k j _).trans (join_of_grp (by simp) j)

theorem resumeSlot_of_running {s : State} {gid k : Nat} (h : (s.slotAt gid k).run ≠ 0) : s.resumeSlot gid k = s :=
  if_pos (bne_iff_ne.mpr h)

theorem resumeSlot_of_no_deferral {s : State} {gid k : Nat} (h : (s.slotAt gid k).run = 0)
    (hd : ∀ d ∈ (s.grp gid).defer, d.owner ≠ k) : s.resumeSlot gid k = s.setSlot gid k (s.slotBase gid k) := by
  have hfind : (s.grp gid).defer.reverse.find? (fun d => d.owner == k) = none := by
    simpa [List.find?_eq_none] using hd
  simp [resumeSlot, h, hfind]

/-- `d` is the newest deferral entry of slot `k`. -/
def IsNewest (k : Nat) (l ds es : List Deferral) (d : Deferral) : Prop :=
  l = ds ++ d :: es ∧ d.owner = k ∧ ∀ e ∈ es, e.owner ≠ k

theorem IsNewest.find {k : Nat} {l ds es : List Deferral} {d : Deferral} (h : IsNewest k l ds es d) :
    l.reverse.find? (fun e => e.owner == k) = some d := by
  obtain ⟨rfl, hd, hes⟩ := h
  have hnone : es.reverse.find? (fun e => e.owner == k) = none := by simpa [List.find?_eq_none] using hes
  simp [List.find?_append, hnone, hd]

theorem IsNewest.erase {k : Nat} {l ds es : List Deferral} {d : Deferral} (h : IsNewest k l ds es d) :
    (l.reverse.erase d).reverse = ds ++ es := by
  obtain ⟨rfl, hd, hes⟩ := h
  have hnot : d ∉ es.reverse := fun hm => hes d (List.mem_reverse.mp hm) hd
  simp [List.erase_append_right _ hnot]

/-- A slot whose split has left takes its newest deferral entry; `w` is what the split then waits for. -/
theorem resumeSlot_of_newest {s : State} {gid k : Nat} {ds es : List Deferral} {d : Deferral}
    (h : (s.slotAt gid k).run = 0) (hd : IsNewest k (s.grp gid).defer ds es d) :
    ∃ (w : Wait) (f : WaitFor), s.resumeSlot gid k =
      (s.updGrp gid fun g => { g with defer := ds ++ es }).setSlot gid k
        { s.slotBase gid k with occ := true, pc := d.pc, run := d.mask, fmt := d.fmt, wait := w, waitFor := f } := by
  simp only [resumeSlot, h, hd.find, bne_self_eq_false, Bool.false_eq_true, if_false, updGrp, hd.erase]
  exact ⟨_, _, rfl⟩

/-! ### Complete (R50) -/

/-- The first half of Complete(j, k): the ranks above the register's go down by one and it is disarmed. -/
def disarmJoin (s : State) (gid j : Nat) : State :=
  let r := s.join gid j
  (s.updGrp gid fun g => { g with joins := g.joins.map fun p =>
    if p.2.armed && r.rank < p.2.rank then (p.1, { p.2 with rank := p.2.rank - 1 }) else p }).setJoin gid j { dpc := r.dpc }

theorem disarmJoin_onlySplits (s : State) (gid j : Nat) : OnlySplits gid s (s.disarmJoin gid j) :=
  (updGrp_onlySplits s gid _ rfl).trans (setJoin_onlySplits _ gid j _)
@[simp] theorem join_disarmJoin_self (s : State) (gid j : Nat) :
    (s.disarmJoin gid j).join gid j = { dpc := (s.join gid j).dpc } := join_setJoin_self _ gid j _
@[simp] theorem slotAt_disarmJoin (s : State) (gid j k : Nat) : (s.disarmJoin gid j).slotAt gid k = s.slotAt gid k :=
  (slotAt_setJoin _ gid j k _).trans (slotAt_of_grp (by simp) k)
@[simp] theorem defer_disarmJoin (s : State) (gid j : Nat) :
    ((s.disarmJoin gid j).grp gid).defer = (s.grp gid).defer := by simp [disarmJoin, setJoin]
@[simp] theorem freeSlots_disarmJoin (s : State) (gid j : Nat) : (s.disarmJoin gid j).freeSlots gid = s.freeSlots gid :=
  freeSlots_congr fun n => by simp

/-- Complete's second half is about the state that the first half leaves. -/
theorem completeJoin_eq (s : State) (gid j k : Nat) (still : LaneMask) :
    s.completeJoin gid j k still =
      let r := s.join gid j
      let u := s.disarmJoin gid j
      let pc := r.dpc + 1
      let run := r.arrived ||| still
      if !(u.slotAt gid k).occ || (u.slotAt gid k).run == still && still != 0 then
        u.setSlot gid k { u.slotBase gid k with occ := true, pc, run, fmt := r.fmt }
      else match u.freeSlots gid with
        | m :: _ => u.setSlot gid m { age := (u.slotAt gid k).age, occ := true, pc, run, fmt := r.fmt }
        | [] => u.updGrp gid fun g => { g with defer := g.defer ++ [{ owner := k, pc, mask := run, fmt := r.fmt }] } := rfl

theorem completeJoin_onlySplits (s : State) (gid j k : Nat) (still : LaneMask) :
    OnlySplits gid s (s.completeJoin gid j k still) := by
  refine (disarmJoin_onlySplits s gid j).trans ?_
  rw [completeJoin_eq]
  dsimp only
  split
  · exact setSlot_onlySplits _ gid k _
  · split
    · exact setSlot_onlySplits _ gid _ _
    · exact updGrp_onlySplits _ gid _ rfl

theorem join_completeJoin (s : State) (gid j k : Nat) (still : LaneMask) :
    (s.completeJoin gid j k still).join gid j = { dpc := (s.join gid j).dpc } := by
  rw [completeJoin_eq]
  dsimp only
  split
  · simp
  · split
    · simp
    · exact (join_of_grp (by simp) j).trans (join_disarmJoin_self s gid j)

/-- The completed lanes take the arriving slot when it is empty. -/
theorem completeJoin_of_empty {s : State} {gid j k : Nat} (still : LaneMask) (h : (s.slotAt gid k).occ = false) :
    s.completeJoin gid j k still = (s.disarmJoin gid j).setSlot gid k
      { (s.disarmJoin gid j).slotBase gid k with
        occ := true, pc := (s.join gid j).dpc + 1, run := (s.join gid j).arrived ||| still, fmt := (s.join gid j).fmt } := by
  rw [completeJoin_eq]
  simp [h]

/-- With the arriving slot taken by a resumed split they take the lowest free slot, under the arriving slot's stamp (log 66)
and without a monitor (log 71). -/
theorem completeJoin_of_free {s : State} {gid j k m : Nat} {rest : List Nat} (h : (s.slotAt gid k).occ = true)
    (hfree : s.freeSlots gid = m :: rest) :
    s.completeJoin gid j k 0 = (s.disarmJoin gid j).setSlot gid m
      { age := (s.slotAt gid k).age, occ := true, pc := (s.join gid j).dpc + 1, run := (s.join gid j).arrived,
        fmt := (s.join gid j).fmt } := by
  rw [completeJoin_eq]
  simp [h, hfree]

/-- With no slot free they become a deferral entry of the arriving slot. -/
theorem completeJoin_of_full {s : State} {gid j k : Nat} (h : (s.slotAt gid k).occ = true) (hfree : s.freeSlots gid = []) :
    s.completeJoin gid j k 0 = (s.disarmJoin gid j).updGrp gid fun g => { g with defer := g.defer ++
      [{ owner := k, pc := (s.join gid j).dpc + 1, mask := (s.join gid j).arrived, fmt := (s.join gid j).fmt }] } := by
  rw [completeJoin_eq]
  simp [h, hfree]

theorem testJoin_onlySplits (s : State) (gid j k : Nat) (p : LaneMask) : OnlySplits gid s (s.testJoin gid j k p) := by
  simp only [testJoin]
  split
  · exact completeJoin_onlySplits s gid j k p
  · exact .refl gid s

theorem testJoin_of_missing {s : State} {gid j : Nat} (k : Nat) (p : LaneMask)
    (h : (s.join gid j).arrived ≠ (s.join gid j).expected) : s.testJoin gid j k p = s := by
  simp [testJoin, h]

theorem testJoin_of_complete {s : State} {gid j : Nat} (k : Nat) (p : LaneMask) (ha : (s.join gid j).armed = true)
    (h : (s.join gid j).arrived = (s.join gid j).expected) : s.testJoin gid j k p = s.completeJoin gid j k p := by
  simp [testJoin, ha, h]

/-! ### JOIN -/

/-- The lanes of the issuing split that the register expects. -/
def joining (s : State) (j : Nat) : LaneMask := s.sl.run &&& (s.join s.gid j).expected
/-- The lanes that pass through. -/
def passing (s : State) (j : Nat) : LaneMask := s.sl.run &&& ~~~(s.join s.gid j).expected
/-- The register after the deposit. -/
def deposited (s : State) (j : Nat) : JoinReg :=
  { s.join s.gid j with
    arrived := (s.join s.gid j).arrived ||| s.joining j,
    dpc := if s.joining j != 0 || s.issue.joins == 2 then BitVec.ofNat 54 (s.issue.addr / 8) else (s.join s.gid j).dpc }
/-- The deposit at an armed register: the expected lanes leave the split. -/
def depositJoin (s : State) (j : Nat) : State :=
  (s.setJoin s.gid j (s.deposited j)).setSlot s.gid s.issue.slot { s.sl with run := s.passing j, pc := s.nextPc }
/-- The deposit, and what an emptied slot then takes. -/
def leaveJoin (s : State) (j : Nat) : State := (s.depositJoin j).resumeSlot s.gid s.issue.slot
/-- What JOIN at an armed register leaves. -/
def arriveJoin (s : State) (j : Nat) : State :=
  (if s.issue.joins == 1 then s.leaveJoin j else (s.leaveJoin j).testJoin s.gid j s.issue.slot (s.passing j)).setOut .jumped

theorem depositJoin_eq (s : State) (j : Nat) :
    s.depositJoin j = (s.setJoin s.gid j (s.deposited j)).updSl fun sl => { sl with run := s.passing j, pc := s.nextPc } := by
  have h : (s.setJoin s.gid j (s.deposited j)).slotAt s.gid s.issue.slot = s.sl := slotAt_setJoin s s.gid j s.issue.slot _
  show _ = (s.setJoin s.gid j (s.deposited j)).setSlot s.gid s.issue.slot
    { (s.setJoin s.gid j (s.deposited j)).slotAt s.gid s.issue.slot with run := s.passing j, pc := s.nextPc }
  rw [h]
  rfl

theorem exec_join_unarmed {s : State} {j : Nat} (h : s.Acts (.join j)) (ha : (s.join s.gid j).armed = false) :
    exec (.join j) s = .next ((s.setLostJ s.gid).jump s.nextPc) := by
  rw [exec_join, execJoin, issuedC_next _ h]
  simp [ha]

theorem exec_join_armed {s : State} {j : Nat} (h : s.Acts (.join j)) (ha : (s.join s.gid j).armed = true) :
    exec (.join j) s = .next (s.arriveJoin j) := by
  rw [exec_join, execJoin, issuedC_next _ h]
  have hif : ¬ (!(s.join s.gid j).armed) = true := by simp [ha]
  rw [arriveJoin, leaveJoin, depositJoin_eq]
  exact congrArg Host.Outcome.next (if_neg hif)

theorem deposited_of_joining {s : State} {j : Nat} (h : s.joining j ≠ 0) :
    s.deposited j = { s.join s.gid j with
      arrived := (s.join s.gid j).arrived ||| s.joining j, dpc := BitVec.ofNat 54 (s.issue.addr / 8) } := by
  simp only [deposited, bne_iff_ne.mpr h, Bool.true_or, if_true]

theorem depositJoin_onlySplits (s : State) (j : Nat) : OnlySplits s.gid s (s.depositJoin j) :=
  (setJoin_onlySplits s s.gid j _).trans (setSlot_onlySplits _ s.gid _ _)
theorem slotAt_depositJoin (s : State) (j n : Nat) :
    (s.depositJoin j).slotAt s.gid n =
      if n = s.issue.slot then { s.sl with run := s.passing j, pc := s.nextPc } else s.slotAt s.gid n := by
  simp [depositJoin, slotAt_setSlot]
@[simp] theorem defer_depositJoin (s : State) (j : Nat) : ((s.depositJoin j).grp s.gid).defer = s.g.defer := by
  simp only [depositJoin, defer_setSlot]
  simp [setJoin, State.g, State.gid]
theorem leaveJoin_onlySplits (s : State) (j : Nat) : OnlySplits s.gid s (s.leaveJoin j) :=
  (depositJoin_onlySplits s j).trans (resumeSlot_onlySplits _ s.gid _)
@[simp] theorem join_leaveJoin (s : State) (j : Nat) : (s.leaveJoin j).join s.gid j = s.deposited j := by
  simp [leaveJoin, depositJoin]

/-- Lanes that pass through keep the slot. -/
theorem leaveJoin_of_passing {s : State} {j : Nat} (h : s.passing j ≠ 0) : s.leaveJoin j = s.depositJoin j :=
  resumeSlot_of_running (by rw [slotAt_depositJoin, if_pos rfl]; exact h)

/-- With no lane passing through and no deferral entry the slot becomes free. -/
theorem leaveJoin_slot_of_no_deferral {s : State} {j : Nat} (h : s.passing j = 0)
    (hd : ∀ d ∈ s.g.defer, d.owner ≠ s.issue.slot) :
    ((s.leaveJoin j).slotAt s.gid s.issue.slot).occ = false ∧
      ((s.leaveJoin j).slotAt s.gid s.issue.slot).age = s.sl.age := by
  have hrun : ((s.depositJoin j).slotAt s.gid s.issue.slot).run = 0 := by rw [slotAt_depositJoin, if_pos rfl]; exact h
  rw [leaveJoin, resumeSlot_of_no_deferral hrun (by simpa using hd), slotAt_setSlot, if_pos rfl]
  simp [slotAt_depositJoin]

/-- The split of deferral entry `d` is in slot `k` of the issuing group, under the issuing slot's age stamp. -/
def Resumed (s t : State) (k : Nat) (d : Deferral) : Prop :=
  (t.slotAt s.gid k).occ = true ∧ (t.slotAt s.gid k).pc = d.pc ∧ (t.slotAt s.gid k).run = d.mask ∧
    (t.slotAt s.gid k).fmt = d.fmt ∧ (t.slotAt s.gid k).age = s.sl.age

theorem Resumed.occ {s t : State} {k : Nat} {d : Deferral} (h : s.Resumed t k d) : (t.slotAt s.gid k).occ = true := h.1
theorem Resumed.age {s t : State} {k : Nat} {d : Deferral} (h : s.Resumed t k d) : (t.slotAt s.gid k).age = s.sl.age := by
  obtain ⟨-, -, -, -, hage⟩ := h
  exact hage
theorem Resumed.of_slotAt {s t u : State} {k : Nat} {d : Deferral} (h : s.Resumed t k d)
    (hk : u.slotAt s.gid k = t.slotAt s.gid k) : s.Resumed u k d := by
  simpa only [Resumed, hk] using h

/-- With no lane passing through the slot takes its newest deferral entry; the other slots stand. -/
theorem leaveJoin_of_newest {s : State} {j : Nat} {ds es : List Deferral} {d : Deferral} (h : s.passing j = 0)
    (hd : IsNewest s.issue.slot s.g.defer ds es d) :
    s.Resumed (s.leaveJoin j) s.issue.slot d ∧ ((s.leaveJoin j).grp s.gid).defer = ds ++ es ∧
      ∀ n, n ≠ s.issue.slot → (s.leaveJoin j).slotAt s.gid n = s.slotAt s.gid n := by
  have hrun : ((s.depositJoin j).slotAt s.gid s.issue.slot).run = 0 := by rw [slotAt_depositJoin, if_pos rfl]; exact h
  obtain ⟨w, f, hw⟩ := resumeSlot_of_newest hrun ((defer_depositJoin s j).symm ▸ hd)
  rw [leaveJoin, hw]
  refine ⟨?_, ?_, fun n hn => ?_⟩
  · simp [Resumed, slotAt_setSlot, slotAt_depositJoin]
  · simp
  · rw [slotAt_setSlot, if_neg hn, slotAt_of_grp (s := s.depositJoin j) (by simp), slotAt_depositJoin, if_neg hn]

/-- The slot that takes an entry was occupied, so no other slot becomes free or taken. -/
theorem freeSlots_leaveJoin {s : State} {j : Nat} {ds es : List Deferral} {d : Deferral} (h : s.passing j = 0)
    (hocc : s.sl.occ = true) (hd : IsNewest s.issue.slot s.g.defer ds es d) :
    (s.leaveJoin j).freeSlots s.gid = s.freeSlots s.gid := by
  obtain ⟨hres, -, hothers⟩ := leaveJoin_of_newest h hd
  refine freeSlots_congr fun n => ?_
  by_cases hn : n = s.issue.slot
  · subst hn; exact hres.occ.trans hocc.symm
  · rw [hothers n hn]

/-! ### The outcomes of JOIN at an armed register -/

theorem arriveJoin_frame (s : State) (j : Nat) :
    ∃ t, OnlySplits s.gid s t ∧ s.arriveJoin j = t.setOut .jumped := by
  refine ⟨_, ?_, rfl⟩
  split
  · exact leaveJoin_onlySplits s j
  · exact (leaveJoin_onlySplits s j).trans (testJoin_onlySplits _ s.gid j _ _)

theorem arriveJoin_of_first {s : State} {j : Nat} (h : s.issue.joins = 1) :
    s.arriveJoin j = (s.leaveJoin j).setOut .jumped := by
  simp [arriveJoin, h]

theorem arriveJoin_of_missing {s : State} {j : Nat}
    (h : (s.join s.gid j).arrived ||| s.joining j ≠ (s.join s.gid j).expected) :
    s.arriveJoin j = (s.leaveJoin j).setOut .jumped := by
  have hm : ((s.leaveJoin j).join s.gid j).arrived ≠ ((s.leaveJoin j).join s.gid j).expected := by simpa [deposited] using h
  rw [arriveJoin, testJoin_of_missing _ _ hm, ite_self]

theorem arriveJoin_of_complete {s : State} {j : Nat} (ha : (s.join s.gid j).armed = true) (hj : s.issue.joins ≠ 1)
    (h : (s.join s.gid j).arrived ||| s.joining j = (s.join s.gid j).expected) :
    s.arriveJoin j = ((s.leaveJoin j).completeJoin s.gid j s.issue.slot (s.passing j)).setOut .jumped := by
  have hc : ((s.leaveJoin j).join s.gid j).arrived = ((s.leaveJoin j).join s.gid j).expected := by simpa [deposited] using h
  have hr : ((s.leaveJoin j).join s.gid j).armed = true := by simpa [deposited] using ha
  rw [arriveJoin, testJoin_of_complete _ _ hr hc, if_neg (by simpa using hj)]

theorem sl_arriveJoin (s : State) (j : Nat) : (s.arriveJoin j).sl = (s.arriveJoin j).slotAt s.gid s.issue.slot := by
  obtain ⟨t, ht, he⟩ := arriveJoin_frame s j
  rw [he]
  exact ht.sl

/-- The deposit at the register, where the arrival does not complete it. -/
theorem arriveJoin_deposits {s : State} {j : Nat} (hd : s.joining j ≠ 0)
    (h : s.arriveJoin j = (s.leaveJoin j).setOut .jumped) :
    (s.arriveJoin j).join s.gid j = { s.join s.gid j with
      arrived := (s.join s.gid j).arrived ||| s.joining j, dpc := BitVec.ofNat 54 (s.issue.addr / 8) } := by
  rw [h, join_setOut, join_leaveJoin, deposited_of_joining hd]

section Completes
variable {s : State} {j : Nat} (ha : (s.join s.gid j).armed = true) (hd : s.joining j ≠ 0) (hj : s.issue.joins ≠ 1)
  (hc : (s.join s.gid j).arrived ||| s.joining j = (s.join s.gid j).expected) (hp : s.passing j = 0)
include ha hd hj hc hp

/-- The last lanes of a register leave their slot empty: the completed lanes take it. -/
theorem arriveJoin_completes_in_slot (hno : ∀ d ∈ s.g.defer, d.owner ≠ s.issue.slot) :
    let new := (s.arriveJoin j).slotAt s.gid s.issue.slot
    ((s.arriveJoin j).join s.gid j).armed = false ∧ new.occ = true ∧ new.run = (s.join s.gid j).expected ∧
      new.pc = BitVec.ofNat 54 (s.issue.addr / 8) + 1 ∧ new.fmt = (s.join s.gid j).fmt ∧ new.wait = .ready := by
  obtain ⟨hocc, -⟩ := leaveJoin_slot_of_no_deferral hp hno
  rw [arriveJoin_of_complete ha hj hc, hp, join_setOut, join_completeJoin, slotAt_setOut, completeJoin_of_empty 0 hocc,
    slotAt_setSlot, if_pos rfl, join_leaveJoin, deposited_of_joining hd, hc]
  simp

section Newest
variable {ds es : List Deferral} {d : Deferral} (hocc : s.sl.occ = true) (hnew : IsNewest s.issue.slot s.g.defer ds es d)
include hocc hnew

/-- The slot of the last lanes goes to its newest deferral entry, and a slot is free: the lowest free one takes the
completed lanes. -/
theorem arriveJoin_completes_in_free {m : Nat} {rest : List Nat} (hfree : s.freeSlots s.gid = m :: rest) :
    s.Resumed (s.arriveJoin j) s.issue.slot d ∧ ((s.arriveJoin j).grp s.gid).defer = ds ++ es ∧
      (s.arriveJoin j).slotAt s.gid m =
        { age := s.sl.age, occ := true, pc := BitVec.ofNat 54 (s.issue.addr / 8) + 1, run := (s.join s.gid j).expected,
          fmt := (s.join s.gid j).fmt } := by
  obtain ⟨hres, hdefer, -⟩ := leaveJoin_of_newest hp hnew
  have hm : s.issue.slot ≠ m := by
    rintro rfl
    exact Bool.noConfusion ((not_occ_of_freeSlots hfree).symm.trans hocc)
  rw [arriveJoin_of_complete ha hj hc, hp,
    completeJoin_of_free hres.occ ((freeSlots_leaveJoin hp hocc hnew).trans hfree), join_leaveJoin,
    deposited_of_joining hd, hc, hres.age]
  refine ⟨hres.of_slotAt ?_, ?_, ?_⟩
  · rw [slotAt_setOut, slotAt_setSlot, if_neg hm, slotAt_disarmJoin]
  · rw [setOut_grp, defer_setSlot, defer_disarmJoin, hdefer]
  · rw [slotAt_setOut, slotAt_setSlot, if_pos rfl]

/-- With no slot free the completed lanes become the issuing slot's newest deferral entry. -/
theorem arriveJoin_completes_deferred (hfree : s.freeSlots s.gid = []) :
    s.Resumed (s.arriveJoin j) s.issue.slot d ∧ ((s.arriveJoin j).grp s.gid).defer =
      ds ++ es ++ [{ owner := s.issue.slot, pc := BitVec.ofNat 54 (s.issue.addr / 8) + 1,
                     mask := (s.join s.gid j).expected, fmt := (s.join s.gid j).fmt }] := by
  obtain ⟨hres, hdefer, -⟩ := leaveJoin_of_newest hp hnew
  rw [arriveJoin_of_complete ha hj hc, hp,
    completeJoin_of_full hres.occ ((freeSlots_leaveJoin hp hocc hnew).trans hfree), join_leaveJoin,
    deposited_of_joining hd, hc]
  refine ⟨hres.of_slotAt ?_, ?_⟩
  · rw [slotAt_setOut, slotAt_of_grp (s := (s.leaveJoin j).disarmJoin s.gid j) (by simp), slotAt_disarmJoin]
  · rw [setOut_grp, grp_updGrp_self, defer_disarmJoin, hdefer]

/-- With a slot free or none the register is disarmed and the entry resumes. -/
theorem arriveJoin_completes_behind :
    ((s.arriveJoin j).join s.gid j).armed = false ∧ s.Resumed (s.arriveJoin j) s.issue.slot d := by
  constructor
  · rw [arriveJoin_of_complete ha hj hc, join_setOut, join_completeJoin]
  · cases hfree : s.freeSlots s.gid with
    | nil => exact (arriveJoin_completes_deferred ha hd hj hc hp hocc hnew hfree).1
    | cons m rest => exact (arriveJoin_completes_in_free ha hd hj hc hp hocc hnew hfree).1

end Newest
end Completes

end State

/-! ### JSET, and the claims -/

/-- The ranks that JSET of register `j`, which held `old`, raises (R49). -/
def bumpRank (j : Nat) (old : JoinReg) (p : Nat × JoinReg) : Nat × JoinReg :=
  if p.1 != j && p.2.armed && (!old.armed || p.2.rank < old.rank) then (p.1, { p.2 with rank := p.2.rank + 1 }) else p

theorem bumpRank_fst (j : Nat) (old : JoinReg) (p : Nat × JoinReg) : (bumpRank j old p).1 = p.1 := by
  simp only [bumpRank]; split <;> rfl

theorem bumpRank_snd {j m : Nat} (old r : JoinReg) (h : m ≠ j) :
    (bumpRank j old (m, r)).2 =
      if r.armed && (!old.armed || r.rank < old.rank) then { r with rank := r.rank + 1 } else r := by
  simp only [bumpRank, bne_iff_ne.mpr h, Bool.true_and]
  split <;> rfl

/-- What JSET leaves. -/
def State.armJoin (s : State) (j : Nat) : State :=
  (s.updGrp s.gid fun g => { g with joins := g.joins.map (bumpRank j (s.join s.gid j)) }).setJoin s.gid j
    { armed := true, rank := 0, expected := s.sl.run, arrived := 0, fmt := s.sl.fmt }

theorem exec_jset_acts {s : State} {j : Nat} (h : s.Acts (.jset j)) : exec (.jset j) s = .next (s.armJoin j) := by
  rw [exec_jset, execJset, State.issuedC_next _ h]
  rfl

theorem State.join_armJoin_ne (s : State) {j m : Nat} (h : m ≠ j) :
    (s.armJoin j).join s.gid m = (bumpRank j (s.join s.gid j) (m, s.join s.gid m)).2 := by
  have hnone : (bumpRank j (s.join s.gid j) (m, {})).2 = {} := by simp [bumpRank_snd _ _ h]
  rw [armJoin, join_setJoin_ne _ _ _ h]
  simp only [join, grp_updGrp_self]
  exact Tbl.get_map {} _ (bumpRank_fst j _) _ m hnone

theorem joinSet : Claims.JoinSet := by
  intro s j h
  refine ⟨_, exec_jset_acts h, ⟨rfl, fun g hg => ?_⟩, rfl, ?_, State.join_setJoin_self _ _ _ _, fun m hm => ?_⟩
  · rw [State.armJoin, State.setJoin, State.grp_updGrp_ne _ _ hg, State.grp_updGrp_ne _ _ hg]
  · show (s.armJoin j).grp s.gid = { s.g with joins := ((s.armJoin j).grp s.gid).joins }
    simp only [State.armJoin, State.setJoin, State.grp_updGrp_self]
    rfl
  · rw [State.join_armJoin_ne s hm, bumpRank_snd _ _ hm]

/-- JOIN at a register that is not armed writes %gstat and the split's PC alone. -/
theorem State.lostJoin_frame (s : State) :
    let t := (s.setLostJ s.gid).jump s.nextPc
    t.issue.out = .jumped ∧ t.mem = s.mem ∧ t.blks = s.blks ∧ (t.grp s.gid).vregs = s.g.vregs ∧
      (t.grp s.gid).sregs = s.g.sregs ∧ ∀ g, g ≠ s.gid → t.grp g = s.grp g := by
  have hother : ∀ g, g ≠ s.gid → ((s.setLostJ s.gid).jump s.nextPc).grp g = s.grp g := fun g hg =>
    ((setSlot_onlySplits (s.setLostJ s.gid) s.gid s.issue.slot _).grp_ne hg).trans (grp_updGrp_ne s _ hg)
  refine ⟨setOut_out _ _, ?_, ?_, ?_, ?_, hother⟩ <;>
    simp [setLostJ, jump, updSl, updSlot, setSlot, updGrp, setOut_grp, State.g, State.gid]

/-- The frame of JOIN at an armed register. -/
theorem State.arriveJoin_unchanged (s : State) (j : Nat) :
    let t := s.arriveJoin j
    t.issue.out = .jumped ∧ t.mem = s.mem ∧ t.blks = s.blks ∧ (t.grp s.gid).vregs = s.g.vregs ∧
      (t.grp s.gid).sregs = s.g.sregs ∧ ∀ g, g ≠ s.gid → t.grp g = s.grp g := by
  obtain ⟨t, ⟨hst, hother, hgrp⟩, ht⟩ := s.arriveJoin_frame j
  rw [ht]
  refine ⟨rfl, ?_, ?_, ?_, ?_, hother⟩
  · rw [setOut_mem, hst]
  · rw [setOut_blks, hst]
  · rw [setOut_grp, hgrp]; rfl
  · rw [setOut_grp, hgrp]; rfl

/-- Each clause of the claim from the lemma on its outcome; at a register that is not armed only the first clause asks for
something. -/
theorem joinArrive : Claims.JoinArrive := by
  intro s j h r run after newest resumes
  rcases Bool.eq_false_or_eq_true r.armed with ha | ha
  case inr =>
    obtain ⟨hout, hmem, hblks, hv, hs, hg⟩ := s.lostJoin_frame
    refine ⟨_, State.exec_join_unarmed h ha, hout, hmem, hblks, hv, hs, hg, fun _ => rfl, ?_, ?_, ?_, ?_⟩ <;> simp [ha]
  case inl =>
    have hsl := s.sl_arriveJoin j
    obtain ⟨hout, hmem, hblks, hv, hs, hg⟩ := s.arriveJoin_unchanged j
    refine ⟨_, State.exec_join_armed h ha, hout, hmem, hblks, hv, hs, hg, ?_, ?_, ?_, ?_, ?_⟩
    · simp [ha]
    · intro _ hd hc
      refine ⟨?_, fun hp => ?_, fun hp hno => ?_, fun ds es d hp hnew => ?_⟩
      · exact State.arriveJoin_deposits hd (State.arriveJoin_of_missing hc)
      · rw [hsl, State.arriveJoin_of_missing hc, State.leaveJoin_of_passing hp, State.slotAt_setOut,
          State.slotAt_depositJoin, if_pos rfl]
        rfl
      · rw [hsl, State.arriveJoin_of_missing hc, State.slotAt_setOut]
        exact State.leaveJoin_slot_of_no_deferral hp hno
      · obtain ⟨hres, hdefer, -⟩ := State.leaveJoin_of_newest hp hnew.2
        simp only [resumes, hsl]
        rw [State.arriveJoin_of_missing hc, State.slotAt_setOut, State.setOut_grp]
        exact ⟨hres, hdefer⟩
    · intro _ hd hj
      exact State.arriveJoin_deposits hd (State.arriveJoin_of_first hj)
    · intro _ hd hj hc hp hno
      rw [hsl]
      exact State.arriveJoin_completes_in_slot ha hd hj hc hp hno
    · intro ds es d _ hd hj hc hp hnew
      obtain ⟨hocc, hnew⟩ := hnew
      obtain ⟨harmed, hres⟩ := State.arriveJoin_completes_behind ha hd hj hc hp hocc hnew
      refine ⟨harmed, ?_, fun m rest hfree => ?_, fun hfree => ?_⟩
      · simpa only [resumes, hsl, State.Resumed] using hres
      · exact (State.arriveJoin_completes_in_free ha hd hj hc hp hocc hnew hfree).2
      · exact (State.arriveJoin_completes_deferred ha hd hj hc hp hocc hnew hfree).2

/-- Settles O10: JSET arms and raises ranks; JOIN deposits, and the last lanes complete. -/
theorem joins : Obligations.Joins := ⟨joinSet, joinArrive⟩

end Sys2Proof.Machine
end

section
/-! SUPPORT. The fields of a capability (04 Table 4.4), the outcomes of CheckCap (04 R79) and what a capability that CAP.BND,
CAP.PRM or CAP.OFS derives keeps of its source (18 R360). Settles O22 and O23. -/

namespace Sys2Proof.Machine
open State

/-! ### CheckCap (04 R79) -/

/-- The tests of R79 with the subcode BOUNDS: [eo, eo + size) lies within the length and ends within the address space. -/
def Cap.Covers (c : Cap) (eo : Int) (size : Nat) : Prop :=
  0 ≤ eo ∧ eo + size ≤ c.len ∧ c.base + eo + size ≤ 2 ^ 57

/-- The tests of R79 before BOUNDS. -/
def Cap.Permits (c : Cap) (scratch : Bool) (perm : Nat) : Prop :=
  c.tag = true ∧ c.resv = 0 ∧ c.exp ≤ 47 ∧ c.scratchref = scratch ∧ c.perms &&& perm = perm

section
variable {scratch : Bool} {c : Cap} {eo : Int} {size perm : Nat}

theorem checkCap_of_untagged (h : c.tag = false) : checkCap scratch c eo size perm = .error 1 := by
  simp [checkCap, h, subTAG]

theorem checkCap_of_malformed (htag : c.tag = true) (h : c.resv ≠ 0 ∨ 47 < c.exp) :
    checkCap scratch c eo size perm = .error 2 := by
  simp [checkCap, htag, h, subFORM]

theorem checkCap_of_other_space (htag : c.tag = true) (hresv : c.resv = 0) (hexp : c.exp ≤ 47)
    (h : c.scratchref ≠ scratch) : checkCap scratch c eo size perm = .error 3 := by
  simp [checkCap, htag, hresv, hexp.not_gt, h, subSPACE]

theorem checkCap_of_lacking (htag : c.tag = true) (hresv : c.resv = 0) (hexp : c.exp ≤ 47)
    (hspace : c.scratchref = scratch) (h : c.perms &&& perm ≠ perm) : checkCap scratch c eo size perm = .error 4 := by
  simp [checkCap, htag, hresv, hexp.not_gt, hspace, h, subPERM]

theorem checkCap_of_outside (hp : c.Permits scratch perm) (h : ¬ c.Covers eo size) :
    checkCap scratch c eo size perm = .error 5 := by
  obtain ⟨htag, hresv, hexp, hspace, hperm⟩ := hp
  have hbounds : 0 ≤ eo → eo + size ≤ c.len → 2 ^ 57 < c.base + eo + size := by unfold Cap.Covers at h; omega
  simpa [checkCap, htag, hresv, hexp.not_gt, hspace, hperm, subBOUNDS] using hbounds

theorem checkCap_of_passes (hp : c.Permits scratch perm) (h : c.Covers eo size) :
    checkCap scratch c eo size perm = .ok (c.base + eo.toNat) := by
  obtain ⟨htag, hresv, hexp, hspace, hperm⟩ := hp
  obtain ⟨hlo, hlen, hend⟩ := h
  simpa [checkCap, htag, hresv, hexp.not_gt, hspace, hperm, hlo.not_gt, hlen.not_gt] using hend

end

/-- What CheckCap can answer: the subcode of the first test that fails, or the address. -/
theorem checkCap_cases (scratch : Bool) (c : Cap) (eo : Int) (size perm : Nat) :
    (c.tag = false ∧ checkCap scratch c eo size perm = .error 1) ∨
    (c.tag = true ∧ (c.resv ≠ 0 ∨ 47 < c.exp) ∧ checkCap scratch c eo size perm = .error 2) ∨
    (c.tag = true ∧ c.resv = 0 ∧ c.exp ≤ 47 ∧ c.scratchref ≠ scratch ∧ checkCap scratch c eo size perm = .error 3) ∨
    (c.tag = true ∧ c.resv = 0 ∧ c.exp ≤ 47 ∧ c.scratchref = scratch ∧ c.perms &&& perm ≠ perm ∧
      checkCap scratch c eo size perm = .error 4) ∨
    (c.Permits scratch perm ∧ ¬ c.Covers eo size ∧ checkCap scratch c eo size perm = .error 5) ∨
    (c.Permits scratch perm ∧ c.Covers eo size ∧ checkCap scratch c eo size perm = .ok (c.base + eo.toNat)) := by
  rcases Bool.eq_false_or_eq_true c.tag with htag | htag
  case inr => exact .inl ⟨htag, checkCap_of_untagged htag⟩
  by_cases hform : c.resv ≠ 0 ∨ 47 < c.exp
  · exact .inr (.inl ⟨htag, hform, checkCap_of_malformed htag hform⟩)
  obtain ⟨hresv, hexp⟩ : c.resv = 0 ∧ c.exp ≤ 47 := by omega
  by_cases hspace : c.scratchref = scratch
  case neg => exact .inr (.inr (.inl ⟨htag, hresv, hexp, hspace, checkCap_of_other_space htag hresv hexp hspace⟩))
  by_cases hperm : c.perms &&& perm = perm
  case neg =>
    exact .inr (.inr (.inr (.inl ⟨htag, hresv, hexp, hspace, hperm, checkCap_of_lacking htag hresv hexp hspace hperm⟩)))
  have hp : c.Permits scratch perm := ⟨htag, hresv, hexp, hspace, hperm⟩
  by_cases hcov : c.Covers eo size
  · exact .inr (.inr (.inr (.inr (.inr ⟨hp, hcov, checkCap_of_passes hp hcov⟩))))
  · exact .inr (.inr (.inr (.inr (.inl ⟨hp, hcov, checkCap_of_outside hp hcov⟩))))

theorem checkCap_eq_ok_iff {scratch : Bool} {c : Cap} {eo : Int} {size perm a : Nat} :
    checkCap scratch c eo size perm = .ok a ↔ c.Permits scratch perm ∧ c.Covers eo size ∧ (a : Int) = c.base + eo := by
  constructor
  · intro h
    rcases checkCap_cases scratch c eo size perm with
      ⟨-, hr⟩ | ⟨-, -, hr⟩ | ⟨-, -, -, -, hr⟩ | ⟨-, -, -, -, -, hr⟩ | ⟨-, -, hr⟩ | ⟨hp, hcov, hr⟩ <;> rw [hr] at h <;> cases h
    have hlo := hcov.1
    exact ⟨hp, hcov, by omega⟩
  · rintro ⟨hp, hcov, ha⟩
    have hlo := hcov.1
    rw [checkCap_of_passes hp hcov]
    congr 1
    omega

/-- Settles O23: each answer of `checkCap_cases` determines the test that failed. (`checkCap` itself names the function.) -/
theorem checkCap_decides : Obligations.CheckCap := by
  intro scratch c eo size perm
  refine ⟨fun a => ?_, fun k h => ?_⟩
  · simp only [checkCap_eq_ok_iff, Cap.Permits, Cap.Covers, and_assoc]
  · rcases checkCap_cases scratch c eo size perm with
      ⟨htag, hr⟩ | ⟨htag, hform, hr⟩ | ⟨htag, hresv, hexp, hspace, hr⟩ | ⟨htag, hresv, hexp, hspace, hperm, hr⟩ |
      ⟨⟨htag, hresv, hexp, hspace, hperm⟩, -, hr⟩ | ⟨-, -, hr⟩ <;> rw [hr] at h <;> cases h
    · simp [htag]
    · simp [htag, hform]; omega
    · simp [htag, hresv, hexp, hspace]
    · simp [htag, hresv, hexp, hspace, hperm]
    · simp [htag, hresv, hexp, hspace, hperm]

/-! ### Fields of a capability (04 Table 4.4) -/

theorem toNat_append_eq_add {h w : Nat} (hi : BitVec h) (lo : BitVec w) :
    (hi ++ lo).toNat = lo.toNat + 2 ^ w * hi.toNat := by
  rw [BitVec.toNat_append, ← Nat.shiftLeft_add_eq_or_of_lt lo.isLt, Nat.shiftLeft_eq, Nat.mul_comm, Nat.add_comm]

namespace Cap
section
variable (base offset e m perms resv : Nat) (tag : Bool)

/-- The bits of a capability as a number: its fields one above the other. -/
theorem toNat_bits_make :
    (make base offset e m perms resv tag).bits.toNat =
      base % 2 ^ 57 + 2 ^ 57 * (offset % 2 ^ 41 + 2 ^ 41 * (e % 2 ^ 6 + 2 ^ 6 * (m % 2 ^ 10 + 2 ^ 10 *
        (perms % 2 ^ 10 + 2 ^ 10 * (resv % 2 ^ 4))))) := by
  refine (toNat_append_eq_add _ _).trans ?_
  simp only [toNat_append_eq_add, BitVec.toNat_ofNat]

@[simp] theorem tag_make : (make base offset e m perms resv tag).tag = tag := rfl
@[simp] theorem base_make : (make base offset e m perms resv tag).base = base % 2 ^ 57 := by
  rw [Cap.base, toNat_bits_make, bitsOf]; omega
@[simp] theorem exp_make : (make base offset e m perms resv tag).exp = e % 2 ^ 6 := by
  rw [Cap.exp, toNat_bits_make, bitsOf]; omega
@[simp] theorem mant_make : (make base offset e m perms resv tag).mant = m % 2 ^ 10 := by
  rw [Cap.mant, toNat_bits_make, bitsOf]; omega
@[simp] theorem perms_make : (make base offset e m perms resv tag).perms = perms % 2 ^ 10 := by
  rw [Cap.perms, toNat_bits_make, bitsOf]; omega

end

variable (c : Cap)

theorem base_lt : c.base < 2 ^ 57 := Nat.mod_lt _ (Nat.two_pow_pos _)
theorem exp_lt : c.exp < 2 ^ 6 := Nat.mod_lt _ (Nat.two_pow_pos _)
theorem mant_lt : c.mant < 2 ^ 10 := Nat.mod_lt _ (Nat.two_pow_pos _)
theorem perms_lt : c.perms < 2 ^ 10 := Nat.mod_lt _ (Nat.two_pow_pos _)

theorem valid_iff : c.valid = true ↔ c.tag = true ∧ c.resv = 0 ∧ c.exp ≤ 47 := by
  simp [valid, and_assoc]

/-- SCRATCHREF is the highest permission. -/
theorem scratchref_eq : c.scratchref = c.perms.testBit 9 := by
  rw [scratchref, BitVec.getLsbD, Cap.perms, bitsOf, Nat.testBit_mod_two_pow, Nat.testBit_div_two_pow]
  simp

end Cap

/-! ### Derived capabilities (18 R360) -/

/-- `c` is valid, and `d` names the same space, has no further permission and covers no byte that `c` does not. -/
structure Cap.Narrows (d c : Cap) : Prop where
  valid : c.valid = true
  scratchref : d.scratchref = c.scratchref
  perms : c.perms &&& d.perms = d.perms
  start : 0 < d.len → c.base ≤ d.base
  stop : d.base + d.len ≤ c.base + c.len

/-- What a narrower capability admits at an address, the wider one admits there. -/
theorem Cap.Narrows.admits {c d : Cap} (h : d.Narrows c) {scratch : Bool} {eo : Int} {size perm a : Nat} (hsize : 0 < size)
    (hd : checkCap scratch d eo size perm = .ok a) : checkCap scratch c ((a : Int) - c.base) size perm = .ok a := by
  obtain ⟨⟨-, -, -, hspace, hperm⟩, ⟨hlo, hlen, hend⟩, ha⟩ := checkCap_eq_ok_iff.mp hd
  obtain ⟨htag, hresv, hexp⟩ := c.valid_iff.mp h.valid
  have hstart := h.start (by omega)
  have hstop := h.stop
  refine checkCap_eq_ok_iff.mpr ⟨⟨htag, hresv, hexp, h.scratchref ▸ hspace, ?_⟩, ⟨?_, ?_, ?_⟩, ?_⟩
  · calc c.perms &&& perm = c.perms &&& (d.perms &&& perm) := by rw [hperm]
      _ = perm := by rw [← Nat.land_assoc, h.perms, hperm]
  all_goals omega

/-- A capability put together from fields that keep within those of `c`. -/
theorem Cap.make_narrows {c : Cap} (base offset e m perms resv : Nat) (tag : Bool) (hvalid : c.valid = true)
    (hperms : c.perms &&& perms = perms) (hspace : perms.testBit 9 = c.perms.testBit 9) (he : e < 2 ^ 6) (hm : m < 2 ^ 10)
    (hstart : 0 < m * 2 ^ e → c.base ≤ base % 2 ^ 57) (hstop : base % 2 ^ 57 + m * 2 ^ e ≤ c.base + c.len) :
    (Cap.make base offset e m perms resv tag).Narrows c := by
  have hp : perms % 2 ^ 10 = perms := Nat.mod_eq_of_lt ((hperms ▸ Nat.and_le_left).trans_lt c.perms_lt)
  have hlen : (Cap.make base offset e m perms resv tag).len = m * 2 ^ e := by
    rw [Cap.len, Cap.mant_make, Cap.exp_make, Nat.mod_eq_of_lt he, Nat.mod_eq_of_lt hm]
  refine ⟨hvalid, ?_, ?_, ?_, ?_⟩
  · rw [Cap.scratchref_eq, Cap.perms_make, hp, hspace, Cap.scratchref_eq]
  · rw [Cap.perms_make, hp, hperms]
  · rwa [hlen, Cap.base_make]
  · rwa [hlen, Cap.base_make]

/-- The shape of CAP.PRM and CAP.OFS: BASE, E and M are the source's. -/
theorem Cap.make_same_range_narrows {c : Cap} (offset perms resv : Nat) (tag : Bool) (hvalid : c.valid = true)
    (hperms : c.perms &&& perms = perms) (hspace : perms.testBit 9 = c.perms.testBit 9) :
    (Cap.make c.base offset c.exp c.mant perms resv tag).Narrows c := by
  have hbase : c.base % 2 ^ 57 = c.base := Nat.mod_eq_of_lt c.base_lt
  refine Cap.make_narrows _ _ _ _ _ _ _ hvalid hperms hspace c.exp_lt c.mant_lt (fun _ => hbase.ge) ?_
  rw [hbase, Cap.len]

theorem capOfs_narrows {c : Cap} {y : Int} (ht : (capOfs c y).tag = true) : (capOfs c y).Narrows c := by
  obtain ⟨⟨hvalid, -⟩, -⟩ : (c.valid = true ∧ 0 ≤ (c.offset : Int) + y) ∧ (c.offset : Int) + y < 2 ^ 41 := by
    simpa [capOfs] using ht
  exact Cap.make_same_range_narrows _ _ _ _ hvalid (Nat.and_self _) rfl

/-- CAP.PRM gives no permission that the source lacks, and keeps bit 123. -/
theorem capPrm_narrows {c : Cap} {x : Nat} (ht : (capPrm c x).tag = true) : (capPrm c x).Narrows c := by
  refine Cap.make_same_range_narrows _ _ _ _ ht ?_ ?_
  · rw [← Nat.land_assoc, Nat.and_self]
  · simp [pSCRATCHREF, show Nat.testBit 512 9 = true from rfl]

/-- An exponent that `leastExp` gives is at most 47, and the length in its units fits M. -/
theorem leastExp_eq_some {n e : Nat} (h : leastExp n = some e) : e ≤ 47 ∧ ceilShift n e ≤ 1023 := by
  have hlt : e < 48 := List.mem_range.mp (List.mem_of_find?_eq_some h)
  have hunits := List.find?_some (p := fun e => ceilShift n e ≤ 1023) h
  exact ⟨by omega, of_decide_eq_true hunits⟩

/-- CAP.BND stays within the range of its source. Where that range ends with the address space and its OFFSET is its end,
BASE wraps to 0, but no byte is left. -/
theorem capBnd_narrows {c : Cap} {x o : Nat} (hc : c.base + c.len ≤ 2 ^ 57) (ht : (capBnd c x o).tag = true) :
    (capBnd c x o).Narrows c := by
  unfold capBnd at ht ⊢
  split at ht
  case h_2 => simp at ht
  case h_1 e he =>
    obtain ⟨he, hm⟩ := leastExp_eq_some he
    obtain ⟨hvalid, hfits⟩ : c.valid = true ∧ c.offset + ceilShift x e * 2 ^ e ≤ c.len := by simpa using ht
    refine Cap.make_narrows _ _ _ _ _ _ _ hvalid (Nat.and_self _) rfl (by omega) (by omega) ?_ ?_ <;> omega

/-- Settles O22: each of the three words narrows its source. -/
theorem capMonotone : Obligations.CapMonotone := by
  intro c d scratch eo size perm a hc hsize hd ht
  have hnarrow : d.Narrows c := by
    rcases hd with ⟨x, o, rfl⟩ | ⟨x, rfl⟩ | ⟨y, rfl⟩
    · exact capBnd_narrows hc ht
    · exact capPrm_narrows ht
    · exact capOfs_narrows ht
  exact ⟨hnarrow.stop.trans hc, hnarrow.admits hsize⟩

end Sys2Proof.Machine
end

section
/-! SUPPORT. Decoding, encoding and exact arithmetic of the binary formats (05 R86, R87, R93). The patterns of the magnitudes are
in rising order, so that rounding is the choice between two neighbouring patterns. Settles O4. -/

namespace Sys2Proof.Machine
open Claims

/-! ### The magnitudes of a binary format (05 Table 5.1) -/

namespace FFmt
variable {f : FFmt}

/-- `d` units of the `t`-th binade have the bits `t * 2 ^ fbits + d`, where they fill the binade or it is the lowest one. -/
theorem magnitude_place {t d : Nat} (hd : d ≤ 2 ^ (f.fbits + 1)) (ht : t = 0 ∨ 2 ^ f.fbits ≤ d) :
    magnitude f (t * 2 ^ f.fbits + d) = d * 2 ^ (f.qmin + t) := by
  have hpos : 0 < 2 ^ f.fbits := Nat.two_pow_pos _
  rw [pow_succ] at hd
  rcases lt_or_ge d (2 ^ f.fbits) with hlow | hfull
  · obtain rfl : t = 0 := ht.resolve_right (by omega)
    simp [magnitude, hlow]
  obtain ⟨n, rfl⟩ := Nat.exists_eq_add_of_le hfull
  have hbits : t * 2 ^ f.fbits + (2 ^ f.fbits + n) = n + 2 ^ f.fbits * (t + 1) := by ring
  have hge : ¬ n + 2 ^ f.fbits * (t + 1) < 2 ^ f.fbits := by rw [← hbits]; omega
  rw [hbits, magnitude, if_neg hge, Nat.add_mul_mod_self_left, Nat.add_mul_div_left _ _ hpos]
  rcases lt_or_eq_of_le (show n ≤ 2 ^ f.fbits by omega) with hn | rfl
  · simp [Nat.mod_eq_of_lt hn, Nat.div_eq_of_lt hn]
  · have hexp : f.qmin + ((2 ^ f.fbits / 2 ^ f.fbits + (t + 1) - 1 : Nat) : Int) = f.qmin + t + 1 := by
      rw [Nat.div_self hpos]; omega
    rw [hexp, zpow_add_one₀ two_ne_zero]
    simp; ring

/-- Every pattern has such a place, in which the next pattern is the next unit. -/
theorem exists_place (f : FFmt) (k : Nat) :
    ∃ t d, k = t * 2 ^ f.fbits + d ∧ d < 2 ^ (f.fbits + 1) ∧ (t = 0 ∨ 2 ^ f.fbits ≤ d) := by
  have hsplit := Nat.div_add_mod' k (2 ^ f.fbits)
  have hmod := Nat.mod_lt k (Nat.two_pow_pos f.fbits)
  rw [pow_succ]
  generalize k / 2 ^ f.fbits = x at hsplit
  cases x with
  | zero => exact ⟨0, k % 2 ^ f.fbits, hsplit.symm, by omega, .inl rfl⟩
  | succ t =>
    refine ⟨t, 2 ^ f.fbits + k % 2 ^ f.fbits, ?_, by omega, .inr (by omega)⟩
    rw [← add_assoc, ← Nat.succ_mul, hsplit]

theorem magnitude_strictMono (f : FFmt) : StrictMono (magnitude f) := by
  refine strictMono_nat_of_lt_succ fun k => ?_
  obtain ⟨t, d, rfl, hd, ht⟩ := f.exists_place k
  rw [add_assoc, magnitude_place hd.le ht, magnitude_place hd (by omega)]
  push_cast
  gcongr
  exact lt_add_one _

end FFmt

/-! ### Rounding to a multiple of a unit (R93) -/

theorem roundShift_of_exact (mode : RMode) (neg : Bool) {m n : Nat} (h : m % 2 ^ n = 0) :
    roundShift mode neg m n false = m / 2 ^ n := by
  cases mode <;> simp [roundShift, roundUp, h]

theorem roundShift_of_inexact (mode : RMode) (neg : Bool) {m n : Nat} (h : m % 2 ^ n ≠ 0) :
    roundShift mode neg m n false = match mode with
      | .rz => m / 2 ^ n
      | .ru => if neg then m / 2 ^ n else m / 2 ^ n + 1
      | .rd => if neg then m / 2 ^ n + 1 else m / 2 ^ n
      | .rne =>
        if 2 * (m % 2 ^ n) < 2 ^ n ∨ 2 * (m % 2 ^ n) = 2 ^ n ∧ m / 2 ^ n % 2 = 0 then m / 2 ^ n else m / 2 ^ n + 1 := by
  cases mode with
  | rz => simp [roundShift, roundUp]
  | ru => cases neg <;> simp [roundShift, roundUp, h]
  | rd => cases neg <;> simp [roundShift, roundUp, h]
  | rne =>
    rcases lt_trichotomy (2 * (m % 2 ^ n)) (2 ^ n) with hr | hr | hr
    · simp [roundShift, roundUp, hr]
    · rcases Nat.mod_two_eq_zero_or_one (m / 2 ^ n) with hq | hq <;> simp [roundShift, roundUp, hr, hq]
    · simp [roundShift, roundUp, hr.not_gt, hr.ne']

/-- In units of `unit`, `m` lies between the multiples `m / 2 ^ n` and `m / 2 ^ n + 1` of `2 ^ n`. Where `val` lists these one
after the other, the first at an index of the quotient's parity, `roundShift` rounds `m` as R93 has it. -/
theorem roundsTo_roundShift (mode : RMode) (neg : Bool) (m n : Nat) {val : Nat → ℚ} {base : Nat} {unit : ℚ}
    (hunit : 0 < unit) (heven : base % 2 = 0) (hlo : val (base + m / 2 ^ n) = (m / 2 ^ n * 2 ^ n : Nat) * unit)
    (hhi : val (base + m / 2 ^ n + 1) = ((m / 2 ^ n + 1) * 2 ^ n : Nat) * unit) :
    RoundsTo mode neg id val (m * unit) (base + roundShift mode neg m n false) := by
  have hdiv := Nat.div_add_mod' m (2 ^ n)
  by_cases hexact : m % 2 ^ n = 0
  · left
    rw [roundShift_of_exact mode neg hexact, id, hlo, ← Nat.div_add_mod' m (2 ^ n), hexact]
    simp
  right
  have hmod := Nat.mod_lt m (Nat.two_pow_pos n)
  rw [Nat.succ_mul] at hhi
  refine ⟨base + m / 2 ^ n, ?_, ?_, ?_⟩
  · rw [id, hlo, mul_lt_mul_iff_left₀ hunit, Nat.cast_lt]; omega
  · rw [id, hhi, mul_lt_mul_iff_left₀ hunit, Nat.cast_lt]; omega
  rw [roundShift_of_inexact mode neg hexact]
  cases mode with
  | rz => rfl
  | ru => cases neg <;> rfl
  | rd => cases neg <;> rfl
  | rne =>
    have hhalf : 0 < unit / 2 := half_pos hunit
    have hv : (m : ℚ) * unit = (2 * m : Nat) * (unit / 2) := by push_cast; ring
    have hmid : (val (base + m / 2 ^ n) + val (base + m / 2 ^ n + 1)) / 2 =
        (2 * (m / 2 ^ n * 2 ^ n) + 2 ^ n : Nat) * (unit / 2) := by
      rw [hlo, hhi]; push_cast; ring
    have hbelow : 2 * m < 2 * (m / 2 ^ n * 2 ^ n) + 2 ^ n ↔ 2 * (m % 2 ^ n) < 2 ^ n := by omega
    have htie : 2 * m = 2 * (m / 2 ^ n * 2 ^ n) + 2 ^ n ↔ 2 * (m % 2 ^ n) = 2 ^ n := by omega
    have hparity : (base + m / 2 ^ n) % 2 = 0 ↔ m / 2 ^ n % 2 = 0 := by omega
    simp only [id, hmid, hv, mul_lt_mul_iff_left₀ hhalf, mul_left_inj' hhalf.ne', Nat.cast_lt, Nat.cast_inj, hbelow, htie,
      hparity]
    split <;> rfl

/-! ### One rounding (R93) -/

namespace FFmt
variable {f : FFmt} {mode : RMode} {neg : Bool} {m k bits : Nat} {e : Int} {v : ℚ}

/-- The exponent of the last bit that `round` keeps. -/
def quantum (f : FFmt) (m : Nat) (e : Int) : Int :=
  max (e + Nat.log2 m - f.fbits) f.qmin

/-- What `round` keeps of `m * 2 ^ e`, in units of the last kept bit. -/
def significand (f : FFmt) (mode : RMode) (neg : Bool) (m : Nat) (e : Int) : Nat :=
  if f.quantum m e ≤ e then m * 2 ^ (e - f.quantum m e).toNat
  else roundShift mode neg m (f.quantum m e - e).toNat false

/-- The exponent and fraction bits of `round` as if the format had no largest exponent. -/
def unboundedBits (f : FFmt) (mode : RMode) (neg : Bool) (m : Nat) (e : Int) : Nat :=
  (f.quantum m e - f.qmin).toNat * 2 ^ f.fbits + f.significand mode neg m e

/-- What becomes of such bits when the largest exponent is seen (05 R93, overflow). -/
def clip (f : FFmt) (mode : RMode) (neg : Bool) (k : Nat) : Nat :=
  if k < f.infBits then k
  else if mode = .rne ∨ mode = .ru ∧ neg = false ∨ mode = .rd ∧ neg = true then f.infBits else f.infBits - 1

theorem clip_of_lt (mode : RMode) (neg : Bool) (h : k < f.infBits) : f.clip mode neg k = k := if_pos h

theorem clip_of_le (mode : RMode) (neg : Bool) (h : f.infBits ≤ k) : f.clip mode neg k =
    if mode = .rne ∨ mode = .ru ∧ neg = false ∨ mode = .rd ∧ neg = true then f.infBits else f.infBits - 1 :=
  if_neg (by omega)

@[simp] theorem clip_zero (f : FFmt) (mode : RMode) (neg : Bool) : f.clip mode neg 0 = 0 := by
  rcases f.infBits.eq_zero_or_pos with h | h
  · simp [clip_of_le, h]
  · exact clip_of_lt mode neg h

@[simp] theorem round_zero (f : FFmt) (mode : RMode) (neg : Bool) (e : Int) : f.round mode neg 0 e = f.signBit neg := rfl

theorem round_of_ne_zero (hm : m ≠ 0) :
    f.round mode neg m e = f.signBit neg + f.clip mode neg (f.unboundedBits mode neg m e) := by
  have hround : f.round mode neg m e =
      if f.unboundedBits mode neg m e < f.infBits then f.signBit neg + f.unboundedBits mode neg m e
      else f.signBit neg + if (match mode with | .rne => true | .rz => false | .ru => !neg | .rd => neg) then f.infBits
        else f.infBits - 1 := by
    rw [round.eq_def, if_neg (by simp [hm])]
    rfl
  rw [hround, clip]
  split
  · rfl
  · cases mode <;> simp

/-- Where the quantum does not exceed the exponent, nothing is lost. -/
theorem magnitude_of_quantum_le {t n : Nat} (hm : m ≠ 0) (hq : f.quantum m e = f.qmin + t) (he : f.qmin + t + n = e) :
    magnitude f (t * 2 ^ f.fbits + m * 2 ^ n) = m * 2 ^ e := by
  unfold quantum at hq
  rw [magnitude_place, ← he, zpow_add₀ two_ne_zero _ (n : Int), zpow_natCast]
  · push_cast; ring
  · calc m * 2 ^ n ≤ 2 ^ (m.log2 + 1) * 2 ^ n := by gcongr; exact Nat.lt_log2_self.le
      _ = 2 ^ (m.log2 + 1 + n) := (pow_add ..).symm
      _ ≤ 2 ^ (f.fbits + 1) := Nat.pow_le_pow_right two_pos (by omega)
  · refine t.eq_zero_or_pos.imp_right fun ht => ?_
    calc 2 ^ f.fbits = 2 ^ (m.log2 + n) := by congr 1; omega
      _ = 2 ^ m.log2 * 2 ^ n := pow_add ..
      _ ≤ m * 2 ^ n := by gcongr; exact Nat.log2_self_le hm

/-- Where the quantum exceeds the exponent, the discarded bits round the significand. -/
theorem roundsTo_of_lt_quantum {t n : Nat} (hf : 0 < f.fbits) (hm : m ≠ 0) (hq : f.quantum m e = f.qmin + t)
    (he : e + n = f.qmin + t) :
    RoundsTo mode neg id (magnitude f) (m * 2 ^ e) (t * 2 ^ f.fbits + roundShift mode neg m n false) := by
  unfold quantum at hq
  have hd : m / 2 ^ n < 2 ^ (f.fbits + 1) := by
    refine Nat.div_lt_of_lt_mul (Nat.lt_log2_self.trans_le ?_)
    rw [← pow_add]
    exact Nat.pow_le_pow_right two_pos (by omega)
  have ht : t = 0 ∨ 2 ^ f.fbits ≤ m / 2 ^ n := by
    refine t.eq_zero_or_pos.imp_right fun ht => ?_
    rw [Nat.le_div_iff_mul_le (Nat.two_pow_pos n), ← pow_add, show f.fbits + n = m.log2 by omega]
    exact Nat.log2_self_le hm
  refine roundsTo_roundShift mode neg m n (by positivity) ?_ ?_ ?_
  · rw [Nat.mul_mod, Nat.pow_mod, Nat.mod_self, zero_pow hf.ne']
    simp
  · rw [magnitude_place hd.le ht, ← he, zpow_add₀ two_ne_zero, zpow_natCast]
    push_cast; ring
  · rw [add_assoc, magnitude_place hd (by omega), ← he, zpow_add₀ two_ne_zero, zpow_natCast]
    push_cast; ring

theorem roundsTo_unboundedBits (hf : 0 < f.fbits) (hm : m ≠ 0) :
    RoundsTo mode neg id (magnitude f) (m * 2 ^ e) (f.unboundedBits mode neg m e) := by
  have hq : f.quantum m e = f.qmin + (f.quantum m e - f.qmin).toNat := by unfold quantum; omega
  unfold unboundedBits significand
  split
  · exact .inl (magnitude_of_quantum_le hm hq (by omega)).symm
  · exact roundsTo_of_lt_quantum hf hm hq (by omega)

/-- Rounding with exponents without bound, then the results of an overflow, is one rounding in the format. -/
theorem rounded_of_roundsTo (hk : RoundsTo mode neg id (magnitude f) v k) :
    Rounded f mode neg id v (f.signBit neg + f.clip mode neg k) := by
  have hmono := f.magnitude_strictMono
  refine ⟨_, rfl, ?_⟩
  rcases hk with rfl | ⟨j, hlo, hhi, hk⟩
  · rcases lt_or_ge k f.infBits with h | h
    · rw [id, id, if_pos (hmono h), clip_of_lt mode neg h]
      exact .inl rfl
    · rw [id, id, if_neg (hmono.monotone h).not_gt, clip_of_le mode neg h]
  rw [id] at hlo hhi ⊢
  have hstep : k = j ∨ k = j + 1 ∧ (mode = .rne ∨ mode = .ru ∧ neg = false ∨ mode = .rd ∧ neg = true) := by
    cases mode with
    | rne => dsimp only at hk; split at hk <;> simp [hk]
    | rz => simp [hk]
    | ru => cases neg <;> simp [hk]
    | rd => cases neg <;> simp [hk]
  rcases lt_or_ge v (magnitude f f.infBits) with hv | hv
  · have hj : j < f.infBits := hmono.lt_iff_lt.mp (hlo.trans hv)
    have hclip : f.clip mode neg k = k := by
      rcases hstep with rfl | ⟨rfl, htoInf⟩
      · exact clip_of_lt mode neg hj
      · rw [clip, if_pos htoInf]
        split <;> omega
    rw [if_pos hv, hclip]
    exact .inr ⟨j, hlo, hhi, hk⟩
  · have hj : f.infBits ≤ j := Nat.lt_succ_iff.mp (hmono.lt_iff_lt.mp (hv.trans_lt hhi))
    rw [if_neg hv.not_gt, clip_of_le mode neg (by omega)]

/-- 05 R93: every finite number is rounded once. -/
theorem rounded_encode (hf : 0 < f.fbits) : Rounded f mode neg id (m * 2 ^ e) (f.encode mode (.fin neg m e)) := by
  rw [encode]
  rcases eq_or_ne m 0 with rfl | hm
  · have hzero : RoundsTo mode neg id (magnitude f) ((0 : Nat) * 2 ^ e) 0 := .inl (by simp [magnitude])
    simpa using rounded_of_roundsTo hzero
  · rw [round_of_ne_zero hm]
    exact rounded_of_roundsTo (roundsTo_unboundedBits hf hm)

end FFmt

/-! ### Decoding (R86, R87) -/

namespace FFmt
variable {f : FFmt} {mode : RMode} {neg : Bool} {b k : Nat}

theorem signBit_testBit_add_mod (hb : b < 2 ^ (f.ebits + f.fbits + 1)) :
    f.signBit (b.testBit (f.ebits + f.fbits)) + b % 2 ^ (f.ebits + f.fbits) = b := by
  have hdiv := Nat.div_add_mod b (2 ^ (f.ebits + f.fbits))
  have hlt : b / 2 ^ (f.ebits + f.fbits) < 2 := Nat.div_lt_of_lt_mul (by rwa [← pow_succ])
  rw [Nat.testBit_eq_decide_div_mod_eq, Nat.mod_eq_of_lt hlt]
  generalize b / 2 ^ (f.ebits + f.fbits) = x at hdiv hlt
  interval_cases x <;> simpa [signBit] using hdiv

theorem testBit_signBit_add (hk : k < 2 ^ (f.ebits + f.fbits)) :
    (f.signBit neg + k).testBit (f.ebits + f.fbits) = neg := by
  cases neg <;> simp [signBit, Nat.testBit_two_pow_add_eq, Nat.testBit_lt_two_pow hk]

theorem signBit_add_mod (hk : k < 2 ^ (f.ebits + f.fbits)) :
    (f.signBit neg + k) % 2 ^ (f.ebits + f.fbits) = k := by
  cases neg <;> simp [signBit, Nat.mod_eq_of_lt hk]

theorem signBit_add_lt (hk : k < 2 ^ (f.ebits + f.fbits)) : f.signBit neg + k < 2 ^ (f.ebits + f.fbits + 1) := by
  rw [pow_succ]
  cases neg <;> simp [signBit] <;> omega

theorem infBits_lt (f : FFmt) : f.infBits < 2 ^ (f.ebits + f.fbits) := by
  rw [infBits, pow_add]
  exact Nat.mul_lt_mul_of_pos_right (Nat.sub_one_lt (Nat.two_pow_pos _).ne') (Nat.two_pow_pos _)

/-- Decoding reads the sign, and the exponent and the fraction from the bits below it. -/
theorem decode_eq (f : FFmt) (b : Nat) :
    let neg := b.testBit (f.ebits + f.fbits)
    let k := b % 2 ^ (f.ebits + f.fbits)
    f.decode b = if k / 2 ^ f.fbits = 2 ^ f.ebits - 1 then (if k % 2 ^ f.fbits = 0 then .inf neg else .nan)
      else if k / 2 ^ f.fbits = 0 then .fin neg (k % 2 ^ f.fbits) f.qmin
      else .fin neg (2 ^ f.fbits + k % 2 ^ f.fbits) (f.qmin + (k / 2 ^ f.fbits - 1 : Nat)) := by
  have hneg : (b / 2 ^ (f.ebits + f.fbits) % 2 == 1) = b.testBit (f.ebits + f.fbits) := by
    rw [Nat.testBit_eq_decide_div_mod_eq]; rfl
  have hfrac : b % 2 ^ (f.ebits + f.fbits) % 2 ^ f.fbits = b % 2 ^ f.fbits :=
    Nat.mod_mod_of_dvd _ (Nat.pow_dvd_pow 2 (by omega))
  have hexp : b % 2 ^ (f.ebits + f.fbits) / 2 ^ f.fbits = b / 2 ^ f.fbits % 2 ^ f.ebits := by
    rw [add_comm, pow_add, Nat.mod_mul_right_div_self]
  dsimp only
  rw [decode, hneg, hfrac, hexp]

theorem decodes (f : FFmt) : Decodes f := by
  intro b hb
  have hdecode := f.decode_eq b
  have hlt : b % 2 ^ (f.ebits + f.fbits) / 2 ^ f.fbits < 2 ^ f.ebits :=
    Nat.div_lt_of_lt_mul (by rw [← pow_add, add_comm]; exact Nat.mod_lt _ (Nat.two_pow_pos _))
  dsimp only at hdecode ⊢
  generalize b.testBit (f.ebits + f.fbits) = neg at *
  generalize b % 2 ^ (f.ebits + f.fbits) = k at *
  have hsplit := Nat.div_add_mod' k (2 ^ f.fbits)
  have hmod := Nat.mod_lt k (Nat.two_pow_pos f.fbits)
  by_cases hmax : k / 2 ^ f.fbits = 2 ^ f.ebits - 1
  · have hk : k = f.infBits + k % 2 ^ f.fbits := by rw [infBits, ← hmax, hsplit]
    rw [hdecode, if_pos hmax]
    refine ⟨fun h => if_neg (by omega), fun h => if_pos (by omega), fun h => by omega⟩
  have hfin : k < f.infBits := by
    have := Nat.mul_le_mul_right (2 ^ f.fbits) (show k / 2 ^ f.fbits + 1 ≤ 2 ^ f.ebits - 1 by omega)
    rw [Nat.succ_mul] at this
    rw [infBits]
    omega
  refine ⟨fun h => by omega, fun h => by omega, fun _ => ?_⟩
  rw [hdecode, if_neg hmax]
  by_cases hsub : k / 2 ^ f.fbits = 0
  · have hk : k < 2 ^ f.fbits := by rw [hsub] at hsplit; omega
    exact ⟨_, _, if_pos hsub, by rw [magnitude, if_pos hk, Nat.mod_eq_of_lt hk]⟩
  · have hk : ¬ k < 2 ^ f.fbits := fun h => hsub (Nat.div_eq_of_lt h)
    exact ⟨_, _, if_neg hsub, by rw [magnitude, if_neg hk]; push_cast; rfl⟩

/-- What is a magnitude of the format already is rounded to itself. -/
theorem eq_signBit_add_of_rounded {bits : Nat} (hk : k < f.infBits) (h : Rounded f mode neg id (magnitude f k) bits) :
    bits = f.signBit neg + k := by
  have hmono := f.magnitude_strictMono
  obtain ⟨i, rfl, hi⟩ := h
  rw [id, if_pos (hmono hk)] at hi
  rcases hi with heq | ⟨j, hlo, hhi, -⟩
  · rw [hmono.injective heq]
  · have hj : j < k := hmono.lt_iff_lt.mp hlo
    have hj' : k < j + 1 := hmono.lt_iff_lt.mp hhi
    omega

/-- 05 R87, R93: what is decoded is encoded as it was. -/
theorem encode_decode (hf : 0 < f.fbits) (hb : b < 2 ^ (f.ebits + f.fbits + 1)) (hnan : (f.decode b).isNan = false) :
    f.encode mode (f.decode b) = b := by
  have hbits := signBit_testBit_add_mod hb
  obtain ⟨hnanOf, hinf, hfin⟩ := f.decodes b hb
  rcases lt_trichotomy (b % 2 ^ (f.ebits + f.fbits)) f.infBits with hk | hk | hk
  · obtain ⟨m, e, hdecode, hvalue⟩ := hfin hk
    have hround := rounded_encode (mode := mode) (neg := b.testBit (f.ebits + f.fbits)) (m := m) (e := e) hf
    rw [hvalue] at hround
    rw [hdecode, eq_signBit_add_of_rounded hk hround, hbits]
  · rw [hinf hk, encode, ← hk, hbits]
  · rw [hnanOf hk] at hnan
    cases hnan

theorem encode_decode_of_isNan (hnan : (f.decode b).isNan = true) : f.encode mode (f.decode b) = f.nanBits := by
  cases hdecode : f.decode b with
  | nan => rfl
  | inf | fin => simp [hdecode, Num.isNan] at hnan

/-- 05 R93: rounding toward zero gives the last finite magnitude that does not exceed the exact one. -/
theorem encode_rz (hf : 0 < f.fbits) (hinf : 0 < f.infBits) (neg : Bool) (m : Nat) (e : Int) :
    ∃ k < f.infBits, f.encode .rz (.fin neg m e) = f.signBit neg + k ∧
      ∀ j < f.infBits, magnitude f j ≤ m * 2 ^ e ↔ j ≤ k := by
  have hmono := f.magnitude_strictMono
  obtain ⟨k, hbits, hk⟩ := rounded_encode (mode := .rz) (neg := neg) (m := m) (e := e) hf
  split at hk
  case isTrue hv =>
    rcases hk with heq | ⟨j, hlo, hhi, hkj⟩
    · rw [heq] at hv
      exact ⟨k, hmono.lt_iff_lt.mp hv, hbits, fun j _ => by rw [heq, id, hmono.le_iff_le]⟩
    · obtain rfl : k = j := hkj
      exact ⟨k, hmono.lt_iff_lt.mp (hlo.trans hv), hbits, fun i _ =>
        ⟨fun hi => Nat.lt_succ_iff.mp (hmono.lt_iff_lt.mp (hi.trans_lt hhi)), fun hi => (hmono.monotone hi).trans hlo.le⟩⟩
  case isFalse hv =>
    have hk : k = f.infBits - 1 := hk
    exact ⟨k, by omega, hbits, fun j hj => iff_of_true ((hmono hj).le.trans (not_lt.mp hv)) (by omega)⟩

/-- What decodes to a finite number has the bits of a finite magnitude. -/
theorem magnitude_of_decode {m : Nat} {e : Int} (hb : b < 2 ^ (f.ebits + f.fbits + 1)) (h : f.decode b = .fin neg m e) :
    b % 2 ^ (f.ebits + f.fbits) < f.infBits ∧ (m : ℚ) * 2 ^ e = magnitude f (b % 2 ^ (f.ebits + f.fbits)) := by
  obtain ⟨hnan, hinf, hfin⟩ := f.decodes b hb
  rcases lt_trichotomy (b % 2 ^ (f.ebits + f.fbits)) f.infBits with hk | hk | hk
  · obtain ⟨n, x, hdecode, hvalue⟩ := hfin hk
    cases h.symm.trans hdecode
    exact ⟨hk, hvalue⟩
  · cases h.symm.trans (hinf hk)
  · cases h.symm.trans (hnan hk)

/-- Bits below those of infinity give, with either sign, their magnitude. -/
theorem decode_signBit_add (hk : k < f.infBits) :
    ∃ m e, f.decode (f.signBit neg + k) = .fin neg m e ∧ (m : ℚ) * 2 ^ e = magnitude f k := by
  have hlt := hk.trans f.infBits_lt
  obtain ⟨-, -, hfin⟩ := f.decodes _ (signBit_add_lt (neg := neg) hlt)
  rw [signBit_add_mod hlt, testBit_signBit_add hlt] at hfin
  exact hfin hk

end FFmt

/-! ### Sums, products and comparisons (R93) -/

namespace Num
variable {mode : RMode} {s t : Bool} {m n : Nat} {e f x : Int}

theorem scaled_mul_zpow (s : Bool) (m : Nat) (h : x ≤ e) : (scaled s m e x : ℚ) * 2 ^ x = value s m e := by
  obtain ⟨d, rfl⟩ : ∃ d : Nat, e = x + d := ⟨(e - x).toNat, by omega⟩
  cases s <;> simp [scaled, value, zpow_add₀, mul_comm, mul_left_comm]

theorem value_natAbs (v x : Int) : value (decide (v < 0)) v.natAbs x = v * 2 ^ x := by
  rcases lt_or_ge v 0 with hv | hv
  · simp [value, hv, Nat.cast_natAbs, abs_of_neg hv]
  · simp [value, hv.not_gt, Nat.cast_natAbs, abs_of_nonneg hv]

theorem value_eq_zero : value s m e = 0 ↔ m = 0 := by
  cases s <;> simp [value, zpow_ne_zero]

@[simp] theorem value_false (m : Nat) (e : Int) : value false m e = m * 2 ^ e := by simp [value]

theorem cmp_fin (s t : Bool) (m n : Nat) (e f : Int) :
    (fin s m e).cmp (fin t n f) = if value s m e < value t n f then .lt else if value s m e = value t n f then .eq else .gt := by
  have hpos : (0 : ℚ) < 2 ^ min e f := by positivity
  rw [← scaled_mul_zpow s m (min_le_left e f), ← scaled_mul_zpow t n (min_le_right e f), cmp]
  simp only [mul_lt_mul_iff_left₀ hpos, mul_left_inj' hpos.ne', Int.cast_lt, Int.cast_inj]
  rfl

theorem cmp_ne_gt : (fin false m e).cmp (fin false n f) ≠ .gt ↔ (m : ℚ) * 2 ^ e ≤ n * 2 ^ f := by
  rw [cmp_fin, value_false, value_false]
  rcases lt_trichotomy ((m : ℚ) * 2 ^ e) (n * 2 ^ f) with h | h | h
  · simp [h, h.le]
  · simp [h]
  · simp [h.not_gt, h.ne', h]

theorem mul_fin (s t : Bool) (m n : Nat) (e f : Int) :
    ∃ k x, (fin s m e).mul (fin t n f) = fin (s != t) k x ∧ value (s != t) k x = value s m e * value t n f := by
  refine ⟨_, _, rfl, ?_⟩
  cases s <;> cases t <;> simp [value, zpow_add₀] <;> ring

theorem add_fin (mode : RMode) (s t : Bool) (m n : Nat) (e f : Int) :
    ∃ r k x, (fin s m e).add mode (fin t n f) = fin r k x ∧ value r k x = value s m e + value t n f ∧
      (value s m e + value t n f = 0 → r = if s = t ∧ value s m e = 0 then s else decide (mode = .rd)) ∧
      (value s m e + value t n f < 0 → r = true) ∧ (0 < value s m e + value t n f → r = false) := by
  have hpos : (0 : ℚ) < 2 ^ min e f := by positivity
  have hsum : ((scaled s m e (min e f) + scaled t n f (min e f) : Int) : ℚ) * 2 ^ min e f = value s m e + value t n f := by
    rw [Int.cast_add, add_mul, scaled_mul_zpow s m (min_le_left e f), scaled_mul_zpow t n (min_le_right e f)]
  rw [add]
  generalize scaled s m e (min e f) + scaled t n f (min e f) = v at *
  by_cases hv : v = 0
  · have hzero : value s m e + value t n f = 0 := by rw [← hsum, hv]; simp
    refine ⟨_, _, _, if_pos hv, ?_, fun _ => ?_, fun h => absurd hzero h.ne, fun h => absurd hzero h.ne'⟩
    · rw [hzero, value_eq_zero]
    · have hboth : value s m e = 0 ↔ m = 0 ∧ n = 0 := by
        rw [← value_eq_zero (s := s) (e := e), ← value_eq_zero (s := t) (m := n) (e := f)]
        exact ⟨fun h => ⟨h, by linarith⟩, And.left⟩
      have hcond : (m = 0 && n = 0 && s == t) = decide (s = t ∧ value s m e = 0) := by
        rw [Bool.eq_iff_iff]
        simp only [Bool.and_eq_true, decide_eq_true_eq, beq_iff_eq, hboth, and_comm]
      rw [hcond]
      simp only [decide_eq_true_eq]
      rfl
  · have hneg : v < 0 ↔ value s m e + value t n f < 0 := by
      rw [← hsum, ← not_le, ← not_le, mul_nonneg_iff_of_pos_right hpos, Int.cast_nonneg_iff]
    refine ⟨_, _, _, if_neg hv, ?_, fun h => ?_, fun h => ?_, fun h => ?_⟩
    · rw [value_natAbs, hsum]
    · rw [← hsum] at h
      simp [hv, hpos.ne'] at h
    · simpa using hneg.mpr h
    · simpa using (not_congr hneg).mpr h.not_gt

end Num

/-! ### The claims -/

theorem floatRoundTrip : FloatRoundTrip := by
  refine fun mode => ⟨fun w => ?_, fun q => ?_⟩
  · cases hnan : f32IsNan w with
    | true => rw [toF32, f32, FFmt.encode_decode_of_isNan hnan]; rfl
    | false => rw [toF32, f32, FFmt.encode_decode (by decide) w.isLt hnan]; simp
  · cases hnan : (fp64.decode q.toNat).isNan with
    | true => rw [FFmt.encode_decode_of_isNan hnan]; rfl
    | false => rw [FFmt.encode_decode (by decide) q.isLt hnan]; simp

theorem roundTowardZero : RoundTowardZero := by
  intro neg m e
  obtain ⟨k, hk, hbits, hfloor⟩ := fp32.encode_rz (by decide) (by decide) neg m e
  obtain ⟨n, x, hdecode, hvalue⟩ := FFmt.decode_signBit_add (neg := neg) hk
  refine ⟨n, x, ?_, ?_, fun w i y hw hle => ?_⟩
  · have hlt : fp32.signBit neg + k < 2 ^ 32 := FFmt.signBit_add_lt (hk.trans fp32.infBits_lt)
    rw [toF32, f32, BitVec.toNat_ofNat, hbits, Nat.mod_eq_of_lt hlt, hdecode]
  · rw [Num.cmp_ne_gt, hvalue, hfloor k hk]
  · obtain ⟨hi, hvalue'⟩ := FFmt.magnitude_of_decode w.isLt hw
    rw [Num.cmp_ne_gt, hvalue'] at hle ⊢
    rw [hvalue]
    exact fp32.magnitude_strictMono.monotone ((hfloor _ hi).mp hle)

/-- Of the four formats only this counts: each has a fraction. -/
theorem binaryFormats : BinaryFormats := by
  intro f hf
  have hbits : 0 < f.fbits := by rcases hf with rfl | rfl | rfl | rfl <;> decide
  exact ⟨f.decodes, fun mode => ⟨rfl, fun _ => rfl, fun neg m e => FFmt.rounded_encode hbits⟩⟩

theorem exactArithmetic : ExactArithmetic := by
  refine ⟨fun mode s t m n e f => ⟨Num.add_fin mode s t m n e f, Num.mul_fin s t m n e f, Num.cmp_fin s t m n e f, fun z =>
    ⟨rfl, rfl, rfl, ?_, rfl, rfl⟩⟩, fun _ _ _ => ⟨rfl, rfl, rfl⟩, fun mode x y z => ⟨rfl, rfl, rfl, ?_, rfl, ?_⟩⟩
  · rw [Num.mul, bne_comm]
  · cases x <;> rfl
  · cases x <;> rfl

/-- Settles O4: every encoding is one rounding among the rising magnitudes, from which the round trip and rounding toward zero
follow; sums, products and comparisons are those of integers in a common unit. -/
theorem floatRounding : Obligations.FloatRounding :=
  ⟨floatRoundTrip, roundTowardZero, binaryFormats, exactArithmetic⟩

end Sys2Proof.Machine
end

section
/-! SUPPORT. What the host reads of BAR0 before boot (16 R300, Table 16.1), and the queues and tables of a machine in which
nothing has happened. Settles O54. -/

namespace Sys2Proof.Machine

namespace State

/-! ### BAR0 before boot -/

/-- While PERST# is asserted the PCX_ block reads as 0 throughout. -/
theorem bar0Read_pcx_eq_zero_of_held {s : State} {off : Nat} (hblock : off / 0x10000 = 0) (hheld : s.dev.boot = .held) :
    s.bar0Read off = 0 := by
  simp [bar0Read, hblock, hheld]

/-- The WMK_ block reads as 0 until the boot sequencer writes it (R307). -/
theorem bar0Read_wmk_eq_zero {s : State} {off : Nat} (hblock : off / 0x10000 = 6) (hwmk : s.dev.wmk = [])
    (hver : s.dev.wmkVer = 0) : s.bar0Read off = 0 := by
  simp [bar0Read, hblock, hwmk, hver]

/-- The other blocks are not served while boot is incomplete (R300). -/
theorem bar0Read_eq_zero_of_unserved {s : State} {off : Nat} (hpcx : off / 0x10000 ≠ 0) (hmarks : off / 0x10000 ≠ 6)
    (hserved : s.served = false) : s.bar0Read off = 0 := by
  unfold bar0Read
  split
  case h_1 => contradiction
  case h_2 => contradiction
  case h_3 => rw [hserved]; rfl

/-! ### Queues -/

/-- A queue to which nothing has been written (Table 13.1). -/
theorem queueRead_of_fresh {s : State} {q : Nat} (hqueue : s.queue q = {}) :
    s.queueRead q 0x08 = 4 ∧ ∀ o, o ≠ 0x08 → s.queueRead q o = 0 := by
  refine ⟨by simp [queueRead, hqueue], fun o ho => ?_⟩
  unfold queueRead
  rw [hqueue]
  split
  case h_2 => contradiction
  all_goals rfl

/-! ### Right after reset -/

theorem queue_reset (q : Nat) : reset.queue q = {} := rfl

/-- No table has an entry, so each is in canonical form and no line breaks what is asked of the L1s. -/
theorem forms_reset : reset.Forms := by
  have hmem : reset.MemWf := ⟨rfl, rfl, rfl⟩
  have hlines : reset.lines = [] := rfl
  have hl1 : reset.L1Ok := by simp [L1Ok, hlines, Tbl.wf]
  exact ⟨hmem, hl1, rfl, rfl⟩

theorem bar0Read_reset (off : Nat) : reset.bar0Read off = 0 := by
  by_cases hpcx : off / 0x10000 = 0
  · exact bar0Read_pcx_eq_zero_of_held hpcx rfl
  · by_cases hmarks : off / 0x10000 = 6
    · exact bar0Read_wmk_eq_zero hmarks rfl rfl
    · exact bar0Read_eq_zero_of_unserved hpcx hmarks rfl

end State

/-- Settles O54: the registers hold the values that `State.reset` gives them, the queues are fresh, the tables are empty, and
BAR0 reads as 0 because boot has not begun. -/
theorem reset : Obligations.Reset :=
  ⟨State.forms_reset, rfl, rfl, rfl, rfl, rfl, rfl, rfl, rfl, rfl, rfl, rfl, rfl,
    fun q => State.queueRead_of_fresh (State.queue_reset q), rfl, rfl, rfl, rfl, State.bar0Read_reset⟩

end Sys2Proof.Machine
end

section
/-! SUPPORT. A word that goes on after its wait (R466) is the one that its slot has saved. The opcode table gives events no
encoding, so none is ever fetched, but `Forms` does not ask that a saved word be no event. Settles O55. -/

namespace Sys2Proof.Machine

/-- The split in slot 0 of block 1 has saved an acknowledgement as the word that it goes on with; it gives line 0 to core 1, and
core 0 owns that line. The agenda names the split and no event. -/
def savedAcknowledgement : State :=
  let waiting : Slot :=
    { occ := true, waitFor := .memory, again := some { word := .acknowledgement 1 0, active := 1, mm := false, snap := [] } }
  { State.reset with
    txns := [(0, { kind := .own 1 false, granted := true })],
    lines := [(0, { owned := true })],
    blks := [(1, { phase := .resident })],
    grps := [(32, { slots := [(0, waiting)] })],
    agenda := [.goOn 32 0] }

theorem savedAcknowledgement_forms : savedAcknowledgement.Forms := by
  unfold State.Forms State.MemWf State.L1Ok; decide +kernel

/-- The step runs the saved word: core 1 owns line 0 beside core 0. -/
theorem step_savedAcknowledgement :
    ∃ t, step savedAcknowledgement = .next t ∧ t.lines = [(0, { owned := true }), (1, { owned := true, used := 1 })] := by
  refine ⟨_, rfl, ?_⟩
  decide +kernel

/-- Two cores that own one line are not in order. -/
theorem State.not_l1Ok_of_two_owners {s : State} {p q : Nat × L1Line} (hp : p ∈ s.lines) (hq : q ∈ s.lines)
    (hpo : p.2.owned = true) (hqo : q.2.owned = true) (hline : p.1 / 256 = q.1 / 256) (hne : p.1 ≠ q.1) : ¬ s.L1Ok := by
  rintro ⟨-, -, hone, -⟩
  exact hne (hone p hp q hq hpo hqo hline)

/-- Refutes O55: the premise about acknowledgements speaks of an event at the head of the agenda, but an acknowledgement that a
slot has saved as the word that it goes on with runs by another turn, and gives core 1 a line of which core 0 is the owner. -/
theorem not_stepKeepsForm : ¬ Obligations.StepKeepsForm := by
  unfold Obligations.StepKeepsForm
  intro h
  obtain ⟨t, hstep, hlines⟩ := step_savedAcknowledgement
  have hevent (core line : Nat) : savedAcknowledgement.agenda.head? ≠ some (.event (.acknowledgement core line)) := nofun
  obtain ⟨-, hl1, -⟩ := h _ t savedAcknowledgement_forms hstep fun core line hhead => absurd hhead (hevent core line)
  refine State.not_l1Ok_of_two_owners (p := (0, { owned := true })) (q := (1, { owned := true, used := 1 })) ?_ ?_ rfl rfl rfl
    (by decide) hl1
  · simp [hlines]
  · simp [hlines]

end Sys2Proof.Machine
end

section
/-! SUPPORT. Searches and reads of sparse tables that are written, mapped or filled with bytes. -/

namespace Sys2Proof.Machine

namespace Tbl
variable {α : Type}

theorem find?_insert {q : Nat × α → Bool} {k : Nat} {v : α} (hv : q (k, v) = false) (t : Tbl α) :
    (insert k v t).find? q = t.find? q := by
  induction t with
  | nil => simp [insert, hv]
  | cons p r ih =>
    simp only [insert]
    split
    · rw [List.find?_cons_of_neg (by simp [hv])]
    · simp only [List.find?_cons, ih]

theorem find?_erase {q : Nat × α → Bool} {k : Nat} {t : Tbl α} (ht : ∀ p ∈ t, p.1 = k → q p = false) :
    (erase t k).find? q = t.find? q := by
  induction t with
  | nil => rfl
  | cons p r ih =>
    have ih := ih fun x hx => ht x (List.mem_cons_of_mem _ hx)
    unfold erase at ih ⊢
    by_cases hp : p.1 = k
    · rw [List.filter_cons_of_neg (by simp [hp]), ih, List.find?_cons_of_neg (by simp [ht p List.mem_cons_self hp])]
    · rw [List.filter_cons_of_pos (by simp [hp])]
      simp only [List.find?_cons, ih]

/-- A write at a key whose old and new entry a search passes over does not change what it finds. -/
theorem find?_set [DecidableEq α] (d : α) {q : Nat × α → Bool} {k : Nat} {v : α} {t : Tbl α} (hv : q (k, v) = false)
    (ht : ∀ p ∈ t, p.1 = k → q p = false) : (set d t k v).find? q = t.find? q := by
  unfold set
  split
  · exact find?_erase ht
  · rw [find?_insert hv, find?_erase ht]

theorem mem_set [DecidableEq α] {d : α} {k : Nat} {v : α} {t : Tbl α} {p : Nat × α} (hp : p ∈ set d t k v) :
    p = (k, v) ∨ p ∈ t := by
  unfold set at hp
  split at hp
  · exact .inr (List.mem_of_mem_filter hp)
  · exact (mem_insert k v _ p hp).imp_right List.mem_of_mem_filter

theorem get_of_mem [DecidableEq α] {d : α} {t : Tbl α} (hwf : wf d t = true) {p : Nat × α} (hp : p ∈ t) :
    get d t p.1 = p.2 := by
  induction t with
  | nil => cases hp
  | cons q r ih =>
    simp only [wf, Bool.and_eq_true, List.all_eq_true, decide_eq_true_eq] at hwf
    obtain ⟨⟨-, hlt⟩, hr⟩ := hwf
    rcases List.mem_cons.mp hp with rfl | hp
    · simp [get]
    · simp [get, (hlt p hp).ne, ih hr hp]

theorem ne_of_mem [DecidableEq α] {d : α} {t : Tbl α} (hwf : wf d t = true) {p : Nat × α} (hp : p ∈ t) : p.2 ≠ d := by
  induction t with
  | nil => cases hp
  | cons q r ih =>
    simp only [wf, Bool.and_eq_true, bne_iff_ne] at hwf
    obtain ⟨⟨hq, -⟩, hr⟩ := hwf
    rcases List.mem_cons.mp hp with rfl | hp
    · exact hq
    · exact ih hr hp

theorem mem_of_get_ne {d : α} {t : Tbl α} {k : Nat} (h : get d t k ≠ d) : (k, get d t k) ∈ t := by
  induction t with
  | nil => exact absurd rfl h
  | cons q r ih =>
    by_cases hk : q.1 = k
    · simp [get, ← hk]
    · simp only [get, hk, if_false] at h ⊢
      exact List.mem_cons_of_mem _ (ih h)

/-- A map that keeps the keys and gives no entry the unlisted value keeps the canonical form. -/
theorem wf_map [DecidableEq α] {d : α} {f : Nat × α → Nat × α} (hkey : ∀ p, (f p).1 = p.1) {t : Tbl α}
    (hne : ∀ p ∈ t, (f p).2 ≠ d) (hwf : wf d t = true) : wf d (t.map f) = true := by
  induction t with
  | nil => rfl
  | cons p r ih =>
    simp only [wf, Bool.and_eq_true, List.all_eq_true, decide_eq_true_eq] at hwf
    obtain ⟨⟨-, hlt⟩, hr⟩ := hwf
    have htail := ih (fun x hx => hne x (List.mem_cons_of_mem _ hx)) hr
    simpa [wf, hkey, htail, hne p List.mem_cons_self] using hlt

end Tbl

theorem State.get_putBytes (m : Tbl Byte) (a : Nat) (bs : List Byte) (n : Nat) :
    Tbl.get 0 (putBytes m a bs) n = if a ≤ n ∧ n < a + bs.length then bs.getD (n - a) 0 else Tbl.get 0 m n := by
  induction bs generalizing m a with
  | nil => simp only [putBytes, List.length_nil]; rw [if_neg (by omega)]
  | cons b r ih =>
    rw [putBytes, ih, Tbl.get_set]
    rcases lt_trichotomy n a with hn | rfl | hn
    · simp only [List.length_cons]
      rw [if_neg (by omega), if_neg (by omega), if_neg (by omega)]
    · simp
    · obtain ⟨i, rfl⟩ : ∃ i, n = a + 1 + i := ⟨n - (a + 1), by omega⟩
      have hi : a + 1 + i - a = i + 1 := by omega
      have hlt : (a + 1 ≤ a + 1 + i ∧ a + 1 + i < a + 1 + r.length) ↔
          (a ≤ a + 1 + i ∧ a + 1 + i < a + (b :: r).length) := by
        simp only [List.length_cons]; omega
      simp only [hlt, hi, Nat.add_sub_cancel_left, List.getD_cons_succ, if_neg hn.ne']

end Sys2Proof.Machine
end

section
/-! SUPPORT. What write-backs, dropped copies, recalls and writes at the home leave of the value of a byte (06 R81, 07 R139,
08 R161, R164), in any state. -/

namespace Sys2Proof.Machine.State

/-! ### Parts of the state that the coherent value does not rest on -/

theorem peek_congr {s t : State} (hlines : t.lines = s.lines) (hmem : t.mem = s.mem) (a : Nat) : t.peek a = s.peek a := by
  unfold peek dirtyAt
  rw [hlines, hmem]

theorem logSectors_eq (s : State) (qs : List Nat) : s.logSectors qs = { s with dev := (s.logSectors qs).dev } := by
  have hdev : ∃ dev, s.logSectors qs = { s with dev } := by
    refine List.foldlRecOn (motive := fun t => ∃ dev, t = { s with dev }) _ _ ⟨s.dev, rfl⟩ ?_
    rintro _ ⟨dev, rfl⟩ q -
    exact ⟨_, rfl⟩
  obtain ⟨dev, hdev⟩ := hdev
  rw [hdev]

@[simp] theorem logSectors_lines (s : State) (qs : List Nat) : (s.logSectors qs).lines = s.lines := by rw [logSectors_eq]
@[simp] theorem logSectors_mem (s : State) (qs : List Nat) : (s.logSectors qs).mem = s.mem := by rw [logSectors_eq]
@[simp] theorem logSectors_fused (s : State) (qs : List Nat) : (s.logSectors qs).fused = s.fused := by rw [logSectors_eq]

theorem wakeWatch_eq (s : State) (core line : Nat) : s.wakeWatch core line = { s with grps := (s.wakeWatch core line).grps } := by
  unfold wakeWatch
  split <;> rfl

theorem noteWrite_eq (s : State) (pa n : Nat) : s.noteWrite pa n = { s with hist := (s.noteWrite pa n).hist } := by
  unfold noteWrite
  split <;> rfl

@[simp] theorem noteWrite_lines (s : State) (pa n : Nat) : (s.noteWrite pa n).lines = s.lines := by rw [noteWrite_eq]
@[simp] theorem noteWrite_mem (s : State) (pa n : Nat) : (s.noteWrite pa n).mem = s.mem := by rw [noteWrite_eq]
@[simp] theorem noteWrite_fused (s : State) (pa n : Nat) : (s.noteWrite pa n).fused = s.fused := by rw [noteWrite_eq]

/-! ### Lines with nothing dirty -/

theorem lineKey_div (line core : Nat) : lineKey line core / 256 = line := by unfold lineKey; omega

/-- No L1 holds a dirty word of the line. -/
def Clean (s : State) (line : Nat) : Prop := ∀ p ∈ s.lines, p.1 / 256 = line → p.2.dirty = 0

theorem peek_of_clean {s : State} {a : Nat} (h : s.Clean (lineOf a)) : s.peek a = Tbl.get 0 s.mem a := by
  have hnone : s.dirtyAt (lineOf a) (a % 128 / 4) = none := by
    rw [dirtyAt, List.find?_eq_none.mpr, Option.map_none]
    intro p hp hdirty
    obtain ⟨hline, hbit⟩ : p.1 / 256 = lineOf a ∧ p.2.dirty.getLsbD (a % 128 / 4) = true := by simpa using hdirty
    simp [h p hp hline] at hbit
  rw [peek, hnone]

theorem peek_of_dirtyAt {s t : State} {a : Nat} (hmem : Tbl.get 0 t.mem a = Tbl.get 0 s.mem a)
    (hdirty : t.dirtyAt (lineOf a) (a % 128 / 4) = s.dirtyAt (lineOf a) (a % 128 / 4)) : t.peek a = s.peek a := by
  unfold peek
  rw [hdirty, hmem]

/-! ### Write-backs (R164) -/

/-- An entry of the table of lines once the line is written back. -/
def cleaned (line : Nat) (p : Nat × L1Line) : Nat × L1Line :=
  if p.1 / 256 == line then (p.1, { p.2 with dirty := 0, data := [] }) else p

@[simp] theorem cleaned_fst (line : Nat) (p : Nat × L1Line) : (cleaned line p).1 = p.1 := by unfold cleaned; split <;> rfl
@[simp] theorem cleaned_owned (line : Nat) (p : Nat × L1Line) : (cleaned line p).2.owned = p.2.owned := by
  unfold cleaned; split <;> rfl
theorem cleaned_of_ne {line : Nat} {p : Nat × L1Line} (h : p.1 / 256 ≠ line) : cleaned line p = p := by simp [cleaned, h]
theorem cleaned_dirty_eq_zero {line m : Nat} {p : Nat × L1Line} (h : p.1 / 256 = line ∨ p.1 / 256 = m ∧ p.2.dirty = 0) :
    (cleaned line p).2.dirty = 0 := by
  unfold cleaned
  split
  · rfl
  · next hne => exact (h.resolve_left (by simpa using hne)).2

theorem cleaned_of_clean {line : Nat} {p : Nat × L1Line} (hdirty : p.2.dirty = 0) (hdata : p.2.data = []) :
    cleaned line p = p := by
  obtain ⟨k, l⟩ := p
  cases l
  subst hdirty hdata
  simp [cleaned]

/-- A write-back leaves the state as it is, or it cleans every entry of the line and puts its bytes in memory. -/
theorem cleanLine_cases (s : State) (line : Nat) :
    s.cleanLine line = s ∧ s.Clean line ∨
      (s.cleanLine line).lines = s.lines.map (cleaned line) ∧ (s.cleanLine line).fused = s.fused ∧
        (s.cleanLine line).mem = putBytes s.mem (128 * line) (s.peekBytes (128 * line) 128) := by
  unfold cleanLine
  split
  case isTrue => exact .inr ⟨logSectors_lines .., logSectors_fused .., logSectors_mem ..⟩
  case isFalse hany =>
    refine .inl ⟨rfl, fun p hp hline => ?_⟩
    by_contra hdirty
    exact hany (List.any_eq_true.mpr ⟨p, hp, by simpa [hline] using hdirty⟩)

theorem cleanLine_clean (s : State) (line : Nat) : (s.cleanLine line).Clean line := by
  rcases s.cleanLine_cases line with ⟨hsame, hclean⟩ | ⟨hlines, -, -⟩
  · rwa [hsame]
  · intro p hp hline
    rw [hlines] at hp
    obtain ⟨q, -, rfl⟩ := List.mem_map.mp hp
    exact cleaned_dirty_eq_zero (m := line) (.inl (by simpa using hline))

theorem Clean.cleanLine {s : State} {m : Nat} (h : s.Clean m) (line : Nat) : (s.cleanLine line).Clean m := by
  rcases s.cleanLine_cases line with ⟨hsame, -⟩ | ⟨hlines, -, -⟩
  · rwa [hsame]
  · intro p hp hline
    rw [hlines] at hp
    obtain ⟨q, hq, rfl⟩ := List.mem_map.mp hp
    rw [cleaned_fst] at hline
    exact cleaned_dirty_eq_zero (.inr ⟨hline, h q hq hline⟩)

theorem dirtyAt_map_cleaned {s t : State} {line m : Nat} (hlines : t.lines = s.lines.map (cleaned line)) (hne : m ≠ line)
    (w : Nat) : t.dirtyAt m w = s.dirtyAt m w := by
  have hfind (l : Tbl L1Line) : (l.map (cleaned line)).find? (fun p => p.1 / 256 == m && p.2.dirty.getLsbD w) =
      l.find? fun p => p.1 / 256 == m && p.2.dirty.getLsbD w := by
    induction l with
    | nil => rfl
    | cons p r ih =>
      rw [List.map_cons, List.find?_cons, List.find?_cons, ih]
      by_cases hp : p.1 / 256 = line
      · simp [hp, beq_false_of_ne hne.symm]
      · rw [cleaned_of_ne hp]
  rw [dirtyAt, dirtyAt, hlines, hfind]

theorem peekBytes_getD {s : State} {pa n i : Nat} (hi : i < n) : (s.peekBytes pa n).getD i 0 = s.peek (pa + i) := by
  simp [peekBytes, hi]

@[simp] theorem peek_cleanLine (s : State) (line a : Nat) : (s.cleanLine line).peek a = s.peek a := by
  rcases s.cleanLine_cases line with ⟨hsame, -⟩ | ⟨hlines, -, hmem⟩
  · rw [hsame]
  have hlen : (s.peekBytes (128 * line) 128).length = 128 := by simp [peekBytes]
  by_cases hline : lineOf a = line
  · have hmod : 128 * line ≤ a ∧ a < 128 * line + 128 := by unfold lineOf at hline; omega
    rw [peek_of_clean (hline ▸ s.cleanLine_clean line), hmem, get_putBytes, hlen, if_pos hmod, peekBytes_getD (by omega)]
    congr 1
    omega
  · refine peek_of_dirtyAt ?_ (dirtyAt_map_cleaned hlines hline _)
    rw [hmem, get_putBytes, hlen, if_neg (by unfold lineOf at hline; omega)]

/-! ### Dropped copies (R161) -/

@[simp] theorem dropCopy_lines (s : State) (core line : Nat) : (s.dropCopy core line).lines =
    Tbl.set {} s.lines (lineKey line core) { pins := (s.l1 core line).pins } := by
  unfold dropCopy
  rw [wakeWatch_eq]
  rfl
@[simp] theorem dropCopy_mem (s : State) (core line : Nat) : (s.dropCopy core line).mem = s.mem := by
  unfold dropCopy
  rw [wakeWatch_eq]
  rfl
@[simp] theorem dropCopy_fused (s : State) (core line : Nat) : (s.dropCopy core line).fused = s.fused := by
  unfold dropCopy
  rw [wakeWatch_eq]
  rfl

/-- What is dropped without a dirty word is no loss. -/
theorem peek_dropCopy {s : State} {core line : Nat} (h : ∀ p ∈ s.lines, p.1 = lineKey line core → p.2.dirty = 0) (a : Nat) :
    (s.dropCopy core line).peek a = s.peek a := by
  refine peek_of_dirtyAt (by rw [dropCopy_mem]) ?_
  rw [dirtyAt, dirtyAt, dropCopy_lines, Tbl.find?_set ({} : L1Line) (by simp)]
  intro p hp hkey
  simp [h p hp hkey]

theorem Clean.peek_dropCopy {s : State} {line : Nat} (h : s.Clean line) (core a : Nat) :
    (s.dropCopy core line).peek a = s.peek a :=
  State.peek_dropCopy (fun p hp hkey => h p hp (by rw [hkey, lineKey_div])) a

theorem Clean.dropCopy {s : State} {m : Nat} (h : s.Clean m) (core line : Nat) : (s.dropCopy core line).Clean m := by
  intro p hp hline
  rw [dropCopy_lines] at hp
  rcases Tbl.mem_set hp with rfl | hp
  · rfl
  · exact h p hp hline

/-! ### Recalls of every copy, or of every copy but one (R161) -/

/-- Each core of a list but `keep` drops its copy. -/
def dropCopies (s : State) (keep : Option Nat) (line : Nat) (cores : List Nat) : State :=
  cores.foldl (fun s c => if keep = some c then s else s.dropCopy c line) s

theorem dropCopies_cons (s : State) (keep : Option Nat) (line c : Nat) (cores : List Nat) :
    s.dropCopies keep line (c :: cores) = (if keep = some c then s else s.dropCopy c line).dropCopies keep line cores := rfl

/-- What holds of a state and is kept when a core drops the line holds when several have. -/
theorem dropCopies_keeps {P : State → Prop} {line : Nat} (hdrop : ∀ s c, P s → P (s.dropCopy c line)) {s : State} (h : P s)
    (keep : Option Nat) (cores : List Nat) : P (s.dropCopies keep line cores) := by
  refine List.foldlRecOn cores _ h fun s hs c _ => ?_
  split
  · exact hs
  · exact hdrop s c hs

/-- A recall is a write-back and the drops of the copies; node caches hold no data of their own. -/
theorem invalidate_eq (s : State) (keep : Option Nat) (line : Nat) : s.invalidate keep line =
    { (s.cleanLine line).dropCopies keep line ((s.cleanLine line).holders line) with
      ncache := (s.invalidate keep line).ncache } := rfl

theorem Clean.invalidate {s : State} {m : Nat} (h : s.Clean m) (keep : Option Nat) (line : Nat) :
    (s.invalidate keep line).Clean m :=
  dropCopies_keeps (P := fun t => t.Clean m) (fun _ c ht => ht.dropCopy c line) (h.cleanLine line) keep _

theorem invalidate_clean (s : State) (keep : Option Nat) (line : Nat) : (s.invalidate keep line).Clean line :=
  dropCopies_keeps (P := fun t => t.Clean line) (fun _ c ht => ht.dropCopy c line) (s.cleanLine_clean line) keep _

@[simp] theorem peek_invalidate (s : State) (keep : Option Nat) (line a : Nat) : (s.invalidate keep line).peek a = s.peek a := by
  obtain ⟨-, hpeek⟩ := dropCopies_keeps (P := fun t => t.Clean line ∧ t.peek a = s.peek a) (line := line)
    (fun t c ⟨hclean, hpeek⟩ => ⟨hclean.dropCopy c line, (hclean.peek_dropCopy c a).trans hpeek⟩)
    ⟨s.cleanLine_clean line, s.peek_cleanLine line a⟩ keep ((s.cleanLine line).holders line)
  rw [invalidate_eq]
  exact hpeek

/-! ### Writes at the home (R81, R139) -/

/-- A line is recalled for a write at the home: no copy is left, and its entry forgets them. -/
def recalled (s : State) (line : Nat) : State :=
  let t := s.invalidate none line
  t.setDir line { t.dir line with st := .i, coarse := false, cpe := false, ptrs := [], shr := 0 }

theorem Clean.recalled {s : State} {m : Nat} (h : s.Clean m) (line : Nat) : (s.recalled line).Clean m := h.invalidate none line
theorem recalled_clean (s : State) (line : Nat) : (s.recalled line).Clean line := s.invalidate_clean none line
@[simp] theorem peek_recalled (s : State) (line a : Nat) : (s.recalled line).peek a = s.peek a :=
  s.peek_invalidate none line a

@[simp] theorem peek_recalls (s : State) (ls : List Nat) (a : Nat) : (ls.foldl recalled s).peek a = s.peek a := by
  induction ls generalizing s with
  | nil => rfl
  | cons l r ih => rw [List.foldl_cons, ih, peek_recalled]

theorem recalls_clean {ls : List Nat} {l : Nat} (hl : l ∈ ls) (s : State) : (ls.foldl recalled s).Clean l := by
  induction ls generalizing s with
  | nil => cases hl
  | cons m r ih =>
    rw [List.foldl_cons]
    rcases List.mem_cons.mp hl with rfl | hl
    · exact List.foldlRecOn (motive := fun t : State => t.Clean l) r _ (s.recalled_clean l) fun t ht m _ => ht.recalled m
    · exact ih hl _

/-- The lines that a write at the home recalls. -/
def writtenLines (pa n : Nat) : List Nat := (List.range (lineOf (pa + n - 1) + 1 - lineOf pa)).map (lineOf pa + ·)

theorem lineOf_mem_writtenLines {pa n a : Nat} (hlo : pa ≤ a) (hhi : a < pa + n) : lineOf a ∈ writtenLines pa n := by
  unfold lineOf writtenLines
  refine List.mem_map.mpr ⟨lineOf a - lineOf pa, List.mem_range.mpr ?_, ?_⟩ <;> unfold lineOf <;> omega

/-- A write at the home recalls its lines and puts its bytes in memory. -/
theorem homeWrite_of_ne_nil (s : State) (pa : Nat) {bs : List Byte} (hbs : bs ≠ []) :
    (s.homeWrite pa bs).lines = ((writtenLines pa bs.length).foldl recalled (s.noteWrite pa bs.length)).lines ∧
      (s.homeWrite pa bs).mem = putBytes ((writtenLines pa bs.length).foldl recalled (s.noteWrite pa bs.length)).mem pa bs := by
  unfold homeWrite
  rw [if_neg (by simpa using hbs)]
  exact ⟨logSectors_lines .., logSectors_mem ..⟩

/-- A byte written lies on a line that is clean after the recall; the others keep theirs through the recalls. -/
theorem peek_homeWrite : Claims.HomeWrite := by
  intro s pa bs a
  rcases eq_or_ne bs [] with rfl | hbs
  · rw [if_neg (by simp only [List.length_nil]; omega)]
    rfl
  obtain ⟨hlines, hmem⟩ := s.homeWrite_of_ne_nil pa hbs
  by_cases ha : pa ≤ a ∧ a < pa + bs.length
  · obtain ⟨hlo, hhi⟩ := ha
    have hclean : (s.homeWrite pa bs).Clean (lineOf a) := by
      unfold Clean
      rw [hlines]
      exact recalls_clean (lineOf_mem_writtenLines hlo hhi) _
    rw [if_pos ⟨hlo, hhi⟩, peek_of_clean hclean, hmem, get_putBytes, if_pos ⟨hlo, hhi⟩]
  · have hkept : (s.homeWrite pa bs).peek a = ((writtenLines pa bs.length).foldl recalled (s.noteWrite pa bs.length)).peek a := by
      refine peek_of_dirtyAt ?_ (by unfold dirtyAt; rw [hlines])
      rw [hmem, get_putBytes, if_neg ha]
    rw [if_neg ha, hkept, peek_recalls, peek_congr (noteWrite_lines ..) (noteWrite_mem ..)]

end Sys2Proof.Machine.State
end

section
/-! SUPPORT. L1s in order (08 R161, R163 to R165): the form of the lines key by key, where the value of a byte is then read, and
what evictions, recalls, own requests and stores keep. Settles O24. -/

namespace Sys2Proof.Machine

/-- A line whose dirty words are owned, and that holds no data without them. -/
def L1Line.InOrder (l : L1Line) : Prop := (l.dirty ≠ 0 → l.owned = true) ∧ (l.dirty = 0 → l.data = [])

namespace State

/-! ### The lines key by key -/

/-- The entry at a key of the table of lines. -/
def lineAt (s : State) (k : Nat) : L1Line := Tbl.get {} s.lines k

theorem l1_eq_lineAt (s : State) (core line : Nat) : s.l1 core line = s.lineAt (lineKey line core) := rfl

theorem lineAt_setL1 (s : State) (core line : Nat) (l : L1Line) (k : Nat) :
    (s.setL1 core line l).lineAt k = if k = lineKey line core then l else s.lineAt k := Tbl.get_set ..

@[simp] theorem l1_setL1_self (s : State) (core line : Nat) (l : L1Line) : (s.setL1 core line l).l1 core line = l := by
  rw [l1_eq_lineAt, lineAt_setL1, if_pos rfl]

theorem lineAt_dropCopy (s : State) (core line k : Nat) : (s.dropCopy core line).lineAt k =
    if k = lineKey line core then { pins := (s.l1 core line).pins } else s.lineAt k := by
  rw [lineAt, dropCopy_lines, Tbl.get_set]
  rfl

theorem lineAt_of_mem {s : State} (hwf : Tbl.wf {} s.lines = true) {p : Nat × L1Line} (hp : p ∈ s.lines) :
    s.lineAt p.1 = p.2 := Tbl.get_of_mem hwf hp

theorem mem_of_lineAt_ne {s : State} {k : Nat} (h : s.lineAt k ≠ {}) : (k, s.lineAt k) ∈ s.lines := Tbl.mem_of_get_ne h

theorem l1Ok_iff (s : State) : s.L1Ok ↔ Tbl.wf {} s.lines = true ∧ (∀ k, (s.lineAt k).InOrder) ∧
    ∀ k j, (s.lineAt k).owned = true → (s.lineAt j).owned = true → k / 256 = j / 256 → k = j := by
  constructor
  · rintro ⟨hdirty, hdata, hone, hwf⟩
    have howner {k : Nat} (h : (s.lineAt k).owned = true) : (k, s.lineAt k) ∈ s.lines :=
      mem_of_lineAt_ne fun h0 => by simp [h0] at h
    refine ⟨hwf, fun k => ?_, fun k j hk hj hline => hone _ (howner hk) _ (howner hj) hk hj hline⟩
    by_cases h0 : s.lineAt k = {}
    · rw [h0]; simp [L1Line.InOrder]
    · exact ⟨hdirty _ (mem_of_lineAt_ne h0), hdata _ (mem_of_lineAt_ne h0)⟩
  · rintro ⟨hwf, horder, hone⟩
    have hat {p : Nat × L1Line} (hp : p ∈ s.lines) : s.lineAt p.1 = p.2 := lineAt_of_mem hwf hp
    refine ⟨fun p hp => ?_, fun p hp => ?_, fun p hp q hq hpo hqo hline => ?_, hwf⟩
    · rw [← hat hp]; exact (horder p.1).1
    · rw [← hat hp]; exact (horder p.1).2
    · exact hone _ _ (by rwa [hat hp]) (by rwa [hat hq]) hline

theorem L1Ok.wf {s : State} (h : s.L1Ok) : Tbl.wf {} s.lines = true := by
  obtain ⟨hwf, -, -⟩ := s.l1Ok_iff.mp h
  exact hwf
theorem L1Ok.inOrder {s : State} (h : s.L1Ok) (k : Nat) : (s.lineAt k).InOrder := by
  obtain ⟨-, horder, -⟩ := s.l1Ok_iff.mp h
  exact horder k
theorem L1Ok.owner_unique {s : State} (h : s.L1Ok) {k j : Nat} (hk : (s.lineAt k).owned = true)
    (hj : (s.lineAt j).owned = true) (hline : k / 256 = j / 256) : k = j := by
  obtain ⟨-, -, hone⟩ := s.l1Ok_iff.mp h
  exact hone k j hk hj hline

theorem L1Ok.congr {s t : State} (h : s.L1Ok) (hlines : t.lines = s.lines) : t.L1Ok := by
  unfold L1Ok
  rwa [hlines]

/-- A new entry keeps the L1s in order where no other core owns its line, if it is owned. -/
theorem L1Ok.setL1 {s : State} (h : s.L1Ok) {core line : Nat} {l : L1Line} (horder : l.InOrder)
    (hone : l.owned = true → ∀ k, k / 256 = line → (s.lineAt k).owned = true → k = lineKey line core) :
    (s.setL1 core line l).L1Ok := by
  refine (l1Ok_iff _).mpr ⟨Tbl.wf_set _ _ _ _ h.wf, fun k => ?_, fun k j hk hj hline => ?_⟩
  · rw [lineAt_setL1]
    split
    · exact horder
    · exact h.inOrder k
  · rw [lineAt_setL1] at hk hj
    split at hk <;> split at hj
    case isTrue.isTrue hk' hj' => rw [hk', hj']
    case isTrue.isFalse hk' hj' => exact absurd (hone hk j (by rw [← hline, hk', lineKey_div]) hj) hj'
    case isFalse.isTrue hk' hj' => exact absurd (hone hj k (by rw [hline, hj', lineKey_div]) hk) hk'
    case isFalse.isFalse => exact h.owner_unique hk hj hline

theorem L1Ok.dropCopy {s : State} (h : s.L1Ok) (core line : Nat) : (s.dropCopy core line).L1Ok :=
  (h.setL1 (core := core) (line := line) (l := { pins := (s.l1 core line).pins }) (by simp [L1Line.InOrder]) nofun).congr
    (by rw [dropCopy_lines]; rfl)

theorem L1Ok.cleanLine {s : State} (h : s.L1Ok) (line : Nat) : (s.cleanLine line).L1Ok := by
  rcases s.cleanLine_cases line with ⟨hsame, -⟩ | ⟨hlines, -, -⟩
  · rwa [hsame]
  obtain ⟨hdirty, hdata, hone, hwf⟩ := h
  have hcleaned {p : Nat × L1Line} (hp : p ∈ s.lines) : (cleaned line p).2.InOrder := by
    unfold cleaned
    split
    · simp [L1Line.InOrder]
    · exact ⟨hdirty p hp, hdata p hp⟩
  have hlisted {p : Nat × L1Line} (hp : p ∈ s.lines) : (cleaned line p).2 ≠ {} := by
    intro h0
    by_cases hd : p.2.dirty = 0
    · exact Tbl.ne_of_mem hwf hp (by rw [← h0, cleaned_of_clean hd (hdata p hp hd)])
    · have howned := hdirty p hp hd
      rw [← cleaned_owned line p, h0] at howned
      cases howned
  unfold L1Ok
  rw [hlines]
  simp only [List.forall_mem_map, cleaned_fst, cleaned_owned]
  exact ⟨fun p hp => cleaned_owned line p ▸ (hcleaned hp).1, fun p hp => (hcleaned hp).2, hone,
    Tbl.wf_map (cleaned_fst line) (fun _ => hlisted) hwf⟩

/-! ### The value of a byte where the L1s are in order -/

/-- A dirty word is read where it is. -/
theorem L1Ok.peek_of_dirty {s : State} (h : s.L1Ok) {a k : Nat} (hline : k / 256 = lineOf a)
    (hdirty : (s.lineAt k).dirty.getLsbD (a % 128 / 4) = true) : s.peek a = Tbl.get 0 (s.lineAt k).data (a % 128) := by
  have howned {j : Nat} (hj : (s.lineAt j).dirty.getLsbD (a % 128 / 4) = true) : (s.lineAt j).owned = true :=
    (h.inOrder j).1 fun h0 => by simp [h0] at hj
  have hmem : (k, s.lineAt k) ∈ s.lines := mem_of_lineAt_ne fun h0 => by simp [h0] at hdirty
  cases hfind : s.lines.find? fun p => p.1 / 256 == lineOf a && p.2.dirty.getLsbD (a % 128 / 4) with
  | none => simpa [hline, hdirty] using List.find?_eq_none.mp hfind _ hmem
  | some p =>
    obtain ⟨hpline, hpdirty⟩ : p.1 / 256 = lineOf a ∧ p.2.dirty.getLsbD (a % 128 / 4) = true := by
      simpa using List.find?_some hfind
    have hp := lineAt_of_mem h.wf (List.mem_of_find?_eq_some hfind)
    have hkey : p.1 = k := h.owner_unique (howned (by rwa [hp])) (howned hdirty) (by rw [hpline, hline])
    rw [peek, dirtyAt, hfind, ← hkey, hp]
    rfl

/-- A word that is dirty nowhere is read at the home. -/
theorem L1Ok.peek_of_not_dirty {s : State} (h : s.L1Ok) {a : Nat}
    (hclean : ∀ k, k / 256 = lineOf a → (s.lineAt k).dirty.getLsbD (a % 128 / 4) = false) :
    s.peek a = Tbl.get 0 s.mem a := by
  have hnone : s.dirtyAt (lineOf a) (a % 128 / 4) = none := by
    rw [dirtyAt, List.find?_eq_none.mpr, Option.map_none]
    intro p hp hdirty
    obtain ⟨hline, hbit⟩ : p.1 / 256 = lineOf a ∧ p.2.dirty.getLsbD (a % 128 / 4) = true := by simpa using hdirty
    rw [← lineAt_of_mem h.wf hp, hclean p.1 hline] at hbit
    cases hbit
  rw [peek, hnone]

/-- On a line that is owned, a byte is read in its owner's L1 or at the home. -/
theorem L1Ok.peek_of_owned {s : State} (h : s.L1Ok) {a k : Nat} (hline : k / 256 = lineOf a) (hown : (s.lineAt k).owned = true) :
    s.peek a = if (s.lineAt k).dirty.getLsbD (a % 128 / 4) then Tbl.get 0 (s.lineAt k).data (a % 128)
      else Tbl.get 0 s.mem a := by
  split
  case isTrue hdirty => exact h.peek_of_dirty hline hdirty
  case isFalse hdirty =>
    refine h.peek_of_not_dirty fun j hj => ?_
    by_contra hbit
    have howned : (s.lineAt j).owned = true := (h.inOrder j).1 fun h0 => by simp [h0] at hbit
    obtain rfl : j = k := h.owner_unique howned hown (by rw [hj, hline])
    exact hdirty (by simpa using hbit)

/-- The value of a byte rests on the home's copy and on the dirty words and the data of its line. -/
theorem L1Ok.peek_eq {s t : State} (hs : s.L1Ok) (ht : t.L1Ok) {a : Nat} (hmem : t.mem = s.mem)
    (hsame : ∀ k, k / 256 = lineOf a → (t.lineAt k).dirty = (s.lineAt k).dirty ∧ (t.lineAt k).data = (s.lineAt k).data) :
    t.peek a = s.peek a := by
  by_cases hdirty : ∃ k, k / 256 = lineOf a ∧ (s.lineAt k).dirty.getLsbD (a % 128 / 4) = true
  · obtain ⟨k, hline, hbit⟩ := hdirty
    obtain ⟨hd, hdata⟩ := hsame k hline
    rw [hs.peek_of_dirty hline hbit, ht.peek_of_dirty hline (by rwa [hd]), hdata]
  · simp only [not_exists, not_and, Bool.not_eq_true] at hdirty
    rw [hs.peek_of_not_dirty hdirty, ht.peek_of_not_dirty, hmem]
    intro k hline
    rw [(hsame k hline).1, hdirty k hline]

/-! ### What keeps the L1s in order and every value -/

/-- `t` is in order, with every byte of memory as it was in `s` and the same clusters fused. -/
structure KeepsValues (s t : State) : Prop where
  l1Ok : t.L1Ok
  peek : ∀ a, t.peek a = s.peek a
  fused : t.fused = s.fused

theorem KeepsValues.refl {s : State} (h : s.L1Ok) : s.KeepsValues s := ⟨h, fun _ => rfl, rfl⟩

theorem KeepsValues.trans {s t u : State} (h : s.KeepsValues t) (h' : t.KeepsValues u) : s.KeepsValues u :=
  ⟨h'.l1Ok, fun a => (h'.peek a).trans (h.peek a), h'.fused.trans h.fused⟩

/-- Nor do changes elsewhere in the state matter. -/
theorem KeepsValues.congr {s t u : State} (h : s.KeepsValues t) (hlines : u.lines = t.lines) (hmem : u.mem = t.mem)
    (hfused : u.fused = t.fused) : s.KeepsValues u :=
  ⟨h.l1Ok.congr hlines, fun a => (peek_congr hlines hmem a).trans (h.peek a), hfused.trans h.fused⟩

theorem L1Ok.keeps_setDir {s : State} (h : s.L1Ok) (line : Nat) (d : DirEntry) : s.KeepsValues (s.setDir line d) :=
  (KeepsValues.refl h).congr rfl rfl rfl

/-- An entry changes in what is not data. -/
theorem L1Ok.keeps_setL1 {s : State} (h : s.L1Ok) {core line : Nat} {l : L1Line} (hdirty : l.dirty = (s.l1 core line).dirty)
    (hdata : l.data = (s.l1 core line).data) (hown : (s.l1 core line).owned = true → l.owned = true)
    (hone : l.owned = true → ∀ k, k / 256 = line → (s.lineAt k).owned = true → k = lineKey line core) :
    s.KeepsValues (s.setL1 core line l) := by
  have horder : (s.l1 core line).InOrder := h.inOrder _
  have hok : (s.setL1 core line l).L1Ok :=
    h.setL1 ⟨fun hd => hown (horder.1 (hdirty ▸ hd)), fun hd => hdata.trans (horder.2 (hdirty ▸ hd))⟩ hone
  refine ⟨hok, fun a => h.peek_eq hok rfl fun k _ => ?_, rfl⟩
  rw [lineAt_setL1]
  split
  case isTrue hk => rw [hk, ← l1_eq_lineAt]; exact ⟨hdirty, hdata⟩
  case isFalse => exact ⟨rfl, rfl⟩

theorem L1Ok.keeps_useL1 {s : State} (h : s.L1Ok) (core line : Nat) : s.KeepsValues (s.useL1 core line) := by
  unfold useL1
  dsimp only
  split
  · exact .refl h
  · exact h.keeps_setL1 rfl rfl id fun hown k hline hk => h.owner_unique hk hown (by rw [hline, lineKey_div])

@[simp] theorem owned_useL1 (s : State) (core line : Nat) : ((s.useL1 core line).l1 core line).owned = (s.l1 core line).owned := by
  unfold useL1
  dsimp only
  split
  · rfl
  · rw [l1_setL1_self]

theorem L1Ok.keeps_cleanLine {s : State} (h : s.L1Ok) (line : Nat) : s.KeepsValues (s.cleanLine line) := by
  refine ⟨h.cleanLine line, s.peek_cleanLine line, ?_⟩
  rcases s.cleanLine_cases line with ⟨hsame, -⟩ | ⟨-, hfused, -⟩
  · rw [hsame]
  · exact hfused

theorem L1Ok.keeps_dropCopy {s : State} (h : s.L1Ok) {core line : Nat} (hdirty : (s.l1 core line).dirty = 0) :
    s.KeepsValues (s.dropCopy core line) := by
  refine ⟨h.dropCopy core line, peek_dropCopy fun p hp hkey => ?_, dropCopy_fused ..⟩
  rw [← lineAt_of_mem h.wf hp, hkey, ← l1_eq_lineAt, hdirty]

theorem Clean.l1_dirty {s : State} {line : Nat} (h : s.Clean line) (core : Nat) : (s.l1 core line).dirty = 0 := by
  rw [l1_eq_lineAt]
  by_cases h0 : s.lineAt (lineKey line core) = {}
  · rw [h0]
  · exact h _ (mem_of_lineAt_ne h0) (lineKey_div line core)

theorem L1Ok.keeps_invalidate {s : State} (h : s.L1Ok) (keep : Option Nat) (line : Nat) :
    s.KeepsValues (s.invalidate keep line) := by
  obtain ⟨-, hkeeps⟩ := dropCopies_keeps (P := fun t => t.Clean line ∧ s.KeepsValues t) (line := line)
    (fun t c ⟨hclean, ht⟩ => ⟨hclean.dropCopy c line, ht.trans (ht.l1Ok.keeps_dropCopy (hclean.l1_dirty c))⟩)
    ⟨s.cleanLine_clean line, h.keeps_cleanLine line⟩ keep ((s.cleanLine line).holders line)
  exact hkeeps.congr rfl rfl rfl

/-! ### Evictions (R115, R157, R165) -/

theorem L1Ok.keeps_cacheDrop {s : State} (h : s.L1Ok) (core line : Nat) : s.KeepsValues (s.cacheDrop core line) := by
  obtain ⟨t, ht, hdirty, hdef⟩ : ∃ t, s.KeepsValues t ∧ (t.l1 core line).dirty = 0 ∧
      t = if (s.l1 core line).dirty = 0 then s else s.cleanLine line := by
    by_cases hd : (s.l1 core line).dirty = 0
    · exact ⟨s, .refl h, hd, by rw [if_pos hd]⟩
    · exact ⟨_, h.keeps_cleanLine line, (s.cleanLine_clean line).l1_dirty core, by rw [if_neg hd]⟩
  unfold cacheDrop
  rw [← hdef]
  have hdrop := ht.trans (ht.l1Ok.keeps_dropCopy hdirty)
  dsimp only
  split
  · exact ht
  · split
    · exact hdrop.congr rfl rfl rfl
    · split
      · exact hdrop.congr rfl rfl rfl
      · exact hdrop

/-- A copy that is dropped while the home serves a request is written back first, or has nothing dirty as it is not owned. -/
theorem L1Ok.keeps_evictLine {s : State} (h : s.L1Ok) (core line : Nat) : s.KeepsValues (s.evictLine core line) := by
  unfold evictLine
  split
  · exact h.keeps_cacheDrop core line
  · split
    case isTrue =>
      have hclean := h.keeps_cleanLine line
      exact (hclean.trans (hclean.l1Ok.keeps_dropCopy ((s.cleanLine_clean line).l1_dirty core))).congr rfl rfl rfl
    case isFalse hown =>
      refine h.keeps_dropCopy ?_
      by_contra hdirty
      exact hown ((h.inOrder _).1 hdirty)

theorem L1Ok.keeps_makeRoom {s : State} (h : s.L1Ok) (core line : Nat) : s.KeepsValues (s.makeRoom core line) := by
  unfold makeRoom
  dsimp only
  split
  · exact .refl h
  · split
    · exact h.keeps_evictLine core _
    · exact .refl h

theorem L1Ok.keeps_evictSlice {s : State} (h : s.L1Ok) (line : Nat) : s.KeepsValues (s.evictSlice line) :=
  (h.keeps_invalidate none line).congr rfl rfl rfl

theorem L1Ok.keeps_allocate {s : State} (h : s.L1Ok) (line : Nat) : s.KeepsValues (s.allocate line) := by
  unfold allocate
  dsimp only
  split
  · exact .refl h
  split
  · exact (KeepsValues.refl h).congr rfl rfl rfl
  split
  case h_1 v _ =>
    have htick : s.KeepsValues s.tick := (KeepsValues.refl h).congr rfl rfl rfl
    exact (htick.trans (htick.l1Ok.keeps_evictSlice v)).congr rfl rfl rfl
  case h_2 => exact (KeepsValues.refl h).congr rfl rfl rfl

/-! ### Own requests (R161) -/

/-- What several cores' drops leave owned of a line is owned before, and none of these cores' own. -/
theorem owned_of_dropCopies {s : State} {keep : Option Nat} {line k : Nat} {cores : List Nat} (hline : k / 256 = line)
    (h : ((s.dropCopies keep line cores).lineAt k).owned = true) :
    (s.lineAt k).owned = true ∧ (k % 256 ∈ cores → keep = some (k % 256)) := by
  induction cores generalizing s with
  | nil => exact ⟨h, nofun⟩
  | cons c r ih =>
    rw [dropCopies_cons] at h
    split at h
    case isTrue hkeep =>
      obtain ⟨hown, hr⟩ := ih h
      refine ⟨hown, fun hmem => ?_⟩
      rcases List.mem_cons.mp hmem with rfl | hmem
      · exact hkeep
      · exact hr hmem
    case isFalse hkeep =>
      obtain ⟨hown, hr⟩ := ih h
      rw [lineAt_dropCopy] at hown
      split at hown
      case isTrue => cases hown
      case isFalse hkey =>
        refine ⟨hown, fun hmem => ?_⟩
        rcases List.mem_cons.mp hmem with rfl | hmem
        · exact absurd (by unfold lineKey; omega) hkey
        · exact hr hmem

theorem mem_holders_of_owned {s : State} {k : Nat} (h : (s.lineAt k).owned = true) : k % 256 ∈ s.holders (k / 256) := by
  have hmem : (k, s.lineAt k) ∈ s.lines := mem_of_lineAt_ne fun h0 => by simp [h0] at h
  exact List.mem_map.mpr ⟨_, List.mem_filter.mpr ⟨hmem, by simp [h]⟩, rfl⟩

/-- After the invalidations of an own request nobody owns the line but the requester. -/
theorem eq_of_owned_invalidate {s : State} {core line k : Nat} (hline : k / 256 = line)
    (h : ((s.invalidate (some core) line).lineAt k).owned = true) : k % 256 = core := by
  subst hline
  obtain ⟨hown, hkeep⟩ := owned_of_dropCopies (cores := (s.cleanLine (k / 256)).holders (k / 256)) rfl h
  simpa using (hkeep (mem_holders_of_owned hown)).symm

theorem l1Core_of_fused {s t : State} (h : t.fused = s.fused) (core line : Nat) : t.l1Core core line = s.l1Core core line := by
  unfold l1Core
  rw [h]

theorem L1Ok.keeps_ownLine {s : State} (h : s.L1Ok) (core line : Nat) : s.KeepsValues (s.ownLine core line) := by
  unfold ownLine
  dsimp only
  generalize s.l1Core core line = c
  split
  · exact h.keeps_useL1 c line
  split
  · exact .refl h
  have hroom := h.keeps_makeRoom c line
  have halloc := hroom.trans (hroom.l1Ok.keeps_allocate line)
  generalize (s.makeRoom c line).allocate line = u at halloc
  have hinv := halloc.l1Ok.keeps_invalidate (some c) line
  have hone {k : Nat} (hline : k / 256 = line) (hk : ((u.invalidate (some c) line).lineAt k).owned = true) :
      k = lineKey line c := by
    have hmod := eq_of_owned_invalidate hline hk
    unfold lineKey
    omega
  have hdir := hinv.l1Ok.keeps_setDir line
    { (u.invalidate (some c) line).dir line with st := .x, coarse := false, cpe := false, shr := 0, ptrs := [c] }
  have hown := hdir.l1Ok.keeps_setL1 (core := c) (line := line)
    (l := { (u.invalidate (some c) line).l1 c line with owned := true }) rfl rfl (fun _ => rfl) fun _ k hline hk => hone hline hk
  exact (((halloc.trans hinv).trans hdir).trans hown).trans (hown.l1Ok.keeps_useL1 c line)

/-- With room for the line, the request gives it to the L1 that holds it for the core. -/
theorem owned_ownLine {s : State} {core line : Nat} (h : s.hasRoom (s.l1Core core line) line = true) :
    ((s.ownLine core line).l1 (s.l1Core core line) line).owned = true := by
  unfold ownLine
  dsimp only
  rw [h]
  split
  case isTrue hown => rw [owned_useL1, hown]
  case isFalse => rw [if_neg (by simp), owned_useL1, l1_setL1_self]

/-! ### Stores (R115, R139) -/

theorem L1Ok.homeWrite {s : State} (h : s.L1Ok) (pa : Nat) (bs : List Byte) : (s.homeWrite pa bs).L1Ok := by
  rcases eq_or_ne bs [] with rfl | hbs
  · exact h
  refine L1Ok.congr ?_ (s.homeWrite_of_ne_nil pa hbs).1
  refine List.foldlRecOn (motive := State.L1Ok) _ _ (h.congr (noteWrite_lines ..)) fun t ht l _ => ?_
  exact (ht.keeps_invalidate none l).l1Ok.congr rfl

/-- The words that n bytes at offset `o` of a line touch. -/
theorem getLsbD_wordMask {o n w : Nat} (hn : 0 < n) (hw : w < 32) :
    (wordMask o n).getLsbD w = decide (o / 4 ≤ w ∧ w ≤ (o + n - 1) / 4) := by
  have hfold (l : List Nat) (m : BitVec 32) : (l.foldl (fun m i => m ||| BitVec.ofNat 32 (2 ^ (o / 4 + i))) m).getLsbD w =
      (m.getLsbD w || decide (∃ i ∈ l, o / 4 + i = w)) := by
    induction l generalizing m with
    | nil => simp
    | cons i r ih =>
      rw [List.foldl_cons, ih, BitVec.getLsbD_or, BitVec.getLsbD_ofNat, Nat.testBit_two_pow]
      simp [hw, Bool.or_assoc, Bool.decide_or]
  have hzero : (0 : BitVec 32).getLsbD w = false := by simp
  rw [wordMask, hfold, hzero, Bool.false_or, decide_eq_decide]
  simp only [List.mem_range]
  exact ⟨fun ⟨i, hi, hw⟩ => by omega, fun h => ⟨w - o / 4, by omega, by omega⟩⟩

/-- Bytes of one line from offset `o` on, put at their offsets in the line. -/
theorem get_foldl_line (f : Nat → Byte) (t : Tbl Byte) {line o k n : Nat} (hk : o + k ≤ 128) :
    Tbl.get 0 (((List.range k).map fun i => (128 * line + o + i, f (128 * line + o + i))).foldl
      (fun t p => Tbl.set 0 t (p.1 % 128) p.2) t) n = if o ≤ n ∧ n < o + k then f (128 * line + n) else Tbl.get 0 t n := by
  induction k with
  | zero => rw [if_neg (by omega)]; rfl
  | succ k ih =>
    have hmod : (128 * line + o + k) % 128 = o + k := by omega
    rw [List.range_succ, List.map_append, List.foldl_append, List.map_singleton, List.foldl_cons, List.foldl_nil, Tbl.get_set,
      ih (by omega), hmod]
    split
    case isTrue hn => rw [if_pos (by omega), hn, add_assoc]
    case isFalse hn => exact if_congr (by omega) rfl rfl

/-- What the L1 that owns the line holds after a store to it. -/
def storedLine (s : State) (l : L1Line) (pa : Nat) (bs : List Byte) : L1Line :=
  { l with
    valid := l.valid ||| wordMask (pa % 128) bs.length,
    dirty := l.dirty ||| wordMask (pa % 128) bs.length,
    data := putBytes ((s.dirtyWords pa bs.length).foldl (fun t p => Tbl.set 0 t (p.1 % 128) p.2) l.data) (pa % 128) bs }

/-- A store whose L1 has a way for the line is an own request and a write to the entry. -/
theorem l1Write_of_hasRoom {s : State} {core pa : Nat} {bs : List Byte} (hctr : (s.dir (lineOf pa)).ctr = false)
    (hroom : s.hasRoom (s.l1Core core (lineOf pa)) (lineOf pa) = true) :
    let t := (s.noteWrite pa bs.length).ownLine core (lineOf pa)
    let c := t.l1Core core (lineOf pa)
    s.l1Write core pa bs =
      ((t.setL1 c (lineOf pa) (t.storedLine (t.l1 c (lineOf pa)) pa bs)).clearTags pa bs.length).clearBad pa bs.length := by
  unfold l1Write
  dsimp only
  rw [if_neg (by simp [hctr, hroom])]
  rfl

section
variable {s : State} {c pa : Nat} {bs : List Byte}

theorem L1Ok.setL1_storedLine (h : s.L1Ok) (hbs : bs ≠ [])
    (hown : (s.l1 c (lineOf pa)).owned = true) :
    (s.setL1 c (lineOf pa) (s.storedLine (s.l1 c (lineOf pa)) pa bs)).L1Ok := by
  have hlen := List.length_pos_iff.mpr hbs
  have htouched : (wordMask (pa % 128) bs.length).getLsbD (pa % 128 / 4) = true := by
    rw [getLsbD_wordMask hlen (by omega), decide_eq_true_eq]
    omega
  refine h.setL1 ⟨fun _ => hown, fun hdirty => ?_⟩ fun _ k hline hk => h.owner_unique hk hown (by rw [hline, lineKey_div])
  have hbit : (s.storedLine (s.l1 c (lineOf pa)) pa bs).dirty.getLsbD (pa % 128 / 4) = true := by
    simp [storedLine, htouched]
  simp [hdirty] at hbit

/-- The data of the entry: the bytes stored, the rest of the words that they touch, and what it held. -/
theorem get_storedLine_data (l : L1Line) {n : Nat} (hfit : pa % 128 + bs.length ≤ 128) :
    Tbl.get 0 (s.storedLine l pa bs).data n =
      if pa % 128 ≤ n ∧ n < pa % 128 + bs.length then bs.getD (n - pa % 128) 0
      else if pa % 128 / 4 * 4 ≤ n ∧ n < (pa % 128 + bs.length + 3) / 4 * 4 then s.peek (128 * lineOf pa + n)
      else Tbl.get 0 l.data n := by
  have hlo : pa / 4 * 4 = 128 * lineOf pa + pa % 128 / 4 * 4 := by unfold lineOf; omega
  have hcount : (pa + bs.length + 3) / 4 * 4 - pa / 4 * 4 = (pa % 128 + bs.length + 3) / 4 * 4 - pa % 128 / 4 * 4 := by omega
  have hend : pa % 128 / 4 * 4 + ((pa % 128 + bs.length + 3) / 4 * 4 - pa % 128 / 4 * 4) =
      (pa % 128 + bs.length + 3) / 4 * 4 := by omega
  simp only [storedLine, dirtyWords, get_putBytes]
  rw [hcount, hlo, get_foldl_line s.peek l.data (by omega), hend]

theorem getLsbD_storedLine_dirty (l : L1Line) {n : Nat} (hbs : bs ≠ []) (hn : n < 128) :
    (s.storedLine l pa bs).dirty.getLsbD (n / 4) =
      (l.dirty.getLsbD (n / 4) || decide (pa % 128 / 4 * 4 ≤ n ∧ n < (pa % 128 + bs.length + 3) / 4 * 4)) := by
  have hlen := List.length_pos_iff.mpr hbs
  simp only [storedLine, BitVec.getLsbD_or]
  rw [getLsbD_wordMask hlen (by omega)]
  congr 2
  rw [eq_iff_iff]
  omega

/-- The value of a byte after the write to the entry. In the line, the bytes of the words touched are read in the entry, and
the others where they were read before. -/
theorem L1Ok.peek_setL1_storedLine (h : s.L1Ok) (hfit : pa % 128 + bs.length ≤ 128) (hbs : bs ≠ [])
    (hown : (s.l1 c (lineOf pa)).owned = true) (a : Nat) :
    (s.setL1 c (lineOf pa) (s.storedLine (s.l1 c (lineOf pa)) pa bs)).peek a =
      if pa ≤ a ∧ a < pa + bs.length then bs.getD (a - pa) 0 else s.peek a := by
  have hok := h.setL1_storedLine hbs hown
  by_cases hline : lineOf a = lineOf pa
  case neg =>
    rw [if_neg (by unfold lineOf at hline; omega)]
    refine h.peek_eq hok rfl fun k hk => ?_
    rw [lineAt_setL1, if_neg fun hkey => hline (by rw [← hk, hkey, lineKey_div])]
    exact ⟨rfl, rfl⟩
  have hkey : lineKey (lineOf pa) c / 256 = lineOf a := by rw [lineKey_div, hline]
  have ha : 128 * lineOf pa + a % 128 = a := by unfold lineOf at hline ⊢; omega
  have hrange : (pa % 128 ≤ a % 128 ∧ a % 128 < pa % 128 + bs.length) ↔ (pa ≤ a ∧ a < pa + bs.length) := by
    unfold lineOf at ha; omega
  have hoffset : a % 128 - pa % 128 = a - pa := by unfold lineOf at ha; omega
  rw [hok.peek_of_owned hkey (by rwa [lineAt_setL1, if_pos rfl]), lineAt_setL1, if_pos rfl,
    getLsbD_storedLine_dirty _ hbs (Nat.mod_lt a (by decide)), get_storedLine_data _ hfit, ha, hoffset]
  simp only [hrange]
  by_cases htouched : pa % 128 / 4 * 4 ≤ a % 128 ∧ a % 128 < (pa % 128 + bs.length + 3) / 4 * 4
  · simp [htouched]
  · have hout : ¬ (pa ≤ a ∧ a < pa + bs.length) := by omega
    rw [h.peek_of_owned hkey hown]
    simp only [htouched, hout, if_false, decide_false, Bool.or_false]
    rfl

end

theorem hasRoom_noteWrite (s : State) (pa n core line : Nat) :
    (s.noteWrite pa n).hasRoom core line = s.hasRoom core line := by
  rw [noteWrite_eq]
  rfl

/-- The own request keeps every value and gives the L1 the line; the write to its entry changes the bytes stored. Where the
L1 has no way for the line the store is a write at the home (log 73). -/
theorem cacheStore : Claims.CacheStore := by
  intro s core pa bs h _ hfit hbs hctr
  cases hroom : s.hasRoom (s.l1Core core (lineOf pa)) (lineOf pa) with
  | false =>
    have hhome : s.l1Write core pa bs = s.homeWrite pa bs := by
      unfold l1Write
      dsimp only
      rw [if_pos (by simp [hroom])]
    rw [hhome]
    exact ⟨h.homeWrite pa bs, peek_homeWrite s pa bs⟩
  | true =>
    have hnote : s.KeepsValues (s.noteWrite pa bs.length) :=
      (KeepsValues.refl h).congr (noteWrite_lines ..) (noteWrite_mem ..) (noteWrite_fused ..)
    have hkeeps := hnote.trans (hnote.l1Ok.keeps_ownLine core (lineOf pa))
    rw [l1Write_of_hasRoom hctr hroom]
    have hown := owned_ownLine (s := s.noteWrite pa bs.length) (core := core) (line := lineOf pa) (by
      rwa [hasRoom_noteWrite, l1Core_of_fused hnote.fused])
    rw [l1Core_of_fused hnote.fused, ← l1Core_of_fused hkeeps.fused] at hown
    refine ⟨(hkeeps.l1Ok.setL1_storedLine hbs hown).congr rfl, fun a => ?_⟩
    rw [← hkeeps.peek a]
    exact hkeeps.l1Ok.peek_setL1_storedLine hfit hbs hown a

end State

/-- Settles O24: a write at the home first recalls every copy of its lines; a store through an L1 first makes that L1 the one
owner of its line, so that the words it dirties are where they are read. -/
theorem homeAndCacheStores : Obligations.HomeAndCacheStores := ⟨State.peek_homeWrite, State.cacheStore⟩

end Sys2Proof.Machine
end

section
/-! SUPPORT. What a coherence action on one line leaves of the other lines, of the requests at the home and of the blocks, and
the shared copies that the home gives (08 R157, R162 to R165). Settles O25. -/

namespace Sys2Proof.Machine

namespace State

/-! ### The frame of an action -/

/-- `t` has the blocks of `s` and its requests in progress at the home, and the lines of `p` have the same entries and copies. -/
structure Spares (s t : State) (p : Nat → Prop) : Prop where
  blks : t.blks = s.blks
  txns : t.txns = s.txns
  dir : ∀ line, p line → t.dir line = s.dir line
  l1 : ∀ core line, p line → t.l1 core line = s.l1 core line

theorem Spares.congr {s t u : State} {p : Nat → Prop} (h : s.Spares t p) (hblks : u.blks = t.blks) (htxns : u.txns = t.txns)
    (hdirs : u.dirs = t.dirs) (hlines : u.lines = t.lines) : s.Spares u p where
  blks := hblks.trans h.blks
  txns := htxns.trans h.txns
  dir line hp := by rw [← h.dir line hp, State.dir, hdirs, State.dir]
  l1 core line hp := by rw [← h.l1 core line hp, State.l1, hlines, State.l1]

theorem Spares.refl (s : State) (p : Nat → Prop) : s.Spares s p := ⟨rfl, rfl, fun _ _ => rfl, fun _ _ _ => rfl⟩

theorem Spares.trans {s t u : State} {p : Nat → Prop} (h : s.Spares t p) (h' : t.Spares u p) : s.Spares u p :=
  ⟨h'.blks.trans h.blks, h'.txns.trans h.txns, fun line hp => (h'.dir line hp).trans (h.dir line hp),
    fun core line hp => (h'.l1 core line hp).trans (h.l1 core line hp)⟩

theorem Spares.mono {s t : State} {p q : Nat → Prop} (h : s.Spares t p) (hqp : ∀ line, q line → p line) : s.Spares t q :=
  ⟨h.blks, h.txns, fun line hq => h.dir line (hqp line hq), fun core line hq => h.l1 core line (hqp line hq)⟩

theorem spares_setDir (s : State) (m : Nat) (d : DirEntry) : s.Spares (s.setDir m d) (· ≠ m) where
  blks := rfl
  txns := rfl
  dir line hne := by rw [dir_setDir, if_neg hne]
  l1 _ _ _ := rfl

theorem lineKey_ne {line m : Nat} (hne : line ≠ m) (core c : Nat) : lineKey line core ≠ lineKey m c := fun h =>
  hne (by rw [← lineKey_div line core, h, lineKey_div])

theorem spares_setL1 (s : State) (c m : Nat) (l : L1Line) : s.Spares (s.setL1 c m l) (· ≠ m) where
  blks := rfl
  txns := rfl
  dir _ _ := rfl
  l1 core line hne := by rw [l1_eq_lineAt, lineAt_setL1, if_neg (lineKey_ne hne core c), l1_eq_lineAt]

theorem spares_useL1 (s : State) (c m : Nat) : s.Spares (s.useL1 c m) (· ≠ m) := by
  unfold useL1
  dsimp only
  split
  · exact .refl s _
  · exact s.spares_setL1 c m _

/-! ### Write-backs (R164) -/

theorem cleanLine_eq (s : State) (line : Nat) : s.cleanLine line = { s with
    mem := (s.cleanLine line).mem, poison := (s.cleanLine line).poison, lines := (s.cleanLine line).lines,
    dev := (s.cleanLine line).dev } := by
  unfold cleanLine
  split
  · rw [logSectors_eq]
  · rfl

@[simp] theorem cleanLine_blks (s : State) (line : Nat) : (s.cleanLine line).blks = s.blks := by rw [cleanLine_eq]
@[simp] theorem cleanLine_txns (s : State) (line : Nat) : (s.cleanLine line).txns = s.txns := by rw [cleanLine_eq]
@[simp] theorem cleanLine_dirs (s : State) (line : Nat) : (s.cleanLine line).dirs = s.dirs := by rw [cleanLine_eq]
@[simp] theorem dir_cleanLine (s : State) (m line : Nat) : (s.cleanLine m).dir line = s.dir line := by simp [dir]

theorem l1_cleanLine (s : State) (m core line : Nat) : (s.cleanLine m).l1 core line = s.l1 core line ∨
    (s.cleanLine m).l1 core line = (cleaned m (lineKey line core, s.l1 core line)).2 := by
  rcases s.cleanLine_cases m with ⟨hsame, -⟩ | ⟨hlines, -, -⟩
  · exact .inl (by rw [hsame])
  · refine .inr ?_
    rw [l1, hlines, Tbl.get_map {} (cleaned m) (cleaned_fst m) _ _ (by rw [cleaned_of_clean rfl rfl]), l1]

@[simp] theorem l1_cleanLine_owned (s : State) (m core line : Nat) :
    ((s.cleanLine m).l1 core line).owned = (s.l1 core line).owned := by
  rcases s.l1_cleanLine m core line with h | h <;> simp [h]

@[simp] theorem l1_cleanLine_pins (s : State) (m core line : Nat) :
    ((s.cleanLine m).l1 core line).pins = (s.l1 core line).pins := by
  rcases s.l1_cleanLine m core line with h | h
  · rw [h]
  · rw [h, cleaned]
    split <;> rfl

theorem spares_cleanLine (s : State) (m : Nat) : s.Spares (s.cleanLine m) (· ≠ m) where
  blks := s.cleanLine_blks m
  txns := s.cleanLine_txns m
  dir line _ := s.dir_cleanLine m line
  l1 core line hne := by
    rcases s.l1_cleanLine m core line with h | h
    · exact h
    · rw [h, cleaned_of_ne (by rwa [lineKey_div])]

/-! ### Dropped copies and recalls (R161) -/

theorem dropCopy_blks (s : State) (core line : Nat) : (s.dropCopy core line).blks = s.blks := by
  unfold dropCopy
  rw [wakeWatch_eq]
  rfl
theorem dropCopy_txns (s : State) (core line : Nat) : (s.dropCopy core line).txns = s.txns := by
  unfold dropCopy
  rw [wakeWatch_eq]
  rfl
theorem dropCopy_dirs (s : State) (core line : Nat) : (s.dropCopy core line).dirs = s.dirs := by
  unfold dropCopy
  rw [wakeWatch_eq]
  rfl

@[simp] theorem dir_dropCopy (s : State) (core m line : Nat) : (s.dropCopy core m).dir line = s.dir line := by
  rw [dir, dropCopy_dirs, dir]

@[simp] theorem l1_dropCopy_self (s : State) (core line : Nat) :
    (s.dropCopy core line).l1 core line = { pins := (s.l1 core line).pins } := by
  rw [l1_eq_lineAt, lineAt_dropCopy, if_pos rfl]

theorem spares_dropCopy (s : State) (c m : Nat) : s.Spares (s.dropCopy c m) (· ≠ m) :=
  (s.spares_setL1 c m _).congr (s.dropCopy_blks c m) (s.dropCopy_txns c m) (s.dropCopy_dirs c m) (s.dropCopy_lines c m)

theorem spares_invalidate (s : State) (keep : Option Nat) (m : Nat) : s.Spares (s.invalidate keep m) (· ≠ m) := by
  rw [invalidate_eq]
  exact (dropCopies_keeps (P := fun t => s.Spares t (· ≠ m)) (fun t c ht => ht.trans (t.spares_dropCopy c m))
    (s.spares_cleanLine m) keep _).congr rfl rfl rfl rfl

/-! ### Evictions (R115, R157, R165) -/

theorem spares_cacheDrop (s : State) (c m : Nat) : s.Spares (s.cacheDrop c m) (· ≠ m) := by
  obtain ⟨t, ht, hdef⟩ : ∃ t, s.Spares t (· ≠ m) ∧ t = if (s.l1 c m).dirty = 0 then s else s.cleanLine m := by
    refine ⟨_, ?_, rfl⟩
    split
    · exact .refl s _
    · exact s.spares_cleanLine m
  have hdrop := ht.trans (t.spares_dropCopy c m)
  unfold cacheDrop
  rw [← hdef]
  dsimp only
  split
  · exact ht
  split
  · exact hdrop.trans (spares_setDir ..)
  split
  · exact hdrop.trans (spares_setDir ..)
  · exact hdrop

theorem spares_evictLine (s : State) (c m : Nat) : s.Spares (s.evictLine c m) (· ≠ m) := by
  unfold evictLine
  split
  · exact s.spares_cacheDrop c m
  split
  · exact ((s.spares_cleanLine m).trans (spares_dropCopy ..)).trans (spares_setDir ..)
  · exact s.spares_dropCopy c m

/-- The way that an L1 gives up for a line is another line's. -/
theorem spares_makeRoom (s : State) (core line : Nat) : s.Spares (s.makeRoom core line) (· = line) := by
  unfold makeRoom
  dsimp only
  split
  case isTrue => exact .refl s _
  case isFalse hfull =>
    split
    case h_2 => exact .refl s _
    case h_1 p hp =>
      have hway : p ∈ s.l1Ways core line := (List.mem_filter.mp (List.mem_of_find?_eq_some hp)).1
      have hcore : p.1 % 256 = core := by
        obtain ⟨-, hkept⟩ := List.mem_filter.mp hway
        simp only [Bool.and_eq_true, beq_iff_eq] at hkept
        obtain ⟨⟨hcore, -⟩, -⟩ := hkept
        exact hcore
      have hkey : p.1 ≠ lineKey line core := fun hkey => hfull (by
        rw [Bool.or_eq_true, List.any_eq_true]
        exact .inr ⟨p, hway, by simpa using hkey⟩)
      refine (s.spares_evictLine core (p.1 / 256)).mono ?_
      rintro _ rfl rfl
      exact hkey (by unfold lineKey; omega)

theorem choose_mem {α : Type} {s : State} {k : Nat} {l : List α} {v : α} (h : s.choose k l = some v) : v ∈ l := by
  unfold choose at h
  split at h
  · cases h
  · exact Option.some.inj h ▸ List.mem_singleton_self _
  · exact List.mem_of_getElem? h

theorem spares_evictSlice (s : State) (m : Nat) : s.Spares (s.evictSlice m) (· ≠ m) :=
  ((s.spares_invalidate none m).trans (spares_setDir _ m {})).congr rfl rfl rfl rfl

/-- The line that a slice gives up for a line is another. -/
theorem spares_allocate (s : State) (line : Nat) : s.Spares (s.allocate line) (· = line) := by
  unfold allocate
  dsimp only
  split
  case isTrue => exact .refl s _
  case isFalse hout =>
    split
    · exact (Spares.refl s _).congr rfl rfl rfl rfl
    split
    case h_2 => exact (Spares.refl s _).congr rfl rfl rfl rfl
    case h_1 v hv =>
      have hway : v ∈ s.l2Ways line := (List.mem_filter.mp (choose_mem hv)).1
      have htick : s.Spares s.tick (· = line) := (Spares.refl s _).congr rfl rfl rfl rfl
      refine (htick.trans ((s.tick.spares_evictSlice v).mono ?_)).congr rfl rfl rfl rfl
      rintro _ rfl rfl
      exact hout (by simp [hway])

@[simp] theorem dir_allocate (s : State) (line : Nat) : (s.allocate line).dir line = s.dir line :=
  (s.spares_allocate line).dir line rfl

/-! ### Shared copies (R158, R159, R162) -/

/-- An owner's copy becomes a clean shared one. -/
theorem homeShare_of_x {s : State} {line : Nat} (hst : (s.dir line).st = .x) (agent : Nat) :
    let d := s.dir line
    let o := d.ptrs.headD 0
    let t := (s.allocate line).cleanLine line
    s.homeShare agent line = (t.setL1 o line { t.l1 o line with owned := false }).setDir line
      { d with st := .s, coarse := false, cpe := false, shr := 0,
               ptrs := if d.cpe || o == agent then [agent] else [o, agent] } := by
  simp only [homeShare, dir_cleanLine, dir_allocate, hst]

theorem homeShare_of_ne_x {s : State} {line : Nat} (hst : (s.dir line).st ≠ .x) (agent : Nat) :
    s.homeShare agent line = ((s.allocate line).cleanLine line).setDir line (State.DirEntry.addReader (s.dir line) agent) := by
  simp only [homeShare, dir_cleanLine, dir_allocate]

/-- An entry without a dirty word changes to another without one. -/
theorem L1Ok.keeps_setL1_of_clean {s : State} (h : s.L1Ok) {core line : Nat} {l : L1Line} (hclean : (s.l1 core line).dirty = 0)
    (hdirty : l.dirty = 0) (hdata : l.data = [])
    (hone : l.owned = true → ∀ k, k / 256 = line → (s.lineAt k).owned = true → k = lineKey line core) :
    s.KeepsValues (s.setL1 core line l) := by
  have hok : (s.setL1 core line l).L1Ok := h.setL1 ⟨fun hd => absurd hdirty hd, fun _ => hdata⟩ hone
  refine ⟨hok, fun a => h.peek_eq hok rfl fun k _ => ?_, rfl⟩
  rw [lineAt_setL1]
  split
  case isTrue hk => rw [hk, ← l1_eq_lineAt]; exact ⟨hdirty.trans hclean.symm, hdata.trans ((h.inOrder _).2 hclean).symm⟩
  case isFalse => exact ⟨rfl, rfl⟩

theorem L1Ok.keeps_homeShare {s : State} (h : s.L1Ok) (agent line : Nat) : s.KeepsValues (s.homeShare agent line) := by
  have halloc := h.keeps_allocate line
  have hkeeps := halloc.trans (halloc.l1Ok.keeps_cleanLine line)
  by_cases hst : (s.dir line).st = .x
  · rw [homeShare_of_x hst]
    have hclean := (s.allocate line).cleanLine_clean line
    generalize (s.allocate line).cleanLine line = t, (s.dir line).ptrs.headD 0 = o at *
    have hshared : t.KeepsValues (t.setL1 o line { t.l1 o line with owned := false }) :=
      hkeeps.l1Ok.keeps_setL1_of_clean (hclean.l1_dirty o) (hclean.l1_dirty o)
        ((hkeeps.l1Ok.inOrder _).2 (hclean.l1_dirty o)) nofun
    exact (hkeeps.trans hshared).congr rfl rfl rfl
  · rw [homeShare_of_ne_x hst]
    exact hkeeps.congr rfl rfl rfl

/-- A copy whose words become valid, and is used. -/
theorem L1Ok.keeps_validate {s : State} (h : s.L1Ok) (core line : Nat) :
    s.KeepsValues ((s.setL1 core line { s.l1 core line with valid := -1 }).useL1 core line) := by
  have hset : s.KeepsValues (s.setL1 core line { s.l1 core line with valid := -1 }) :=
    h.keeps_setL1 rfl rfl id fun hown k hline hk => h.owner_unique hk hown (by rw [hline, lineKey_div])
  exact hset.trans (hset.l1Ok.keeps_useL1 core line)

theorem L1Ok.keeps_shareLine {s : State} (h : s.L1Ok) (core line : Nat) : s.KeepsValues (s.shareLine core line) := by
  unfold shareLine
  dsimp only
  generalize s.l1Core core line = c
  split
  · exact .refl h
  split
  · exact h.keeps_validate c line
  split
  · exact .refl h
  have hroom := h.keeps_makeRoom c line
  have hshare := hroom.trans (hroom.l1Ok.keeps_homeShare c line)
  exact hshare.trans (hshare.l1Ok.keeps_validate c line)

end State

/-- Settles O25: every action moves dirty words to the home before the copy that holds them goes, and changes nothing else that
the value of a byte rests on. -/
theorem cachesKeepValues : Obligations.CachesKeepValues := by
  intro s core line a h
  exact ⟨(h.keeps_shareLine core line).peek a, (h.keeps_ownLine core line).peek a, s.peek_cleanLine line a,
    s.peek_invalidate none line a, (h.keeps_homeShare core line).peek a, (h.keeps_cacheDrop core line).peek a,
    (h.keeps_evictLine core line).peek a, (h.keeps_evictSlice line).peek a⟩

end Sys2Proof.Machine
end

section
/-! SUPPORT. The requests in progress at the home, what the home does with a request, and what each message of a transaction does
(08 R157 to R165). A line whose set in a slice can give up none waits, and an L1 without a way keeps no copy: that is the model's
choice (log 73). Settles O42. -/

namespace Sys2Proof.Machine

namespace Tbl
variable {α : Type}

theorem lookup_erase_self (t : Tbl α) (k : Nat) : (erase t k).lookup k = none := by
  rw [List.lookup_eq_none_iff]
  intro p hp
  simpa using (erase_ne t k p hp).symm

theorem lookup_insert_self {t : Tbl α} {k : Nat} (v : α) (h : ∀ p ∈ t, p.1 ≠ k) : (insert k v t).lookup k = some v := by
  induction t with
  | nil => simp [insert]
  | cons p r ih =>
    obtain ⟨n, w⟩ := p
    have hn : (k == n) = false := beq_false_of_ne (h (n, w) List.mem_cons_self).symm
    unfold insert
    split
    · simp
    · rw [List.lookup_cons, hn]
      exact ih fun p hp => h p (List.mem_cons_of_mem _ hp)

theorem erase_of_lookup_eq_none {t : Tbl α} {k : Nat} (h : t.lookup k = none) : erase t k = t := by
  rw [erase, List.filter_eq_self]
  intro p hp
  have hk : k ≠ p.1 := by simpa using List.lookup_eq_none_iff.mp h p hp
  simpa using hk.symm

theorem has_of_lookup_eq_none {t : Tbl α} {k : Nat} (h : t.lookup k = none) : has t k = false := by
  induction t with
  | nil => rfl
  | cons p r ih =>
    obtain ⟨n, w⟩ := p
    rw [List.lookup_cons] at h
    split at h
    · cases h
    next hk => simp [has, ih h, BEq.comm (a := n), hk]

end Tbl

/-- An invalidation to the agent. -/
def CohMsg.isInv (ag : Nat) : CohMsg → Bool
  | .inv a _ => a == ag
  | _ => false

/-- An acknowledgement to the requester. -/
def CohMsg.isAck (core : Nat) : CohMsg → Bool
  | .ack _ d => d == core
  | _ => false

/-- The request once its requester has counted an acknowledgement, if there is one. -/
def Txn.counted (x : Txn) (core : Nat) : Txn :=
  match x.msgs.find? (CohMsg.isAck core) with
  | some m => { x with msgs := x.msgs.erase m, acks := x.acks + 1 }
  | none => x

namespace State

/-! ### The table of requests in progress -/

@[simp] theorem lookup_setTxn (s : State) (line : Nat) (x : Txn) : (s.setTxn line x).txns.lookup line = some x :=
  Tbl.lookup_insert_self x (Tbl.erase_ne _ line)
@[simp] theorem lookup_dropTxn (s : State) (line : Nat) : (s.dropTxn line).txns.lookup line = none := Tbl.lookup_erase_self ..

@[simp] theorem setTxn_mem (s : State) (line : Nat) (x : Txn) : (s.setTxn line x).mem = s.mem := rfl
@[simp] theorem setTxn_lines (s : State) (line : Nat) (x : Txn) : (s.setTxn line x).lines = s.lines := rfl
@[simp] theorem setTxn_dirs (s : State) (line : Nat) (x : Txn) : (s.setTxn line x).dirs = s.dirs := rfl
@[simp] theorem setTxn_blks (s : State) (line : Nat) (x : Txn) : (s.setTxn line x).blks = s.blks := rfl
@[simp] theorem l1_setTxn (s : State) (m : Nat) (x : Txn) (core line : Nat) : (s.setTxn m x).l1 core line = s.l1 core line := rfl
@[simp] theorem dir_setTxn (s : State) (m : Nat) (x : Txn) (line : Nat) : (s.setTxn m x).dir line = s.dir line := rfl
@[simp] theorem peek_setTxn (s : State) (line : Nat) (x : Txn) (a : Nat) : (s.setTxn line x).peek a = s.peek a := rfl
@[simp] theorem dropTxn_blks (s : State) (line : Nat) : (s.dropTxn line).blks = s.blks := rfl
@[simp] theorem l1_dropTxn (s : State) (m core line : Nat) : (s.dropTxn m).l1 core line = s.l1 core line := rfl
@[simp] theorem dir_dropTxn (s : State) (m line : Nat) : (s.dropTxn m).dir line = s.dir line := rfl
@[simp] theorem peek_dropTxn (s : State) (line a : Nat) : (s.dropTxn line).peek a = s.peek a := rfl

theorem dropTxn_of_idle {s : State} {line : Nat} (h : s.txns.lookup line = none) : s.dropTxn line = s := by
  unfold dropTxn
  rw [Tbl.erase_of_lookup_eq_none h]

theorem not_lineBusy {s : State} {line : Nat} (h : s.txns.lookup line = none) : s.lineBusy line = false :=
  Tbl.has_of_lookup_eq_none h

/-! ### What a message does -/

/-- The message answers a state of which `P` holds, with every byte and the blocks as they were. -/
def Performs (s : State) (i : Instr) (P : State → Prop) : Prop :=
  ∃ t, exec i s = .next t ∧ P t ∧ (∀ a, t.peek a = s.peek a) ∧ t.blks = s.blks

/-- The message leaves request `x` in progress on the line, and memory, entries and copies as they were. -/
def Starts (s : State) (line : Nat) (i : Instr) (x : Txn) : Prop :=
  ∃ t, exec i s = .next t ∧ t.txns.lookup line = some x ∧ t.dirs = s.dirs ∧ t.lines = s.lines ∧ t.mem = s.mem

/-- The L1 is in service, is the one of its cluster for the line, and the line is no counter. -/
def MayAsk (s : State) (ag line : Nat) : Prop :=
  ag < 152 ∧ s.agentOn ag = true ∧ s.l1Core ag line = ag ∧ (s.dir line).ctr = false

/-- The home may serve a request to the line: no CPE copy owns it, no reduction stands before it, and its set has a way. -/
def MayStart (s : State) (line : Nat) : Prop :=
  ((s.dir line).st = .x → (s.dir line).cpe = false) ∧ s.farOf line = [] ∧ s.noWay line = false

theorem MayAsk.lt {s : State} {ag line : Nat} (h : s.MayAsk ag line) : ag < 152 := by
  obtain ⟨hag, -⟩ := h
  exact hag

theorem MayAsk.mayHold {s : State} {ag line : Nat} (h : s.MayAsk ag line) : s.mayHold ag line = true := by
  obtain ⟨-, hon, hcore, -⟩ := h
  simp [State.mayHold, hon, hcore]

theorem MayAsk.exec_readRequest {s : State} {ag line : Nat} (h : s.MayAsk ag line) :
    exec (.readRequest ag line) s = .next (s.request line (.read ag)) := by
  rw [Machine.exec_readRequest, execReadRequest, if_pos h.mayHold]

theorem MayAsk.exec_ownRequest {s : State} {c line : Nat} (h : s.MayAsk c line) (data : Bool) :
    exec (.ownRequest c line data) s = .next (s.request line (.own c data)) := by
  rw [Machine.exec_ownRequest, execOwnRequest, if_pos (by simp [h.lt, h.mayHold])]

theorem MayAsk.exec_fillRequest {s : State} {c line : Nat} (h : s.MayAsk c line) (hown : (s.l1 c line).owned = true) :
    exec (.fillRequest c line) s = .next (s.request line (.fill c)) := by
  rw [Machine.exec_fillRequest, execFillRequest, if_pos (by simp [h.lt, h.mayHold, hown])]

/-! ### Requests that reach the home (R160) -/

theorem mayServe_iff (s : State) (line : Nat) : s.mayServe line (s.farOf line).length = true ↔ s.MayStart line := by
  simp only [mayServe, MayStart, Bool.and_eq_true, beq_iff_eq, List.length_eq_zero_iff, Bool.not_eq_true', Bool.and_eq_false_imp,
    and_assoc]
  tauto

section
variable {s t : State} {ag line : Nat}

/-- A request that finds another in progress is queued behind it. -/
theorem MayAsk.request_of_busy {x : Txn} (h : s.MayAsk ag line) (hx : s.txns.lookup line = some x) (k : TxnKind) :
    s.request line k = s.setTxn line { x with queue := x.queue ++ [((s.farOf line).length, k)] } := by
  obtain ⟨-, -, -, hctr⟩ := h
  simp [request, hctr, hx]

theorem MayAsk.request_of_idle (h : s.MayAsk ag line) (hidle : s.txns.lookup line = none) (k : TxnKind) :
    s.request line k = serveQueue line [((s.farOf line).length, k)] s := by
  obtain ⟨-, -, -, hctr⟩ := h
  simp [request, hctr, hidle]

/-- A request that may not start yet waits alone. -/
theorem MayAsk.request_of_held (h : s.MayAsk ag line) (hidle : s.txns.lookup line = none) (hheld : ¬ s.MayStart line)
    (k : TxnKind) : s.request line k = s.setTxn line { kind := .idle, queue := [((s.farOf line).length, k)] } := by
  rw [h.request_of_idle hidle, serveQueue, if_neg (by rwa [mayServe_iff])]

/-- A request that starts is left in progress. -/
theorem MayAsk.request_of_started {k : TxnKind} {x : Txn} (h : s.MayAsk ag line) (hidle : s.txns.lookup line = none)
    (hfree : s.MayStart line) (hstart : s.startRequest line k = (t, some x)) :
    s.request line k = t.setTxn line { x with queue := [] } := by
  rw [h.request_of_idle hidle, serveQueue, if_pos ((s.mayServe_iff line).mpr hfree), dropTxn_of_idle hidle, hstart]

/-- A request that is served at once leaves none in progress. -/
theorem MayAsk.request_of_served {k : TxnKind} (h : s.MayAsk ag line) (hidle : s.txns.lookup line = none)
    (hfree : s.MayStart line) (hstart : s.startRequest line k = (t, none)) : s.request line k = t.dropTxn line := by
  rw [h.request_of_idle hidle, serveQueue, if_pos ((s.mayServe_iff line).mpr hfree), dropTxn_of_idle hidle, hstart]
  rfl

/-- A request that starts without an effect on the lines. -/
theorem starts_of_request {i : Instr} {x : Txn} (hexec : exec i s = .next (s.setTxn line x)) : s.Starts line i x :=
  ⟨_, hexec, by simp, rfl, rfl, rfl⟩

end

/-! ### Shared copies of an L1 (R158, R162) -/

theorem l1_useL1 (s : State) (core c line : Nat) :
    ∃ u, (s.useL1 core line).l1 c line = { s.l1 c line with used := u } := by
  unfold useL1
  dsimp only
  split
  · exact ⟨_, rfl⟩
  · simp only [l1_eq_lineAt, lineAt_setL1]
    split
    case isTrue hk => rw [hk]; exact ⟨_, rfl⟩
    case isFalse => exact ⟨_, rfl⟩

theorem l1_useL1_owned (s : State) (core c line : Nat) :
    ((s.useL1 core line).l1 c line).owned = (s.l1 c line).owned := by
  obtain ⟨u, hu⟩ := s.l1_useL1 core c line
  rw [hu]

@[simp] theorem l1_useL1_valid (s : State) (core c line : Nat) :
    ((s.useL1 core line).l1 c line).valid = (s.l1 c line).valid := by
  obtain ⟨u, hu⟩ := s.l1_useL1 core c line
  rw [hu]

@[simp] theorem dir_useL1 (s : State) (core m line : Nat) : (s.useL1 core m).dir line = s.dir line := by
  unfold useL1
  dsimp only
  split <;> rfl

@[simp] theorem dir_setL1 (s : State) (core m : Nat) (l : L1Line) (line : Nat) : (s.setL1 core m l).dir line = s.dir line := rfl
@[simp] theorem l1_setDir (s : State) (m : Nat) (d : DirEntry) (core line : Nat) :
    (s.setDir m d).l1 core line = s.l1 core line := rfl

theorem l1_setL1_ne (s : State) {core c : Nat} (hcore : core < 152) (hc : c < 152) (hne : c ≠ core) (line : Nat) (l : L1Line) :
    (s.setL1 core line l).l1 c line = s.l1 c line := by
  rw [l1_eq_lineAt, lineAt_setL1, if_neg (by unfold lineKey; omega), l1_eq_lineAt]

theorem spares_homeShare (s : State) (agent line : Nat) : s.Spares (s.homeShare agent line) (fun _ => False) := by
  have hclean : s.Spares ((s.allocate line).cleanLine line) (fun _ => False) :=
    ((s.spares_allocate line).mono nofun).trans ((spares_cleanLine _ line).mono nofun)
  by_cases hst : (s.dir line).st = .x
  · rw [homeShare_of_x hst]
    exact (hclean.trans ((spares_setL1 ..).mono nofun)).trans ((spares_setDir ..).mono nofun)
  · rw [homeShare_of_ne_x hst]
    exact hclean.trans ((spares_setDir ..).mono nofun)

section
variable {s : State} {ag line : Nat}

theorem grantRead_of_hasRoom (hag : ag < 152) (hroom : s.hasRoom ag line = true) :
    let t := (s.makeRoom ag line).homeShare ag line
    s.grantRead ag line = (t.setL1 ag line { t.l1 ag line with valid := -1 }).useL1 ag line := by
  simp [grantRead, hag, hroom]

theorem L1Ok.keeps_grantRead (h : s.L1Ok) (hag : ag < 152) (hroom : s.hasRoom ag line = true) :
    s.KeepsValues (s.grantRead ag line) := by
  rw [grantRead_of_hasRoom hag hroom]
  have hmade := h.keeps_makeRoom ag line
  have hshare := hmade.trans (hmade.l1Ok.keeps_homeShare ag line)
  exact hshare.trans (hshare.l1Ok.keeps_validate ag line)

theorem grantRead_blks (hag : ag < 152) (hroom : s.hasRoom ag line = true) : (s.grantRead ag line).blks = s.blks := by
  rw [grantRead_of_hasRoom hag hroom]
  have hshare := ((s.spares_makeRoom ag line).mono (q := fun _ => False) nofun).trans (spares_homeShare _ ag line)
  exact ((hshare.trans ((spares_setL1 ..).mono nofun)).trans ((spares_useL1 ..).mono nofun)).blks

theorem dir_grantRead (hag : ag < 152) (hroom : s.hasRoom ag line = true) :
    (s.grantRead ag line).dir line = ((s.makeRoom ag line).homeShare ag line).dir line := by
  rw [grantRead_of_hasRoom hag hroom, dir_useL1, dir_setL1]

/-- The first reader of a line. -/
theorem dir_grantRead_of_i (hag : ag < 152) (hroom : s.hasRoom ag line = true) (hst : (s.dir line).st = .i)
    (hcoarse : (s.dir line).coarse = false) (hptrs : (s.dir line).ptrs = []) :
    (s.grantRead ag line).dir line = { s.dir line with st := .s, ptrs := [ag] } := by
  have hdir : (s.makeRoom ag line).dir line = s.dir line := (s.spares_makeRoom ag line).dir line rfl
  rw [dir_grantRead hag hroom, homeShare_of_ne_x (by simp [hdir, hst]), dir_setDir, if_pos rfl, hdir]
  simp [DirEntry.addReader, hcoarse, hptrs]

/-- The owner is recalled and stays as a reader. -/
theorem dir_grantRead_of_x {o : Nat} {r : List Nat} (hag : ag < 152) (hroom : s.hasRoom ag line = true)
    (hst : (s.dir line).st = .x) (hcpe : (s.dir line).cpe = false) (hptrs : (s.dir line).ptrs = o :: r) (hne : o ≠ ag) :
    (s.grantRead ag line).dir line =
      { s.dir line with st := .s, coarse := false, cpe := false, shr := 0, ptrs := [o, ag] } := by
  have hdir : (s.makeRoom ag line).dir line = s.dir line := (s.spares_makeRoom ag line).dir line rfl
  rw [dir_grantRead hag hroom, homeShare_of_x (by rw [hdir, hst]), dir_setDir, if_pos rfl, hdir]
  simp [hcpe, hptrs, hne]

theorem valid_grantRead (hag : ag < 152) (hroom : s.hasRoom ag line = true) : ((s.grantRead ag line).l1 ag line).valid = -1 := by
  rw [grantRead_of_hasRoom hag hroom, l1_useL1_valid, l1_setL1_self]

theorem owned_grantRead_of_x {o : Nat} {r : List Nat} (hag : ag < 152) (hroom : s.hasRoom ag line = true) (ho : o < 152)
    (hst : (s.dir line).st = .x) (hptrs : (s.dir line).ptrs = o :: r) (hne : o ≠ ag) :
    ((s.grantRead ag line).l1 o line).owned = false := by
  have hdir : (s.makeRoom ag line).dir line = s.dir line := (s.spares_makeRoom ag line).dir line rfl
  have howner : ((s.dir line).ptrs.headD 0) = o := by rw [hptrs]; rfl
  rw [grantRead_of_hasRoom hag hroom, l1_useL1_owned, l1_setL1_ne _ hag ho hne, homeShare_of_x (by rw [hdir, hst]), hdir, howner,
    l1_setDir, l1_setL1_self]

/-! ### Read requests (R162) -/

theorem readRequest_of_i (h : s.L1Ok) (hon : s.MayAsk ag line) (hfree : s.MayStart line) (hidle : s.txns.lookup line = none)
    (hst : (s.dir line).st = .i) (hcoarse : (s.dir line).coarse = false) (hptrs : (s.dir line).ptrs = [])
    (hroom : s.hasRoom ag line = true) : s.Performs (.readRequest ag line) fun t =>
      (t.dir line).st = .s ∧ (t.dir line).ptrs = [ag] ∧ (t.l1 ag line).valid = -1 ∧ t.txns.lookup line = none := by
  have hag := hon.lt
  have hdir := dir_grantRead_of_i hag hroom hst hcoarse hptrs
  have hstart : s.startRequest line (.read ag) = (s.grantRead ag line, none) := by simp [startRequest, hst]
  exact ⟨(s.grantRead ag line).dropTxn line, by rw [hon.exec_readRequest, hon.request_of_served hidle hfree hstart],
    ⟨by rw [dir_dropTxn, hdir], by rw [dir_dropTxn, hdir], valid_grantRead hag hroom, lookup_dropTxn ..⟩,
    (h.keeps_grantRead hag hroom).peek, grantRead_blks hag hroom⟩

theorem readRequest_of_x {o : Nat} {r : List Nat} (hon : s.MayAsk ag line) (hfree : s.MayStart line)
    (hidle : s.txns.lookup line = none) (hst : (s.dir line).st = .x) (hcpe : (s.dir line).cpe = false)
    (hptrs : (s.dir line).ptrs = o :: r) (hne : o ≠ ag) :
    s.Starts line (.readRequest ag line) { kind := .read ag, msgs := [.recall o true] } := by
  have hstart : s.startRequest line (.read ag) = (s, some { kind := .read ag, msgs := [.recall o true] }) := by
    simp [startRequest, hst, hcpe, hptrs, hne]
  exact starts_of_request (by rw [hon.exec_readRequest, hon.request_of_started hidle hfree hstart])

end

/-! ### Own requests and fill requests (R161, R163) -/

section
variable {s : State} {c line : Nat}

theorem ownRequest_of_i (h : s.L1Ok) (hon : s.MayAsk c line) (hfree : s.MayStart line) (hidle : s.txns.lookup line = none)
    (hst : (s.dir line).st = .i) (data : Bool) : s.Performs (.ownRequest c line data) fun t =>
      t.txns.lookup line = some { kind := .own c data, granted := true } := by
  have hstart : s.startRequest line (.own c data) = (s.allocate line, some { kind := .own c data, granted := true }) := by
    simp [startRequest, hst]
  exact ⟨_, by rw [hon.exec_ownRequest, hon.request_of_started hidle hfree hstart], lookup_setTxn ..,
    (h.keeps_allocate line).peek, (s.spares_allocate line).blks⟩

/-- An own request on a shared line: granted, with an invalidation on its way to every other sharer (R161 step 1). -/
def ownOfShared (c : Nat) (data : Bool) (sharers : List Nat) : Txn :=
  let rs := sharers.filter (· != c)
  { kind := .own c data, granted := true, ackn := rs.length, msgs := rs.map fun a => .inv a c }

theorem ownRequest_of_s (hon : s.MayAsk c line) (hfree : s.MayStart line) (hidle : s.txns.lookup line = none)
    (hst : (s.dir line).st = .s) (hcoarse : (s.dir line).coarse = false) (data : Bool) :
    s.Starts line (.ownRequest c line data) (ownOfShared c data (s.dir line).ptrs) := by
  have hstart : s.startRequest line (.own c data) = (s, some (ownOfShared c data (s.dir line).ptrs)) := by
    simp [startRequest, recipients, hst, hcoarse, ownOfShared]
  exact starts_of_request (by rw [hon.exec_ownRequest, hon.request_of_started hidle hfree hstart]; rfl)

theorem ownRequest_of_x {o : Nat} {r : List Nat} (hon : s.MayAsk c line) (hfree : s.MayStart line)
    (hidle : s.txns.lookup line = none) (hst : (s.dir line).st = .x) (hptrs : (s.dir line).ptrs = o :: r) (hne : o ≠ c)
    (data : Bool) : s.Starts line (.ownRequest c line data) { kind := .own c data, msgs := [.recall o false] } := by
  have hstart : s.startRequest line (.own c data) = (s, some { kind := .own c data, msgs := [.recall o false] }) := by
    simp [startRequest, hst, hptrs, hne]
  exact starts_of_request (by rw [hon.exec_ownRequest, hon.request_of_started hidle hfree hstart])

theorem fillRequest_of_owned (h : s.L1Ok) (hon : s.MayAsk c line) (hown : (s.l1 c line).owned = true) (hfree : s.MayStart line)
    (hidle : s.txns.lookup line = none) :
    s.Performs (.fillRequest c line) fun t => t.l1 c line = { s.l1 c line with valid := -1 } := by
  have hstart : s.startRequest line (.fill c) = (s.setL1 c line { s.l1 c line with valid := -1 }, none) := by
    simp [startRequest, hown]
  have hfill : s.KeepsValues (s.setL1 c line { s.l1 c line with valid := -1 }) :=
    h.keeps_setL1 rfl rfl id fun hown k hline hk => h.owner_unique hk hown (by rw [hline, lineKey_div])
  exact ⟨(s.setL1 c line { s.l1 c line with valid := -1 }).dropTxn line,
    by rw [hon.exec_fillRequest hown, hon.request_of_served hidle hfree hstart], l1_setL1_self .., hfill.peek, rfl⟩

/-! ### Invalidations (R161) -/

theorem find?_isInv {ms : List CohMsg} {ag dst : Nat} (h : CohMsg.inv ag dst ∈ ms) :
    ∃ e, CohMsg.inv ag e ∈ ms ∧ ms.find? (CohMsg.isInv ag) = some (.inv ag e) := by
  obtain ⟨m, hm⟩ := Option.isSome_iff_exists.mp
    (List.find?_isSome (p := CohMsg.isInv ag).mpr ⟨_, h, by simp [CohMsg.isInv]⟩)
  have hinv := List.find?_some hm
  cases m with
  | inv a e =>
    obtain rfl : a = ag := by simpa [CohMsg.isInv] using hinv
    exact ⟨e, List.mem_of_find?_eq_some hm, hm⟩
  | _ => cases hinv

/-- The recipient discards its copy and acknowledges the first invalidation to it. -/
theorem execInvalidationReceipt_of_find {x : Txn} {ag e : Nat} (htxn : s.txns.lookup line = some x)
    (hfind : x.msgs.find? (CohMsg.isInv ag) = some (.inv ag e)) : execInvalidationReceipt ag line s =
      .next ((s.discard ag line).setTxn line { x with msgs := x.msgs.erase (.inv ag e) ++ [.ack ag e] }) := by
  unfold execInvalidationReceipt
  rw [htxn]
  dsimp only
  split
  case h_1 a e' hfound =>
    obtain ⟨rfl, rfl⟩ : a = ag ∧ e' = e := by simpa using hfound.symm.trans hfind
    rfl
  case h_2 hnone => exact absurd hfind (hnone ag e)

theorem discard_blks (s : State) (ag line : Nat) : (s.discard ag line).blks = s.blks := by
  unfold discard
  split
  · exact s.dropCopy_blks ag line
  · rfl

@[simp] theorem dir_discard (s : State) (ag m line : Nat) : (s.discard ag m).dir line = s.dir line := by
  unfold discard
  split
  · exact s.dir_dropCopy ag m line
  · rfl

theorem l1_discard (s : State) {ag : Nat} (hag : ag < 152) (line : Nat) :
    (s.discard ag line).l1 ag line = { pins := (s.l1 ag line).pins } := by
  rw [discard, if_pos hag, l1_dropCopy_self]

theorem L1Ok.peek_discard (h : s.L1Ok) {ag : Nat} (hclean : ag < 152 → (s.l1 ag line).dirty = 0) (a : Nat) :
    (s.discard ag line).peek a = s.peek a := by
  unfold discard
  split
  case isTrue hag => exact (h.keeps_dropCopy (hclean hag)).peek a
  case isFalse => exact peek_congr rfl rfl a

theorem invalidationReceipt_of_mem {x : Txn} {ag dst : Nat} (h : s.L1Ok) (htxn : s.txns.lookup line = some x)
    (hmem : CohMsg.inv ag dst ∈ x.msgs) (hclean : ag < 152 → (s.l1 ag line).dirty = 0) :
    s.Performs (.invalidationReceipt ag line) fun t =>
      (ag < 152 → (t.l1 ag line).valid = 0 ∧ (t.l1 ag line).owned = false) ∧
      (152 ≤ ag → Tbl.get none t.ncache (64 * line + (ag - 152)) = none) ∧
      ∃ y e, t.txns.lookup line = some y ∧ CohMsg.ack ag e ∈ y.msgs ∧ CohMsg.inv ag e ∈ x.msgs ∧
        y.msgs.length = x.msgs.length := by
  obtain ⟨e, he, hfind⟩ := find?_isInv hmem
  refine ⟨_, (exec_invalidationReceipt s).trans (execInvalidationReceipt_of_find htxn hfind),
    ⟨fun hag => ?_, fun hag => ?_, ?_⟩, h.peek_discard hclean, s.discard_blks ag line⟩
  · rw [l1_setTxn, l1_discard s hag]
    exact ⟨rfl, rfl⟩
  · have hncache : ((s.discard ag line).setTxn line { x with msgs := x.msgs.erase (.inv ag e) ++ [.ack ag e] }).ncache =
        Tbl.erase s.ncache (ncKey line (ag - 152)) := by
      rw [discard, if_neg (by omega)]
      rfl
    rw [hncache]
    exact Tbl.get_erase_self ..
  · have hlen := List.length_pos_of_mem he
    refine ⟨_, e, lookup_setTxn .., by simp, he, ?_⟩
    rw [List.length_append, List.length_erase_of_mem he, List.length_singleton]
    omega

/-! ### Acknowledgements (R161) -/

theorem counted_of_mem {x : Txn} {a : Nat} (h : CohMsg.ack a c ∈ x.msgs) :
    ∃ m, x.counted c = { x with msgs := x.msgs.erase m, acks := x.acks + 1 } := by
  obtain ⟨m, hm⟩ := Option.isSome_iff_exists.mp
    (List.find?_isSome (p := CohMsg.isAck c).mpr ⟨_, h, by simp [CohMsg.isAck]⟩)
  exact ⟨m, by rw [Txn.counted, hm]⟩

theorem counted_of_not_mem {x : Txn} (h : ∀ a, CohMsg.ack a c ∉ x.msgs) : x.counted c = x := by
  have hnone : x.msgs.find? (CohMsg.isAck c) = none := by
    rw [List.find?_eq_none]
    intro m hm hack
    cases m with
    | ack a d =>
      obtain rfl : d = c := by simpa [CohMsg.isAck] using hack
      exact h a hm
    | _ => cases hack
  rw [Txn.counted, hnone]

/-- The L1 that has asked for a line makes room for it and owns it. -/
def becomeOwner (s : State) (c line : Nat) (data : Bool) : State :=
  let t := s.makeRoom c line
  let l := t.l1 c line
  (t.setL1 c line { l with owned := true, valid := if data then -1 else l.valid }).useL1 c line

/-- The requester takes the line with the last acknowledgement, and sends its completion once it has the line. -/
theorem execAcknowledgement_of_own {x : Txn} {data : Bool} (htxn : s.txns.lookup line = some x) (hkind : x.kind = .own c data) :
    execAcknowledgement c line s = .next (
      let y := x.counted c
      if !y.granted || y.acks != y.ackn then s.setTxn line y
      else if s.completing c line then
        s.setTxn line (if y.msgs.contains (.completion c) then y else { y with msgs := y.msgs ++ [.completion c] })
      else if s.hasRoom c line then
        (s.becomeOwner c line data).setTxn line y
      else s.setTxn line y) := by
  unfold execAcknowledgement
  rw [htxn]
  cases x
  cases hkind
  dsimp only
  rw [bne_self_eq_false, Bool.false_or]
  rfl

theorem not_completing (hown : (s.l1 c line).owned = false) : s.completing c line = false := by simp [completing, hown]

theorem completing_of_own {x : Txn} {data : Bool} (htxn : s.txns.lookup line = some x) (hkind : x.kind = .own c data)
    (hown : (s.l1 c line).owned = true) : s.completing c line = true := by simp [completing, hown, htxn, hkind]

/-- A write to an entry without dirty words, before and after. Others may own the line: the value rests on dirty words alone. -/
theorem peek_setL1_of_clean {l : L1Line} (hwf : Tbl.wf {} s.lines = true) (hclean : (s.l1 c line).dirty = 0)
    (hdirty : l.dirty = 0) (a : Nat) : (s.setL1 c line l).peek a = s.peek a := by
  refine peek_of_dirtyAt rfl ?_
  rw [dirtyAt, dirtyAt, setL1, Tbl.find?_set ({} : L1Line) (by simp [hdirty])]
  intro p hp hkey
  rw [← lineAt_of_mem hwf hp, hkey, ← l1_eq_lineAt, hclean]
  simp

theorem wf_setL1 (hwf : Tbl.wf {} s.lines = true) (l : L1Line) : Tbl.wf {} (s.setL1 c line l).lines = true :=
  Tbl.wf_set _ _ _ _ hwf

theorem peek_useL1_of_clean (hwf : Tbl.wf {} s.lines = true) (hclean : (s.l1 c line).dirty = 0) (a : Nat) :
    (s.useL1 c line).peek a = s.peek a := by
  unfold useL1
  dsimp only
  split
  · rfl
  · refine peek_setL1_of_clean hwf hclean ?_ a
    exact hclean

/-- What the L1 has not owned holds no dirty word. -/
theorem L1Ok.peek_becomeOwner (h : s.L1Ok) (hown : (s.l1 c line).owned = false) (data : Bool) (a : Nat) :
    (s.becomeOwner c line data).peek a = s.peek a := by
  have hroom := h.keeps_makeRoom c line
  have hclean : ((s.makeRoom c line).l1 c line).dirty = 0 := by
    rw [(s.spares_makeRoom c line).l1 c line rfl]
    by_contra hdirty
    simp [(h.inOrder _).1 hdirty, l1_eq_lineAt] at hown
  rw [becomeOwner, peek_useL1_of_clean (wf_setL1 hroom.l1Ok.wf _) (by rw [l1_setL1_self]; exact hclean),
    peek_setL1_of_clean hroom.l1Ok.wf hclean (by exact hclean), hroom.peek]

theorem becomeOwner_blks (s : State) (c line : Nat) (data : Bool) : (s.becomeOwner c line data).blks = s.blks := by
  rw [becomeOwner, (spares_useL1 ..).blks, setL1_blks, (s.spares_makeRoom c line).blks]

theorem owned_becomeOwner (s : State) (c line : Nat) (data : Bool) : ((s.becomeOwner c line data).l1 c line).owned = true := by
  rw [becomeOwner, owned_useL1, l1_setL1_self]

theorem valid_becomeOwner (s : State) (c line : Nat) (data : Bool) :
    ((s.becomeOwner c line data).l1 c line).valid = if data then -1 else (s.l1 c line).valid := by
  rw [becomeOwner, l1_useL1_valid, l1_setL1_self, (s.spares_makeRoom c line).l1 c line rfl]

theorem acknowledgement_last {x : Txn} {data : Bool} {a : Nat} (h : s.L1Ok) (htxn : s.txns.lookup line = some x)
    (hkind : x.kind = .own c data) (hgrant : x.granted = true) (hack : CohMsg.ack a c ∈ x.msgs)
    (hopen : CohMsg.completion c ∉ x.msgs) (hown : (s.l1 c line).owned = false) (hlast : x.acks + 1 = x.ackn) :
    s.Performs (.acknowledgement c line) fun t =>
      (s.hasRoom c line = true → (t.l1 c line).owned = true ∧
        (t.l1 c line).valid = if data then -1 else (s.l1 c line).valid) ∧
      (s.hasRoom c line = false → t.lines = s.lines) ∧
      ∃ y, t.txns.lookup line = some y ∧ y.acks = x.ackn ∧ CohMsg.completion c ∉ y.msgs := by
  obtain ⟨m, hcounted⟩ := counted_of_mem hack
  have hy (t : State) : ∃ y, (t.setTxn line (x.counted c)).txns.lookup line = some y ∧ y.acks = x.ackn ∧
      CohMsg.completion c ∉ y.msgs :=
    ⟨_, lookup_setTxn .., by rw [hcounted]; exact ⟨hlast, fun hmem => hopen (List.mem_of_mem_erase hmem)⟩⟩
  have hexec : exec (.acknowledgement c line) s = _ :=
    (exec_acknowledgement s).trans (execAcknowledgement_of_own htxn hkind)
  dsimp only at hexec
  rw [if_neg (by simp [hcounted, hgrant, hlast]), not_completing hown, if_neg (by simp)] at hexec
  cases hroom : s.hasRoom c line with
  | true =>
    rw [if_pos hroom] at hexec
    exact ⟨_, hexec, ⟨fun _ => by rw [l1_setTxn]; exact ⟨owned_becomeOwner .., valid_becomeOwner ..⟩, nofun, hy _⟩,
      fun a => by rw [peek_setTxn, h.peek_becomeOwner hown], by rw [setTxn_blks, becomeOwner_blks]⟩
  | false =>
    rw [if_neg (by simp [hroom])] at hexec
    exact ⟨_, hexec, ⟨nofun, fun _ => rfl, hy s⟩, fun _ => rfl, rfl⟩

theorem acknowledgement_not_last {x : Txn} {data : Bool} {a : Nat} (htxn : s.txns.lookup line = some x)
    (hkind : x.kind = .own c data) (hack : CohMsg.ack a c ∈ x.msgs) (hopen : CohMsg.completion c ∉ x.msgs)
    (hmore : x.acks + 1 ≠ x.ackn) : s.Performs (.acknowledgement c line) fun t => t.lines = s.lines ∧
      ∃ y, t.txns.lookup line = some y ∧ y.acks = x.acks + 1 ∧ CohMsg.completion c ∉ y.msgs := by
  obtain ⟨m, hcounted⟩ := counted_of_mem hack
  have hexec : exec (.acknowledgement c line) s = _ :=
    (exec_acknowledgement s).trans (execAcknowledgement_of_own htxn hkind)
  dsimp only at hexec
  rw [if_pos (by simp [hcounted, hmore])] at hexec
  exact ⟨_, hexec, ⟨rfl, _, lookup_setTxn .., by
    rw [hcounted]; exact ⟨rfl, fun hmem => hopen (List.mem_of_mem_erase hmem)⟩⟩, fun _ => rfl, rfl⟩

theorem acknowledgement_completes {x : Txn} {data : Bool} (htxn : s.txns.lookup line = some x) (hkind : x.kind = .own c data)
    (hgrant : x.granted = true) (hacks : x.acks = x.ackn) (hnone : ∀ a, CohMsg.ack a c ∉ x.msgs)
    (hown : (s.l1 c line).owned = true) : s.Performs (.acknowledgement c line) fun t => t.lines = s.lines ∧
      ∃ y, t.txns.lookup line = some y ∧ y.acks = x.acks ∧ CohMsg.completion c ∈ y.msgs := by
  have hexec : exec (.acknowledgement c line) s = _ :=
    (exec_acknowledgement s).trans (execAcknowledgement_of_own htxn hkind)
  dsimp only at hexec
  rw [counted_of_not_mem hnone, if_neg (by simp [hgrant, hacks]), if_pos (completing_of_own htxn hkind hown)] at hexec
  refine ⟨_, hexec, ⟨rfl, _, lookup_setTxn .., ?_⟩, fun _ => rfl, rfl⟩
  split
  case isTrue hsent => exact ⟨rfl, List.contains_iff_mem.mp hsent⟩
  case isFalse => exact ⟨rfl, by simp⟩

/-! ### Completions and recalls (R161, R162) -/

theorem ownCompletion_of_mem {x : Txn} {data : Bool} (htxn : s.txns.lookup line = some x) (hkind : x.kind = .own c data)
    (hmem : CohMsg.completion c ∈ x.msgs) (hqueue : x.queue = []) : s.Performs (.ownCompletion line) fun t =>
      t.txns.lookup line = none ∧
        t.dir line = { s.dir line with st := .x, coarse := false, cpe := false, shr := 0, ptrs := [c] } := by
  have hexec : exec (.ownCompletion line) s = .next ((s.setDir line
      { s.dir line with st := .x, coarse := false, cpe := false, shr := 0, ptrs := [c] }).dropTxn line) := by
    simp [execOwnCompletion, htxn, hkind, hmem, hqueue, serveQueue]
  exact ⟨_, hexec, ⟨lookup_dropTxn .., by rw [dir_dropTxn, dir_setDir, if_pos rfl]⟩, fun a => peek_congr rfl rfl a, rfl⟩

theorem recallLine_of_own {x : Txn} {data down : Bool} {o : Nat} (h : s.L1Ok) (htxn : s.txns.lookup line = some x)
    (hkind : x.kind = .own c data) (hmsgs : x.msgs = [.recall o down]) : s.Performs (.recallLine line) fun t =>
      t.txns.lookup line = some { x with msgs := [], granted := true } ∧
        (t.dir line).st = .i ∧ (t.dir line).ptrs = [] ∧ (down = false → o < 152 → (t.l1 o line).owned = false) := by
  obtain ⟨u, hu⟩ : ∃ u, u = if down then s.cleanLine line else (s.cleanLine line).discard o line := ⟨_, rfl⟩
  have hexec : exec (.recallLine line) s = .next ((u.setDir line
      { u.dir line with st := .i, coarse := false, cpe := false, ptrs := [], shr := 0 }).setTxn line
      { x with msgs := [], granted := true }) := by
    simp [execRecallLine, htxn, hmsgs, hkind, hu]
  have hkeeps : (∀ a, u.peek a = s.peek a) ∧ u.blks = s.blks := by
    cases down with
    | true => exact hu ▸ ⟨s.peek_cleanLine line, s.cleanLine_blks line⟩
    | false =>
      have hpeek := (h.cleanLine line).peek_discard fun _ => (s.cleanLine_clean line).l1_dirty o
      exact hu ▸ ⟨fun a => (hpeek a).trans (s.peek_cleanLine line a), (discard_blks ..).trans (s.cleanLine_blks line)⟩
  obtain ⟨hpeek, hblks⟩ := hkeeps
  refine ⟨_, hexec, ⟨lookup_setTxn .., ?_, ?_, fun hdown ho => ?_⟩, hpeek, hblks⟩
  · rw [dir_setTxn, dir_setDir, if_pos rfl]
  · rw [dir_setTxn, dir_setDir, if_pos rfl]
  · subst hdown hu
    rw [if_neg (by simp), l1_setTxn, l1_setDir, l1_discard _ ho]

theorem recallLine_of_read {x : Txn} {ag o : Nat} {r : List Nat} (h : s.L1Ok) (htxn : s.txns.lookup line = some x)
    (hkind : x.kind = .read ag) (hmsgs : x.msgs = [.recall o true]) (hqueue : x.queue = []) (hag : ag < 152) (ho : o < 152)
    (hst : (s.dir line).st = .x) (hcpe : (s.dir line).cpe = false) (hptrs : (s.dir line).ptrs = o :: r) (hne : o ≠ ag)
    (hroom : s.hasRoom ag line = true) : s.Performs (.recallLine line) fun t =>
      t.txns.lookup line = none ∧ (t.dir line).st = .s ∧ (t.dir line).ptrs = [o, ag] ∧ (t.l1 o line).owned = false ∧
        (t.l1 ag line).valid = -1 := by
  have hexec : exec (.recallLine line) s = .next ((s.grantRead ag line).dropTxn line) := by
    simp [execRecallLine, htxn, hmsgs, hkind, hqueue, serveQueue]
  have hdir := dir_grantRead_of_x hag hroom hst hcpe hptrs hne
  exact ⟨_, hexec, ⟨lookup_dropTxn .., by rw [dir_dropTxn, hdir], by rw [dir_dropTxn, hdir],
    owned_grantRead_of_x hag hroom ho hst hptrs hne, valid_grantRead hag hroom⟩, (h.keeps_grantRead hag hroom).peek,
    grantRead_blks hag hroom⟩

/-! ### Write-backs and eviction notices (R164, R165) -/

theorem writeBack_of_idle (hidle : s.txns.lookup line = none) : s.Performs (.writeBack line) fun t => t.dirs = s.dirs ∧
    (∀ p ∈ t.lines, p.1 / 256 = line → p.2.dirty = 0) ∧
    ∀ i, i < 128 → Tbl.get 0 t.mem (128 * line + i) = s.peek (128 * line + i) := by
  have hexec : exec (.writeBack line) s = .next (s.cleanLine line) := by simp [execWriteBack, not_lineBusy hidle]
  refine ⟨_, hexec, ⟨s.cleanLine_dirs line, s.cleanLine_clean line, fun i hi => ?_⟩, s.peek_cleanLine line,
    s.cleanLine_blks line⟩
  have hline : lineOf (128 * line + i) = line := by unfold lineOf; omega
  rw [← peek_of_clean (hline.symm ▸ s.cleanLine_clean line), peek_cleanLine]

/-- An L1 whose copy is not pinned drops it; the entry forgets an owner or a pointer. -/
theorem cacheDrop_eq (hpins : (s.l1 c line).pins = 0) : ∃ u, u.l1 c line = {} ∧ u.dir line = s.dir line ∧
    s.cacheDrop c line =
      let d := s.dir line
      if (s.l1 c line).owned then u.setDir line { d with st := .i, ptrs := [] }
      else if !d.coarse && d.st == .s && d.ptrs.contains c then
        u.setDir line { d with ptrs := d.ptrs.filter (· != c), st := if (d.ptrs.filter (· != c)).isEmpty then .i else .s }
      else u := by
  obtain ⟨t, hdir, hown, hpin, hdef⟩ : ∃ t, t.dir line = s.dir line ∧ (t.l1 c line).owned = (s.l1 c line).owned ∧
      (t.l1 c line).pins = 0 ∧ t = if (s.l1 c line).dirty = 0 then s else s.cleanLine line := by
    refine ⟨_, ?_, ?_, ?_, rfl⟩ <;> split <;> simp [hpins]
  refine ⟨t.dropCopy c line, by rw [l1_dropCopy_self, hpin], by rw [dir_dropCopy, hdir], ?_⟩
  unfold cacheDrop
  rw [← hdef]
  dsimp only
  rw [dir_dropCopy, hdir, hpin, hown]
  rfl

theorem evictionNotice_of_l1 (h : s.L1Ok) (hc : c < 152) (hpins : (s.l1 c line).pins = 0) (hidle : s.txns.lookup line = none) :
    s.Performs (.evictionNotice c line) fun t => (t.l1 c line).owned = false ∧ (t.l1 c line).valid = 0 ∧
      ((s.l1 c line).owned = true → (t.dir line).st = .i ∧ (t.dir line).ptrs = []) ∧
      ((s.l1 c line).owned = false → (s.dir line).st = .s → (s.dir line).coarse = false → c ∉ (t.dir line).ptrs) := by
  have hexec : exec (.evictionNotice c line) s = .next (s.cacheDrop c line) := by
    rw [exec_evictionNotice, execEvictionNotice, if_neg (by omega), if_neg (by simp [hpins, completing, hidle]), evictLine,
      if_pos (by simp [not_lineBusy hidle])]
  obtain ⟨u, hl1, hdir, hdrop⟩ := cacheDrop_eq hpins
  refine ⟨_, hexec, ?_, (h.keeps_cacheDrop c line).peek, (s.spares_cacheDrop c line).blks⟩
  have hcopy : (s.cacheDrop c line).l1 c line = {} := by
    rw [hdrop, ← hl1]
    dsimp only
    split
    · rfl
    split <;> rfl
  refine ⟨by rw [hcopy], by rw [hcopy], fun hown => ?_, fun hown hst hcoarse => ?_⟩
  · rw [hdrop]
    simp [hown, dir_setDir]
  · rw [hdrop]
    by_cases hmem : c ∈ (s.dir line).ptrs <;> simp [hown, hst, hcoarse, hmem, hdir, dir_setDir]

/-- A node cache drops a line, and its pointer goes. -/
theorem ncDrop_keeps (s : State) (line cluster : Nat) : (s.ncDrop line cluster).ncache = Tbl.erase s.ncache (ncKey line cluster) ∧
    (∀ a, (s.ncDrop line cluster).peek a = s.peek a) ∧ (s.ncDrop line cluster).blks = s.blks := by
  unfold ncDrop
  dsimp only
  split <;> exact ⟨rfl, fun a => peek_congr rfl rfl a, rfl⟩

theorem ptrs_ncDrop (cluster : Nat) (hst : (s.dir line).st = .s) (hcoarse : (s.dir line).coarse = false) :
    ((s.ncDrop line cluster).dir line).ptrs = (s.dir line).ptrs.filter (· != 152 + cluster) := by
  unfold ncDrop
  by_cases hmem : 152 + cluster ∈ (s.dir line).ptrs
  · simp [hst, hcoarse, hmem, dir_setDir]
  · have hsame : (s.dir line).ptrs.filter (· != 152 + cluster) = (s.dir line).ptrs :=
      List.filter_eq_self.mpr fun p hp => by simpa using fun hpc : p = 152 + cluster => hmem (hpc ▸ hp)
    rw [hsame]
    dsimp only
    rw [if_neg (by simp [hmem])]
    rfl

theorem evictionNotice_of_node (hc : 152 ≤ c) (hst : (s.dir line).st = .s) (hcoarse : (s.dir line).coarse = false)
    (hidle : s.txns.lookup line = none) : s.Performs (.evictionNotice c line) fun t =>
      Tbl.get none t.ncache (64 * line + (c - 152)) = none ∧ (t.dir line).ptrs = (s.dir line).ptrs.filter (· != c) := by
  obtain ⟨k, rfl⟩ := Nat.exists_eq_add_of_le hc
  have hexec : exec (.evictionNotice (152 + k) line) s = .next (s.ncDrop line k) := by
    simp [execEvictionNotice, not_lineBusy hidle]
  obtain ⟨hncache, hpeek, hblks⟩ := s.ncDrop_keeps line k
  refine ⟨_, hexec, ⟨?_, ptrs_ncDrop k hst hcoarse⟩, hpeek, hblks⟩
  rw [hncache, Nat.add_sub_cancel_left]
  exact Tbl.get_erase_self ..

theorem evictionNotice_of_pinned (hpins : (s.l1 c line).pins ≠ 0) (hc : c < 152) :
    exec (.evictionNotice c line) s = .next s := by
  rw [exec_evictionNotice, execEvictionNotice, if_neg (by omega), if_pos (by simp [hpins])]

end
end State

open State in
/-- Settles O42: a request is queued, left in progress or served whole; the messages of one in progress each do their part, and a
copy goes only when its dirty words have reached the home. What a line without a way does is the model's choice (log 73). -/
theorem coherenceMessages : Obligations.CoherenceMessages := by
  intro s line h
  refine ⟨fun _ hon hfree hidle => ⟨readRequest_of_i h hon hfree hidle, fun _ _ => readRequest_of_x hon hfree hidle⟩,
    fun _ data hon hfree hidle => ⟨fun hst => ownRequest_of_i h hon hfree hidle hst data,
      fun hst hcoarse => ownRequest_of_s hon hfree hidle hst hcoarse data,
      fun _ _ hst _ hptrs hne => ownRequest_of_x hon hfree hidle hst hptrs hne data⟩,
    fun _ data _ hon htxn =>
      starts_of_request ((MayAsk.exec_ownRequest hon data).trans (congrArg _ (MayAsk.request_of_busy hon htxn _))),
    fun _ hon hheld hidle =>
      starts_of_request ((MayAsk.exec_readRequest hon).trans (congrArg _ (MayAsk.request_of_held hon hidle hheld _))),
    fun _ hoff => ?_, fun _ => fillRequest_of_owned h, fun _ _ _ => invalidationReceipt_of_mem h,
    fun _ _ _ _ htxn hkind hgrant hack hopen hown =>
      ⟨acknowledgement_last h htxn hkind hgrant hack hopen hown, acknowledgement_not_last htxn hkind hack hopen⟩,
    fun _ _ _ => acknowledgement_completes, fun _ _ _ => ownCompletion_of_mem, fun _ _ _ _ _ => recallLine_of_own h,
    fun _ _ _ _ => recallLine_of_read h, writeBack_of_idle, fun _ => evictionNotice_of_l1 h, fun _ => evictionNotice_of_node,
    fun _ => evictionNotice_of_pinned⟩
  rw [exec_readRequest, execReadRequest, if_neg (by simp [mayHold, hoff])]

end Sys2Proof.Machine
end

section
/-! SUPPORT. A parked load whose unfinished lane is not Active (09 R190, 04 R65), and the state that refutes O46. -/

namespace Sys2Proof.Machine

/-- A load of a word to v4 with lane 1 Active, under MM (04 R65). -/
def maskedLoad : Again :=
  { word := .ld .w { ord := 0, scope := 0, data := 4, sel := 0, off := 63, ext := none }, active := 2, mm := true, snap := [] }

/-- The load has one unfinished lane, lane 0, and its fault is resolved. -/
def lanePark : Parked := { lanes := [{ lane := 0, va := 0 }], resolved := true }

/-- Page 0 of context 1. -/
def firstPage : Tlb := { ctx := 1, size := 12, vpage := 0, ppage := 0, tgt := 0, r := true, w := true, x := true }

/-- Lanes 0 and 1 run; the load of a word with lane 1 Active is parked for lane 0. The word in memory is 5. -/
def strayLane : State :=
  { State.reset with
    mem := [(0, 5)]
    l1tlb := [(0, [firstPage])]
    blks := [(1, { phase := .resident, ctx := 1 })]
    grps := [(32, { gslot := 1, slots := [(0, { occ := true, run := 3, again := some maskedLoad, parked := some lanePark })] })] }

/-- Lane 0 runs and is not Active, so the end of the load gives it what R65 leaves there: its old value, 0, or all ones. -/
theorem exec_replay_strayLane : ∃ t, exec (.replay 32 0) strayLane = .next t ∧ ∃ n,
    t.vcell 32 4 0 = { val := if Config.freeNat n 128 % 2 == 1 then 0xFFFFFFFF else 0 } :=
  ⟨_, rfl, _, Tbl.get_set_self ..⟩

/-- Refutes O46: the statement does not ask that the parked lane be Active. In `strayLane` lane 0 is parked and runs but is not
Active, so what the load returns there is not kept: at the end of the load R65 gives the lane its old value or all ones, where
the statement has it hold the word in memory, 5. -/
theorem not_replayOfLoad : ¬ Obligations.ReplayOfLoad := by
  unfold Obligations.ReplayOfLoad
  intro h
  have hl1 : strayLane.L1Ok := by unfold State.L1Ok; decide +kernel
  have hpage : State.Cached { strayLane with issue := { gid := 32, slot := 0 } } .read 0 0 0 := ⟨firstPage, rfl, rfl, rfl, rfl, rfl⟩
  obtain ⟨t, ht, htakes, -⟩ := h strayLane 32 0 maskedLoad .w _ lanePark _ 0 rfl rfl rfl hl1 rfl rfl rfl rfl rfl rfl rfl rfl (by decide)
    rfl rfl rfl rfl rfl (by decide) rfl rfl rfl rfl rfl rfl rfl rfl rfl hpage rfl rfl rfl rfl
  obtain ⟨u, hu, n, hcell⟩ := exec_replay_strayLane
  obtain rfl : u = t := by simpa [hu] using ht
  have hfive : u.vcell 32 4 0 = { val := 5 } := htakes 0 (by decide)
  rw [hcell] at hfive
  split at hfive <;> exact absurd hfive (by decide)

end Sys2Proof.Machine
end

section
/-! SUPPORT. Memory words of one lane whose page faults (09 R189), and loads of host memory, which wait for their completion (07
R155, 06 R114). Settles O33. -/

namespace Sys2Proof.Machine

/-! ### The lanes of a word -/

theorem shuffleBy_pair {α : Type} (f : Nat → Nat) (a b : α) : shuffleBy f 2 [a, b] = [a, b] ∨ shuffleBy f 2 [a, b] = [b, a] := by
  rcases Nat.mod_two_eq_zero_or_one (f 1) with h | h <;> simp [shuffleBy, h]

namespace State

theorem OneLane.lt {s : State} {l : Nat} (h : s.OneLane l) : l < 32 := by
  obtain ⟨hlt, -⟩ := h
  exact hlt

theorem inLaneOrder_of_lane {ls : List ParkedLane} {l : Nat} (hl : l < 32) (h : ∀ p ∈ ls, p.lane = l) : inLaneOrder ls = ls := by
  obtain ⟨before, behind, hsplit⟩ := List.append_of_mem (mem_lanes.mpr hl)
  have hnot : l ∉ before ++ behind := (List.nodup_cons.mp (List.nodup_middle.mp (hsplit ▸ lanes_nodup))).1
  have hothers {ms : List Nat} (hms : ms ⊆ before ++ behind) : (ms.flatMap fun m => ls.filter fun p => p.lane == m) = [] := by
    refine List.flatMap_eq_nil_iff.mpr fun m hm => List.filter_eq_nil_iff.mpr fun p hp => ?_
    rw [h p hp, beq_iff_eq]
    rintro rfl
    exact hnot (hms hm)
  have hmine : (ls.filter fun p => p.lane == l) = ls := by simpa using h
  rw [inLaneOrder, hsplit, List.flatMap_append, List.flatMap_cons, hmine, hothers (by simp), hothers (by simp), List.nil_append,
    List.append_nil]

theorem checkEach_eq_checkLanes (s : State) (o : VmOp) (m : MemOp) (perm : Nat) (ls : List Nat) :
    vmRun.checkEach s o m (fun _ => perm) none ls =
      checkLanes false m.size perm (s.selCap o.sel) (s.effOff o.sel 63 o.off o.ext) ls := by
  induction ls with
  | nil => rfl
  | cons l r ih =>
    simp only [vmRun.checkEach, ite_self, ih]
    rfl

/-- A word whose one lane has an aligned address runs over that lane. -/
theorem vmRun_of_oneLane {s : State} {o : VmOp} {m : MemOp} {perm l va : Nat} (data : Nat → List Word) (fin : State → State)
    (hreplay : s.issue.replay = false)
    (haddrs : s.laneAddrs false m.size perm o.sel 63 o.off o.ext s.active = .ok [(l, va)]) (halign : va % m.size = 0) :
    s.vmRun o m (fun _ => perm) none data fin = s.memRun m [{ lane := l, va, data := data l }] fin := by
  rw [laneAddrs, ← checkEach_eq_checkLanes] at haddrs
  simp [vmRun, hreplay, haddrs, misaligned, halign]

/-! ### A lane whose page faults (R189) -/

theorem memRun_of_fault {s u : State} {m : MemOp} {p : ParkedLane} {c lv : Nat} (fin : State → State)
    (hreplay : s.issue.replay = false) (hord : m.ordered = false) (hc : c ≠ 0)
    (ht : s.translate (some s.core) s.ctxId p.va m.acc = (.fault c lv, u)) :
    s.memRun m [p] fin = u.tick.parkLanes m c lv [] [p] 0 := by
  obtain ⟨c, rfl⟩ := Nat.exists_eq_succ_of_ne_zero hc
  have hloc : s.locate m.acc [p] = (u, { bad := [p], why := some (c + 1, lv) }) := by
    simp [locate, ht]
  have hdone : u.performSome m [] = (u.tick, {}) := by simp [performSome, shuffleBy]
  simp [memRun, hreplay, hord, hloc, hdone]


/-! ### The issuing split's slot -/

@[simp] theorem sl_updSl (s : State) (f : Slot → Slot) : (s.updSl f).sl = f s.sl := by
  simp [updSl, updSlot, setSlot, updGrp, sl, slotAt]

@[simp] theorem vregs_updSl (s : State) (f : Slot → Slot) (g : Nat) : ((s.updSl f).grp g).vregs = (s.grp g).vregs := by
  simp only [updSl, updSlot, setSlot, updGrp, grp_setGrp]
  split
  · next h => rw [h]
  · rfl

@[simp] theorem updSl_mem (s : State) (f : Slot → Slot) : (s.updSl f).mem = s.mem := rfl
@[simp] theorem updSl_flt (s : State) (f : Slot → Slot) : (s.updSl f).flt = s.flt := rfl
@[simp] theorem sl_setOut (s : State) (o : Out) : (s.setOut o).sl = s.sl := rfl

/-- What a split keeps of a word with lanes `ls` still to perform. -/
def keeping (p : Parked) (ls : List ParkedLane) (errs : LaneMask) : Parked :=
  let q : Parked := { p with lanes := inLaneOrder ls, errs }
  { q with resolved := Parked.canGo q }

@[simp] theorem sl_stayWith (s : State) (m : MemOp) (p : Parked) (lanes unf : List ParkedLane) (errs : LaneMask) :
    (s.stayWith m p lanes unf errs).sl = { s.sl with
      parked := some (keeping p (lanes ++ unf) errs)
      unf := if m.once && !unf.isEmpty then s.active else laneMask unf
      wait := if p.pages.isEmpty then .ready else .parked
      waitFor := if p.pages.isEmpty then .memory else s.sl.waitFor } := by
  simp [stayWith, keeping]
@[simp] theorem vregs_stayWith (s : State) (m : MemOp) (p : Parked) (lanes unf : List ParkedLane) (errs : LaneMask) (g : Nat) :
    ((s.stayWith m p lanes unf errs).grp g).vregs = (s.grp g).vregs := by
  simp [stayWith, setOut_grp]

@[simp] theorem stayWith_out (s : State) (m : MemOp) (p : Parked) (lanes unf : List ParkedLane) (errs : LaneMask) :
    (s.stayWith m p lanes unf errs).issue.out = .stay := rfl
@[simp] theorem stayWith_mem (s : State) (m : MemOp) (p : Parked) (lanes unf : List ParkedLane) (errs : LaneMask) :
    (s.stayWith m p lanes unf errs).mem = s.mem := rfl
@[simp] theorem stayWith_issue (s : State) (m : MemOp) (p : Parked) (lanes unf : List ParkedLane) (errs : LaneMask) :
    (s.stayWith m p lanes unf errs).issue = { s.issue with out := .stay } := rfl
@[simp] theorem stayWith_lines (s : State) (m : MemOp) (p : Parked) (lanes unf : List ParkedLane) (errs : LaneMask) :
    (s.stayWith m p lanes unf errs).lines = s.lines := rfl
@[simp] theorem stayWith_hostMem (s : State) (m : MemOp) (p : Parked) (lanes unf : List ParkedLane) (errs : LaneMask) :
    (s.stayWith m p lanes unf errs).hostMem = s.hostMem := rfl
@[simp] theorem stayWith_pending (s : State) (m : MemOp) (p : Parked) (lanes unf : List ParkedLane) (errs : LaneMask) :
    (s.stayWith m p lanes unf errs).pending = s.pending := rfl
@[simp] theorem stayWith_flt (s : State) (m : MemOp) (p : Parked) (lanes unf : List ParkedLane) (errs : LaneMask) :
    (s.stayWith m p lanes unf errs).flt = s.flt := rfl

@[simp] theorem postFault_mem (s : State) (r : FaultRec) : (s.postFault r).mem = s.mem := rfl
@[simp] theorem postFault_held (s : State) (r : FaultRec) :
    (s.postFault r).flt.held = s.flt.held ++ [{ r with fid := (s.ctx r.ctx).nextFid }] := rfl
@[simp] theorem parkSplit_mem (s : State) (r : FaultRec) (p : Parked) : (s.parkSplit r p).mem = s.mem := by
  simp only [parkSplit, setOut_mem, updSl_mem, postFault_mem]
@[simp] theorem parkSplit_held (s : State) (r : FaultRec) (p : Parked) :
    (s.parkSplit r p).flt.held = s.flt.held ++ [{ r with fid := (s.ctx r.ctx).nextFid }] := by
  simp only [parkSplit, setOut_flt, updSl_flt, postFault_held]
@[simp] theorem sl_parkSplit (s : State) (r : FaultRec) (p : Parked) : (s.parkSplit r p).sl = { s.sl with
    wait := .parked, unf := r.unf, fid := BitVec.ofNat 16 (s.ctx r.ctx).nextFid
    parked := some { p with pages := [r.va], since := s.clock, resolved := false } } := by
  simp only [parkSplit, sl_setOut, sl_updSl]
  rfl
@[simp] theorem vregs_parkSplit (s : State) (r : FaultRec) (p : Parked) (g : Nat) :
    ((s.parkSplit r p).grp g).vregs = (s.grp g).vregs := by
  simp only [parkSplit, setOut_grp, vregs_updSl]
  rfl

/-- The issuing split is parked at lane `l` for a fault at `va`; nothing has been performed since `u`. -/
def ParksLane (s u t : State) (l va c lv : Nat) (acc : Acc) : Prop :=
  t.issue.out = .stay ∧ t.sl.wait = .parked ∧ t.sl.unf = BitVec.ofNat 32 (2 ^ l) ∧ t.sl.pc = s.sl.pc ∧ t.sl.run = s.sl.run ∧
    t.mem = u.mem ∧ t.flt.held = u.flt.held ++
      [{ s.splitFault va c lv acc (BitVec.ofNat 32 (2 ^ l)) 0 with fid := (s.ctx s.ctxId).nextFid }] ∧
    (t.grp s.gid).vregs = s.g.vregs ∧
    ∃ p, t.sl.parked = some p ∧ p.pages = [va] ∧ p.resolved = false ∧ p.lanes.map (·.lane) = [l]

theorem parkLanes_of_lane {u : State} {m : MemOp} {p : ParkedLane} (c lv : Nat) (hl : p.lane < 32) (hdest : p.dest = none)
    (honce : m.once = false) : u.ParksLane u (u.parkLanes m c lv [] [p] 0) p.lane p.va c lv m.acc := by
  have horder : inLaneOrder [p] = [p] := inLaneOrder_of_lane hl (by simp)
  have hmask : laneMask [p] = BitVec.ofNat 32 (2 ^ p.lane) := BitVec.zero_or
  have hpark : u.parkLanes m c lv [] [p] 0 =
      (u.parkSplit (u.splitFault p.va c lv m.acc (BitVec.ofNat 32 (2 ^ p.lane)) 0) {}).stayWith m
        { pages := [p.va], since := u.clock } [] [p] 0 := by
    rw [parkLanes, honce, if_neg (by decide), hmask, sl_parkSplit]
    rfl
  rw [hpark]
  simp only [ParksLane, stayWith_out, stayWith_mem, stayWith_flt, parkSplit_mem, parkSplit_held, sl_stayWith, sl_parkSplit,
    vregs_stayWith, vregs_parkSplit, honce, List.nil_append, Bool.false_and, Bool.false_eq_true, if_false, List.isEmpty_cons,
    hmask, true_and]
  exact ⟨rfl, rfl, _, rfl, rfl, by simp [keeping, Parked.canGo, hdest, horder], by simp [keeping, horder]⟩

/-- The split, its context and its card are those of a state that translation has left alone. -/
theorem ParksLane.of_translate {s u t : State} {l va c lv : Nat} {acc : Acc} (h : u.ParksLane u t l va c lv acc)
    (hgrps : u.grps = s.grps) (hissue : u.issue = s.issue) (hblks : u.blks = s.blks) (hctxs : u.ctxs = s.ctxs)
    (hcards : u.cards = s.cards) : s.ParksLane u t l va c lv acc := by
  have hg : u.g = s.g := by simp only [State.g, grp, hgrps, hissue]
  have hsl : u.sl = s.sl := by simp only [sl, slotAt, grp, hgrps, hissue]
  have hgid : u.gid = s.gid := by simp only [gid, hissue]
  have hb : u.b = s.b := by simp only [b, bid, blk, hblks, hissue]
  simpa only [ParksLane, splitFault, ctxId, cardField, card, ctx, hg, hsl, hgid, hb, hissue, hctxs, hcards] using h

/-! ### Loads, stores and atomics whose page faults -/

/-- Nothing on its way holds back a release of the word. -/
theorem released_of_quiet {s : State} {ord : Nat} (scope : Nat) (f : State → State) (hfar : s.farSent = [])
    (hpending : s.pending = []) (hrel : s.MayRelease ord) : s.released ord scope f = f s := by
  unfold released
  split
  · rfl
  next hord =>
    obtain ⟨⟨hcount, -, -⟩, -⟩ : s.Released := hrel.resolve_left (by simp_all)
    simp [release, accepted, flushFar, acceptWhere, hfar, holdRf, hcount, redsLeft, hpending, unanswered, publish]

/-- What LD and LD.INV do in a lane, with result registers from `d` on. -/
def loadOp (sz : LdSize) (d : Nat) (inv : Bool) : MemOp where
  acc := .read
  awaits := true
  check _ _ _ := none
  size := sz.bytes
  reads := true
  halves := true
  perform s p tgt pa :=
    let x := halfOf p.half sz.bytes
    let r := s.loadAt tgt (pa + x.1) x.2 inv
    r.1.putWords (d + x.1 / 4) p.lane (loadWords sz r.2)

/-- What ST does in a lane. -/
def storeOp (sz : StSize) : MemOp where
  acc := .write
  awaits := false
  check _ _ _ := none
  size := sz.bytes
  reads := false
  halves := true
  perform s p tgt pa :=
    let x := halfOf p.half sz.bytes
    s.storeAt p.va tgt (pa + x.1) (((bytesOf p.data).drop x.1).take x.2)

/-- What ATOM does in a lane, with result registers from `d` on. -/
def atomOp (op : AtomOp) (z : Bool) (d : Nat) : MemOp where
  acc := .rmw
  awaits := true
  size := atomBytes z
  reads := true
  check tgt _ p :=
    if atomTargetOk op tgt then none else some { code := 11, lane := p.lane, info := 0x60 + 2 * AtomOp.index op + z.toNat }
  perform s p tgt pa :=
    let x := atomOperands op z p.data
    let r := s.atomicAt tgt pa op z x.1 x.2
    r.1.putWords d p.lane (wordsOf (toLe (atomBytes z) r.2.toNat))

/-- The end of a load: what R65 leaves in the other running lanes, and its acquire. -/
def loadEnd (sz : LdSize) (o : VmOp) (d : Nat) (s : State) : State :=
  (s.agnosticLanes d ((sz.bytes + 3) / 4)).acquired o.ord o.scope

theorem exec_ld_acts {s : State} {sz : LdSize} {o : VmOp} (h : s.Acts (.ld sz o)) : exec (.ld sz o) s =
    .next (s.vmRun o (loadOp sz (s.vname o.data) false) (fun _ => pLOAD) none (fun _ => []) (loadEnd sz o (s.vname o.data))) := by
  rw [exec_ld, execLd, issuedC_next _ h]
  rfl

theorem exec_st_acts {s : State} {sz : StSize} {o : VmOp} (h : s.Acts (.st sz o)) : exec (.st sz o) s =
    .next (s.released o.ord o.scope fun s =>
      s.vmRun o (storeOp sz) (fun _ => pSTORE) none (fun l => s.getWords (s.vname o.data) (StSize.words sz) l) id) := by
  rw [exec_st, execSt, issuedC_next _ h]
  rfl

theorem exec_atom_acts {s : State} {op : AtomOp} {z : Bool} {o : VmOp} (h : s.Acts (.atom op z o)) : exec (.atom op z o) s =
    .next (s.released o.ord o.scope fun s =>
      s.vmRun o (atomOp op z (s.vname o.data)) (fun _ => pLOAD + pSTORE + pATOMIC) none
        (fun l => s.getWords (s.vname o.data) (atomWords op z) l)
        fun t => (t.agnosticLanes (s.vname o.data) (atomBytes z / 4)).acquired o.ord o.scope) := by
  rw [exec_atom, execAtom, issuedC_next _ h]
  rfl

theorem parks : Claims.Park := by
  intro s u o l va c lv hquiet hone hc
  obtain ⟨hreplay, -, hfar, -⟩ := hquiet
  have hparks (m : MemOp) (hord : m.ordered = false) (honce : m.once = false) {i : Instr} {perm : Nat} {data : Nat → List Word}
      {fin : State → State} (hexec : exec i s = .next (s.vmRun o m (fun _ => perm) none data fin))
      (haddrs : s.laneAddrs false m.size perm o.sel 63 o.off o.ext s.active = .ok [(l, va)]) (halign : va % m.size = 0)
      (ht : s.translate (some s.core) s.ctxId va m.acc = (.fault c lv, u)) (hgrps : u.grps = s.grps) (hissue : u.issue = s.issue)
      (hblks : u.blks = s.blks) (hctxs : u.ctxs = s.ctxs) (hcards : u.cards = s.cards) :
      ∃ t, exec i s = .next t ∧ s.ParksLane u t l va c lv m.acc := by
    refine ⟨_, by rw [hexec, vmRun_of_oneLane data fin hreplay haddrs halign, memRun_of_fault fin hreplay hord hc ht], ?_⟩
    exact (parkLanes_of_lane (u := u.tick) c lv hone.lt rfl honce).of_translate hgrps hissue hblks hctxs hcards
  refine ⟨fun sz hacts => ?_, fun sz hrel hpending hacts => ?_, fun op z hrel hpending hacts => ?_⟩
  · exact hparks (loadOp sz (s.vname o.data) false) rfl rfl (exec_ld_acts hacts)
  · exact hparks (storeOp sz) rfl rfl ((exec_st_acts hacts).trans (congrArg _ (released_of_quiet o.scope _ hfar hpending hrel)))
  · exact hparks (atomOp op z (s.vname o.data)) rfl rfl
      ((exec_atom_acts hacts).trans (congrArg _ (released_of_quiet o.scope _ hfar hpending hrel)))

/-! ### Requests on a link (R155) -/

/-- The number of the next request on a link. -/
def nextRequest (s : State) : Nat := s.pending.foldl (fun n p => max n p.id) 0 + 1

theorem lt_nextRequest {s : State} {p : Pending} (hp : p ∈ s.pending) : p.id < s.nextRequest := by
  have hmax (l : List Pending) (n : Nat) : n ≤ l.foldl (fun n p => max n p.id) n ∧
      ∀ p ∈ l, p.id ≤ l.foldl (fun n p => max n p.id) n := by
    induction l generalizing n with
    | nil => simp
    | cons q r ih =>
      obtain ⟨hle, hids⟩ := ih (max n q.id)
      simp only [List.foldl_cons, List.forall_mem_cons]
      exact ⟨by omega, by omega, hids⟩
  exact Nat.lt_succ_of_le ((hmax s.pending 0).2 p hp)

/-- The issuing split's read of host memory at `va`, as it goes on the link. -/
def hostRequest (s : State) (va : Nat) : Pending :=
  { id := s.nextRequest, tgt := 1, gid := s.gid, slot := s.issue.slot, ctx := s.ctxId, va }
def sendHost (s : State) (va : Nat) : State := { s with pending := s.pending ++ [s.hostRequest va] }

/-- The answer to the newest request, a read, goes to its lane. -/
theorem linkAnswer_newest {t : State} {ps : List Pending} {q : Pending} (hpending : t.pending = ps ++ [q])
    (hids : ∀ p ∈ ps, p.id < q.id) (hwrite : q.write = none) (hred : q.red = none) (hseen : ∀ p ∈ ps, q.gid ∉ p.seen)
    (bad : Bool) : t.linkAnswer q.tgt q.id bad = ({ t with pending := ps } : State).answerLane q.gid q.slot q.id bad := by
  have hfind : t.pending.find? (fun p => p.id == q.id && p.tgt == q.tgt) = some q := by
    rw [hpending, List.find?_append, List.find?_eq_none.mpr fun p hp => by simp [(hids p hp).ne]]
    simp
  have holder : t.olderWrite q = false := by
    rw [olderWrite, hpending, List.any_append, List.any_eq_false.mpr fun p hp => by simp [hseen p hp]]
    simp
  have hrest : t.pending.filter (fun p => p.id != q.id) = ps := by
    rw [hpending, List.filter_append, List.filter_eq_self.mpr fun p hp => by simp [(hids p hp).ne]]
    simp
  simp [linkAnswer, hfind, holder, hrest, hwrite, hred]

/-! ### Accesses that perform at once -/

theorem length_shuffleBy {α : Type} (f : Nat → Nat) (n : Nat) (l : List α) : (shuffleBy f n l).length = l.length := by
  induction n generalizing l with
  | zero => rfl
  | succ n ih =>
    unfold shuffleBy
    split
    · rfl
    split
    · rfl
    next hget =>
      obtain ⟨hlt, -⟩ := List.getElem?_eq_some_iff.mp hget
      rw [List.length_cons, ih, List.length_eraseIdx_of_lt hlt]
      omega

/-- Every access goes on now, in some order. -/
theorem performSome_of_free {s : State} {m : MemOp} {ls : List ParkedLane} (hup : s.issue.upTo = none)
    (hcan : ∀ p ∈ ls, s.canPerform m ls p = true) :
    s.performSome m ls = (shuffleBy s.freeNat ls.length ls).foldl (performLane m) (s.tick, {}) := by
  have hgo : ls.filter (s.canPerform m ls) = ls := List.filter_eq_self.mpr hcan
  have hwait : (ls.filter fun p => !s.canPerform m ls p) = [] := List.filter_eq_nil_iff.mpr fun p hp => by simp [hcan p hp]
  have hlen := length_shuffleBy s.freeNat ls.length ls
  rw [performSome, hgo, hwait, hup, Option.getD_none, List.take_of_length_le hlen.le, List.drop_of_length_le hlen.le,
    List.append_nil, List.append_nil]

/-- A lane that translates at once, with no line of it held. -/
theorem memRun_of_translated {s t : State} {m : MemOp} {d : Done} {p : ParkedLane} {tgt pa : Nat} (fin : State → State)
    (hreplay : s.issue.replay = false) (hord : m.ordered = false)
    (ht : s.translate (some s.core) s.ctxId p.va m.acc = (.ok tgt pa, s))
    (hcheck : m.check tgt pa { p with dest := some (tgt, pa) } = none)
    (hheld : s.heldFor m { p with dest := some (tgt, pa) } = false)
    (hsome : s.performSome m (accesses m { p with dest := some (tgt, pa) }) = (t, d)) :
    s.memRun m [p] fin = t.endPass m {} d.waiting [] d.errs fin := by
  have hloc : s.locate m.acc [p] = (s, { ok := [{ p with dest := some (tgt, pa) }] }) := by simp [locate, ht]
  simp [memRun, hreplay, hord, hloc, hcheck, hheld, hsome]

theorem endPass_of_waiting {s : State} {m : MemOp} {p : Parked} {lanes unf : List ParkedLane} (errs : LaneMask)
    (fin : State → State) (h : lanes ≠ []) : s.endPass m p lanes unf errs fin = s.stayWith m p lanes unf errs := by
  simp [endPass, h]

/-! ### Loads of host memory (R155) -/

theorem not_heldFor_host {s : State} {m : MemOp} {p : ParkedLane} {pa : Nat} (hdest : p.dest = some (1, pa)) :
    s.heldFor m p = false := by
  simp [heldFor, blocked, hdest]

/-- An access of lane `l` to host memory, and the number of its request. -/
def hostAccess (l va pa half : Nat) (out : Option Nat) : ParkedLane := { lane := l, va, dest := some (1, pa), half, out }

theorem performLane_hostAccess {m : MemOp} (hawaits : m.awaits = true) (s : State) (l va pa half : Nat)
    (waiting : List ParkedLane) :
    performLane m (s, { waiting }) (hostAccess l va pa half none) =
      (s.sendHost va, { waiting := waiting ++ [hostAccess l va pa half (some s.nextRequest)] }) := by
  simp only [performLane, hostAccess, hawaits]
  rfl

/-- No answer has come for the accesses that wait, all of lane `l`. -/
theorem keeping_hostAccess {l : Nat} (hl : l < 32) {ls : List ParkedLane}
    (hls : ∀ x ∈ ls, ∃ va pa half id, x = hostAccess l va pa half (some id)) :
    keeping {} ls 0 = { lanes := ls, resolved := false } := by
  have horder : inLaneOrder ls = ls := inLaneOrder_of_lane hl fun x hx => by
    obtain ⟨va, pa, half, id, rfl⟩ := hls x hx
    rfl
  have hwaits : Parked.canGo { lanes := ls, errs := 0 } = false := by
    rw [Parked.canGo, Bool.or_eq_false_iff, Bool.and_eq_false_iff, List.any_eq_false, Bool.and_eq_false_iff, List.any_eq_false]
    refine ⟨fun x hx => ?_, .inl (.inr fun x hx => ?_)⟩ <;> obtain ⟨va, pa, half, id, rfl⟩ := hls x hx <;>
      simp [hostAccess, ParkedLane.answered]
  simpa [keeping, horder] using hwaits

/-- The word keeps waiting for the accesses `waiting` that its requests have left. -/
theorem exec_ld_of_host {s t : State} {sz : LdSize} {o : VmOp} {l va pa : Nat} {ls waiting : List ParkedLane} (hquiet : s.Quiet)
    (haddrs : s.laneAddrs false sz.bytes pLOAD o.sel 63 o.off o.ext s.active = .ok [(l, va)]) (halign : va % sz.bytes = 0)
    (hcached : s.Cached .read va 1 pa) (hacts : s.Acts (.ld sz o))
    (hall : accesses (loadOp sz (s.vname o.data) false) (hostAccess l va pa 0 none) = ls)
    (hsent : (shuffleBy s.freeNat ls.length ls).foldl (performLane (loadOp sz (s.vname o.data) false)) (s.tick, {}) =
      (t, { waiting })) (hwaiting : waiting ≠ []) :
    exec (.ld sz o) s = .next (t.stayWith (loadOp sz (s.vname o.data) false) {} waiting [] 0) := by
  obtain ⟨hreplay, hup, -⟩ := hquiet
  obtain ⟨x, hx, hpermits, hfw, htgt, hpa⟩ := hcached
  have ht : s.translate (some s.core) s.ctxId va .read = (.ok 1 pa, s) := by
    rw [translate_cached hx hpermits hfw, htgt, hpa]
  have hcan : ∀ p ∈ ls, s.canPerform (loadOp sz (s.vname o.data) false) ls p = true := by
    intro p hp
    obtain ⟨hdest, hout⟩ : p.dest = some (1, pa) ∧ p.out = none := by
      rw [← hall, accesses] at hp
      split at hp <;> simp only [List.mem_cons, List.not_mem_nil, or_false] at hp
      · rcases hp with rfl | rfl <;> exact ⟨rfl, rfl⟩
      · exact hp ▸ ⟨rfl, rfl⟩
    simp [canPerform, not_heldFor_host hdest, hout]
  have hsome := (performSome_of_free hup hcan).trans hsent
  rw [exec_ld_acts hacts, vmRun_of_oneLane (m := loadOp sz (s.vname o.data) false) _ _ hreplay haddrs halign,
    memRun_of_translated (m := loadOp sz (s.vname o.data) false) _ hreplay rfl ht rfl (not_heldFor_host rfl) (hall ▸ hsome),
    endPass_of_waiting _ _ hwaiting]

/-- The answer that the request numbered `id` brings to the lanes of a word. -/
def answering (id : Nat) (p : Parked) : Parked :=
  let q : Parked := { p with lanes := p.lanes.map fun x => if x.out = some id then { x with ok := true } else x }
  { q with resolved := Parked.canGo q }

/-- The newest request, a read of the issuing split, is answered. -/
theorem linkAnswer_own {t : State} {ps : List Pending} {q : Pending} {p : Parked} (hpending : t.pending = ps ++ [q])
    (hids : ∀ p ∈ ps, p.id < q.id) (hwrite : q.write = none) (hred : q.red = none) (hseen : ∀ p ∈ ps, q.gid ∉ p.seen)
    (hgid : q.gid = t.issue.gid) (hslot : q.slot = t.issue.slot) (hp : t.sl.parked = some p) :
    (t.linkAnswer q.tgt q.id false).pending = ps ∧ (t.linkAnswer q.tgt q.id false).sl.parked = some (answering q.id p) := by
  rw [linkAnswer_newest hpending hids hwrite hred hseen, hgid, hslot]
  refine ⟨rfl, ?_⟩
  have hsl (u : State) (id : Nat) (hu : u.sl = t.sl) :
      (u.answerLane u.issue.gid u.issue.slot id false).sl.parked = some (answering id p) := by
    refine (congrArg Slot.parked (sl_updSl u _)).trans ?_
    simp [hu, hp, answering]
  exact hsl { t with pending := ps } q.id rfl

/-- A load of less than 16 bytes: one request, whose completion lets the split go on. -/
theorem loadWaits_of_word {s : State} {sz : LdSize} {o : VmOp} {l va pa : Nat} (hquiet : s.Quiet) (hone : s.OneLane l)
    (haddrs : s.laneAddrs false sz.bytes pLOAD o.sel 63 o.off o.ext s.active = .ok [(l, va)]) (halign : va % sz.bytes = 0)
    (hcached : s.Cached .read va 1 pa) (hseen : ∀ p ∈ s.pending, s.gid ∉ p.seen) (hacts : s.Acts (.ld sz o))
    (hsize : sz.bytes < 16) : ∃ t, exec (.ld sz o) s = .next t ∧ t.issue.out = .stay ∧
      t.pending = s.pending ++ [s.hostRequest va] ∧ (t.grp s.gid).vregs = s.g.vregs ∧ t.hostMem = s.hostMem ∧
      (∀ a, t.peek a = s.peek a) ∧
      (∃ p, t.sl.parked = some p ∧ p.resolved = false ∧ p.lanes.map (·.out) = [some s.nextRequest]) ∧
      ∃ u, exec (.hostCompletion s.nextRequest) t = .next u ∧ u.pending = s.pending ∧
        ∃ p, u.sl.parked = some p ∧ p.resolved = true ∧ p.lanes.map (·.ok) = [true] := by
  have hall : accesses (loadOp sz (s.vname o.data) false) (hostAccess l va pa 0 none) = [hostAccess l va pa 0 none] := by
    have hne : sz.bytes ≠ 16 := by omega
    simp [accesses, loadOp, hne]
  have hsent : [hostAccess l va pa 0 none].foldl (performLane (loadOp sz (s.vname o.data) false)) (s.tick, {}) =
      (s.tick.sendHost va, { waiting := [hostAccess l va pa 0 (some s.nextRequest)] }) :=
    performLane_hostAccess (m := loadOp sz (s.vname o.data) false) rfl s.tick l va pa 0 []
  have hexec := exec_ld_of_host hquiet haddrs halign hcached hacts hall hsent (by simp)
  generalize loadOp sz (s.vname o.data) false = m at hexec
  have hparked : ((s.tick.sendHost va).stayWith m {} [hostAccess l va pa 0 (some s.nextRequest)] [] 0).sl.parked =
      some { lanes := [hostAccess l va pa 0 (some s.nextRequest)], resolved := false } := by
    rw [sl_stayWith]
    exact congrArg some (keeping_hostAccess hone.lt (by simp [hostAccess]))
  have hpending : ((s.tick.sendHost va).stayWith m {} [hostAccess l va pa 0 (some s.nextRequest)] [] 0).pending =
      s.pending ++ [s.hostRequest va] := by
    rw [stayWith_pending]
    rfl
  obtain ⟨hleft, hanswered⟩ := linkAnswer_own hpending (fun p hp => lt_nextRequest hp) rfl rfl hseen
    (by rw [stayWith_issue]; rfl) (by rw [stayWith_issue]; rfl) hparked
  refine ⟨_, hexec, stayWith_out .., hpending, vregs_stayWith .., stayWith_hostMem ..,
    fun a => peek_congr (stayWith_lines ..) (stayWith_mem ..) a, ⟨_, hparked, rfl, rfl⟩, _, rfl, hleft, _, hanswered, ?_⟩
  simp [answering, Parked.canGo, hostAccess, ParkedLane.answered, hostRequest]

/-- A load of 16 bytes: a request for each half, in either order. -/
theorem loadWaits_of_halves {s : State} {sz : LdSize} {o : VmOp} {l va pa : Nat} (hquiet : s.Quiet) (hone : s.OneLane l)
    (haddrs : s.laneAddrs false sz.bytes pLOAD o.sel 63 o.off o.ext s.active = .ok [(l, va)]) (halign : va % sz.bytes = 0)
    (hcached : s.Cached .read va 1 pa) (hacts : s.Acts (.ld sz o)) (hsize : sz.bytes = 16) :
    ∃ t, exec (.ld sz o) s = .next t ∧ t.issue.out = .stay ∧
      t.pending = s.pending ++ [s.hostRequest va, (s.sendHost va).hostRequest va] ∧ (t.grp s.gid).vregs = s.g.vregs ∧
      ∃ p, t.sl.parked = some p ∧ p.resolved = false ∧
        p.lanes.map (·.out) = [some s.nextRequest, some (s.sendHost va).nextRequest] ∧
        ∃ k, (k = 1 ∨ k = 2) ∧ p.lanes.map (·.half) = [k, 3 - k] := by
  have hall : accesses (loadOp sz (s.vname o.data) false) (hostAccess l va pa 0 none) =
      [hostAccess l va pa 1 none, hostAccess l va pa 2 none] := by
    simp [accesses, loadOp, hsize, hostAccess]
  obtain ⟨k, hk, horder⟩ : ∃ k, (k = 1 ∨ k = 2) ∧
      shuffleBy s.freeNat 2 [hostAccess l va pa 1 none, hostAccess l va pa 2 none] =
        [hostAccess l va pa k none, hostAccess l va pa (3 - k) none] := by
    rcases shuffleBy_pair s.freeNat (hostAccess l va pa 1 none) (hostAccess l va pa 2 none) with h | h
    · exact ⟨1, .inl rfl, h⟩
    · exact ⟨2, .inr rfl, h⟩
  have hawaits : (loadOp sz (s.vname o.data) false).awaits = true := rfl
  have hsent : (shuffleBy s.freeNat 2 [hostAccess l va pa 1 none, hostAccess l va pa 2 none]).foldl
      (performLane (loadOp sz (s.vname o.data) false)) (s.tick, {}) = ((s.tick.sendHost va).sendHost va,
        { waiting := [hostAccess l va pa k (some s.nextRequest),
                      hostAccess l va pa (3 - k) (some (s.sendHost va).nextRequest)] }) := by
    rw [horder, List.foldl_cons, performLane_hostAccess hawaits]
    exact performLane_hostAccess hawaits (s.tick.sendHost va) l va pa (3 - k) [_]
  have hexec := exec_ld_of_host hquiet haddrs halign hcached hacts hall hsent (by simp)
  generalize loadOp sz (s.vname o.data) false = m at hexec
  refine ⟨_, hexec, stayWith_out .., ?_, vregs_stayWith .., _, congrArg Slot.parked (sl_stayWith ..), ?_⟩
  · rw [stayWith_pending]
    exact List.append_assoc ..
  · rw [List.append_nil, keeping_hostAccess hone.lt (by simp [hostAccess])]
    exact ⟨rfl, rfl, k, hk, rfl⟩

theorem hostLoadWaits : Claims.HostLoadWaits := by
  intro s sz o l va pa hquiet hone haddrs halign hcached hseen hacts
  refine ⟨fun hsize => ?_, fun hsize => ?_⟩
  · obtain ⟨t, hexec, hout, hpending, hwaits⟩ := loadWaits_of_word hquiet hone haddrs halign hcached hseen hacts hsize
    exact ⟨t, s.nextRequest, hexec, hout, fun p hp => lt_nextRequest hp, hpending, hwaits⟩
  · have hlt : s.nextRequest < (s.sendHost va).nextRequest :=
      lt_nextRequest (s := s.sendHost va) (p := s.hostRequest va) (by simp [sendHost])
    obtain ⟨t, hexec, hout, hpending, hwaits⟩ := loadWaits_of_halves hquiet hone haddrs halign hcached hacts hsize
    exact ⟨t, s.nextRequest, (s.sendHost va).nextRequest, hexec, hout, hlt.ne,
      fun p hp => ⟨lt_nextRequest hp, (lt_nextRequest hp).trans hlt⟩, hpending, hwaits⟩

end State

open State in
/-- Settles O33: a word of one lane whose page faults performs nothing, so the split parks with that lane; a load of host memory
sends its requests and stays until their completions mark its lane answered. -/
theorem parkedLoads : Obligations.ParkedLoads := ⟨parks, hostLoadWaits⟩

end Sys2Proof.Machine
end

section
/-! SUPPORT. The fault unit (09 R187, R191 to R193, 08 R170): the TLB entries that a range covers, resolves, the reduction fault
count, page walks, and the records of the ring, which a write at the home stores without an error logged. Settles O45. -/

namespace Sys2Proof.Machine

/-! ### Ranges and the entries that meet them (Table 9.5, R187) -/

/-- A range code of Table 9.5 that names a page, and the bits of its offset. -/
def RangeBits (code bits : Nat) : Prop :=
  code = 0 ∧ bits = 12 ∨ code = 1 ∧ bits = 16 ∨ code = 2 ∧ bits = 21 ∨ code = 3 ∧ bits = 30

namespace State

theorem bitsOf_code (x : Nat) : bitsOf x 0 3 = x % 8 := by simp [bitsOf]

theorem rangeCovers_iff (code base va : Nat) :
    rangeCovers code base va = true ↔ code = 4 ∨ ∃ bits, RangeBits code bits ∧ va / 2 ^ bits = base / 2 ^ bits := by
  rcases code with _ | _ | _ | _ | _ | code <;> simp [rangeCovers, RangeBits]

/-- A page of 2 ^ `k` bytes and an aligned block of 2 ^ `n` meet where one holds the other's first byte. -/
theorem page_meets_iff (v k b n : Nat) : (∃ a, a / 2 ^ n = b / 2 ^ n ∧ a / 2 ^ k = v) ↔
    v * 2 ^ k / 2 ^ n = b / 2 ^ n ∨ b / 2 ^ k = v := by
  constructor
  · rintro ⟨a, hblock, rfl⟩
    rcases Nat.le_total k n with h | h
    · obtain ⟨m, rfl⟩ := Nat.exists_eq_add_of_le h
      left
      rw [← hblock, pow_add, ← Nat.div_div_eq_div_mul, ← Nat.div_div_eq_div_mul, Nat.mul_div_cancel _ (by positivity)]
    · obtain ⟨m, rfl⟩ := Nat.exists_eq_add_of_le h
      right
      rw [pow_add, ← Nat.div_div_eq_div_mul, ← Nat.div_div_eq_div_mul, hblock]
  · rintro (h | h)
    · exact ⟨v * 2 ^ k, h, Nat.mul_div_cancel _ (by positivity)⟩
    · exact ⟨b, rfl, h⟩

/-- The entry translates an address of the range (R187). -/
def Covered (ctx code base : Nat) (x : Tlb) : Prop :=
  x.ctx = ctx ∧ (code = 4 ∨ ∃ a bits, RangeBits code bits ∧ a / 2 ^ bits = base / 2 ^ bits ∧ a / 2 ^ x.size = x.vpage)

theorem tlbCovered_iff (ctx code base : Nat) (x : Tlb) : tlbCovered ctx code base x = true ↔ Covered ctx code base x := by
  have hsmall : code < 4 ↔ ∃ bits, RangeBits code bits := by
    simp only [RangeBits, exists_or, exists_and_left, exists_eq, and_true]
    omega
  have hmeets : (∃ a bits, RangeBits code bits ∧ a / 2 ^ bits = base / 2 ^ bits ∧ a / 2 ^ x.size = x.vpage) ↔
      (∃ bits, RangeBits code bits ∧ x.vpage * 2 ^ x.size / 2 ^ bits = base / 2 ^ bits) ∨
        (∃ bits, RangeBits code bits) ∧ base / 2 ^ x.size = x.vpage := by
    rw [exists_comm]
    simp only [exists_and_left, page_meets_iff, and_or_left, exists_or, exists_and_right]
  simp only [tlbCovered, Covered, Bool.and_eq_true, beq_iff_eq, Bool.or_eq_true, rangeCovers_iff, decide_eq_true_eq, hsmall,
    hmeets, or_assoc]

end State

/-- The entries of TLBs that are kept; a TLB left without any is not listed. -/
def keepTlbs (keep : Tlb → Bool) (t : Tbl (List Tlb)) : Tbl (List Tlb) :=
  (t.map fun p => (p.1, p.2.filter keep)).filter fun p => !p.2.isEmpty

theorem get_keepTlbs (keep : Tlb → Bool) {t : Tbl (List Tlb)} (hwf : Tbl.wf [] t = true) (c : Nat) :
    Tbl.get [] (keepTlbs keep t) c = (Tbl.get [] t c).filter keep := by
  induction t with
  | nil => rfl
  | cons q r ih =>
    simp only [Tbl.wf, Bool.and_eq_true] at hwf
    obtain ⟨⟨-, hlt⟩, hr⟩ := hwf
    have ih := ih hr
    by_cases hempty : (q.2.filter keep) = []
    · have hskip : keepTlbs keep (q :: r) = keepTlbs keep r := by simp [keepTlbs, hempty]
      rw [hskip, ih, Tbl.get]
      split
      next hq => rw [hempty, Tbl.get_lt [] r (hq ▸ hlt), List.filter_nil]
      next => rfl
    · have hlist : keepTlbs keep (q :: r) = (q.1, q.2.filter keep) :: keepTlbs keep r := by simp [keepTlbs, hempty]
      rw [hlist, Tbl.get, Tbl.get, ih]
      split <;> rfl

/-- An entry of some TLB. -/
theorem mem_entries_iff {t : Tbl (List Tlb)} (hwf : Tbl.wf [] t = true) (x : Tlb) :
    x ∈ t.flatMap (·.2) ↔ ∃ c, x ∈ Tbl.get [] t c := by
  rw [List.mem_flatMap]
  constructor
  · rintro ⟨p, hp, hx⟩
    exact ⟨p.1, by rwa [Tbl.get_of_mem hwf hp]⟩
  · rintro ⟨c, hx⟩
    exact ⟨_, Tbl.mem_of_get_ne (List.ne_nil_of_mem hx), hx⟩

namespace State

theorem mem_coveredPages_iff {s : State} (h1 : Tbl.wf [] s.l1tlb = true) (h2 : Tbl.wf [] s.l2tlb = true) (ctx code base : Nat)
    (p : Nat × Nat) : p ∈ s.coveredPages ctx code base ↔
      ∃ c x, (x ∈ Tbl.get [] s.l1tlb c ∨ x ∈ Tbl.get [] s.l2tlb c) ∧ Covered ctx code base x ∧ p = (x.vpage, x.size) := by
  simp only [coveredPages, List.mem_map, List.mem_filter, List.flatMap_append, List.mem_append, mem_entries_iff h1,
    mem_entries_iff h2, tlbCovered_iff]
  constructor
  · rintro ⟨x, ⟨⟨c, hx⟩ | ⟨c, hx⟩, hcov⟩, rfl⟩
    · exact ⟨c, x, .inl hx, hcov, rfl⟩
    · exact ⟨c, x, .inr hx, hcov, rfl⟩
  · rintro ⟨c, x, hx, hcov, rfl⟩
    exact ⟨x, ⟨hx.imp (⟨c, ·⟩) (⟨c, ·⟩), hcov⟩, rfl⟩

theorem mem_keepTlbs_iff {t : Tbl (List Tlb)} (hwf : Tbl.wf [] t = true) (ctx code base c : Nat) (x : Tlb) :
    x ∈ Tbl.get [] (keepTlbs (fun x => !tlbCovered ctx code base x) t) c ↔
      x ∈ Tbl.get [] t c ∧ ¬ Covered ctx code base x := by
  rw [get_keepTlbs _ hwf, List.mem_filter, ← tlbCovered_iff, Bool.not_eq_true', Bool.not_eq_true]

/-! ### Invalidations (R187) -/

theorem invalidation_removes {s : State} (v : BitVec 64) (hboot : s.dev.bootDone = true) (h1 : Tbl.wf [] s.l1tlb = true)
    (h2 : Tbl.wf [] s.l2tlb = true) :
    let ctx := v.toNat / 2 ^ 16 % 2 ^ 16
    let base := s.flt.invva.toNat / 2 ^ 12 % 2 ^ 45 * 4096
    ∃ t pages, exec (.invalidation v) s = .next t ∧ t = { s with l1tlb := t.l1tlb, l2tlb := t.l2tlb, flt := t.flt } ∧
      t.flt = { s.flt with invctl := BitVec.ofNat 64 (2 ^ 63 + ctx * 2 ^ 16 + v.toNat % 8),
                           invalidating := s.flt.invalidating ++ [(ctx, v.toNat % 8, base, pages)] } ∧
      (∀ p, p ∈ pages ↔ ∃ c x, (x ∈ Tbl.get [] s.l1tlb c ∨ x ∈ Tbl.get [] s.l2tlb c) ∧
        Covered ctx (v.toNat % 8) base x ∧ p = (x.vpage, x.size)) ∧
      (∀ c x, x ∈ Tbl.get [] t.l1tlb c ↔ x ∈ Tbl.get [] s.l1tlb c ∧ ¬ Covered ctx (v.toNat % 8) base x) ∧
      ∀ c x, x ∈ Tbl.get [] t.l2tlb c ↔ x ∈ Tbl.get [] s.l2tlb c ∧ ¬ Covered ctx (v.toNat % 8) base x := by
  intro ctx base
  have hexec : exec (.invalidation v) s = .next { s with
      l1tlb := keepTlbs (fun x => !tlbCovered ctx (v.toNat % 8) base x) s.l1tlb
      l2tlb := keepTlbs (fun x => !tlbCovered ctx (v.toNat % 8) base x) s.l2tlb
      flt := { s.flt with invctl := BitVec.ofNat 64 (2 ^ 63 + ctx * 2 ^ 16 + v.toNat % 8),
                          invalidating := s.flt.invalidating ++
                            [(ctx, v.toNat % 8, base, s.coveredPages ctx (v.toNat % 8) base)] } } := by
    rw [exec_invalidation, execInvalidation, served, hboot, bitsOf_code]
    rfl
  exact ⟨_, _, hexec, rfl, rfl, mem_coveredPages_iff h1 h2 _ _ _, mem_keepTlbs_iff h1 _ _ _, mem_keepTlbs_iff h2 _ _ _⟩

theorem foldl_noteMoved {α : Type} (f : α → Nat) (s : State) (l : List α) : l.foldl (fun s x => s.noteMoved (f x)) s =
    { s with hist := s.hist ++ if s.cards.any (fun p => p.2.since.isSome) then
        l.map fun x => { pa := 0, bytes := [], moved := some (f x) } else [] } := by
  induction l generalizing s with
  | nil => simp
  | cons x r ih =>
    rw [List.foldl_cons, ih, noteMoved]
    split <;> simp [*]

theorem toNat_and_busy (v : BitVec 64) : (v &&& 0x7FFFFFFFFFFFFFFF).toNat = v.toNat % 2 ^ 63 := by
  rw [BitVec.toNat_and, ← Nat.and_two_pow_sub_one_eq_mod]
  rfl

theorem invalidationComplete_clears (s : State) :
    let left := fun x : Nat × Nat × Nat × List (Nat × Nat) => s.translatedLeft x.1 x.2.1 x.2.2.1 x.2.2.2
    ∃ t, exec .invalidationComplete s = .next t ∧
      t = { s with hist := t.hist,
                   flt := { s.flt with invctl := t.flt.invctl, invalidating := s.flt.invalidating.filter left } } ∧
      (∀ x ∈ s.flt.invalidating, left x = false → (∃ p ∈ s.cards, p.2.since.isSome = true) →
        ∃ h ∈ t.hist, h.moved = some x.1) ∧
      ((∃ x ∈ s.flt.invalidating, left x = true) → t.flt.invctl = s.flt.invctl) ∧
      ((∀ x ∈ s.flt.invalidating, left x = false) → t.flt.invctl.toNat = s.flt.invctl.toNat % 2 ^ 63) := by
  intro left
  have hexec : exec .invalidationComplete s = .next { s with
      hist := s.hist ++ if s.cards.any (fun p => p.2.since.isSome) then
        (s.flt.invalidating.filter fun x => !left x).map fun x => { pa := 0, bytes := [], moved := some x.1 } else []
      flt := { s.flt with
        invalidating := s.flt.invalidating.filter left
        invctl := if (s.flt.invalidating.filter left).isEmpty then s.flt.invctl &&& 0x7FFFFFFFFFFFFFFF else s.flt.invctl } } := by
    rw [exec_invalidationComplete, execInvalidationComplete, foldl_noteMoved fun x : Nat × Nat × Nat × List (Nat × Nat) => x.1]
  refine ⟨_, hexec, rfl, fun x hx hdone hrun => ?_, fun ⟨x, hx, hleft⟩ => ?_, fun hdone => ?_⟩
  · have hrun : (s.cards.any fun p => p.2.since.isSome) = true := List.any_eq_true.mpr hrun
    refine ⟨{ pa := 0, bytes := [], moved := some x.1 }, ?_, rfl⟩
    rw [if_pos hrun]
    exact List.mem_append_right _ (List.mem_map_of_mem (List.mem_filter.mpr ⟨hx, by simp [hdone]⟩))
  · exact if_neg fun hnone => List.ne_nil_of_mem (List.mem_filter.mpr ⟨hx, hleft⟩) (List.isEmpty_iff.mp hnone)
  · have hnone : s.flt.invalidating.filter left = [] := List.filter_eq_nil_iff.mpr fun x hx => by simp [hdone x hx]
    rw [hnone]
    exact toNat_and_busy s.flt.invctl

/-! ### Resolves (R193) -/

theorem canGo_of_unsent {p : Parked} (hlanes : p.lanes ≠ []) (hout : ∀ x ∈ p.lanes, x.out = none) :
    Parked.canGo { p with pages := [] } = true := by
  obtain ⟨x, hx⟩ := List.exists_mem_of_ne_nil _ hlanes
  have hanswered : ∀ y ∈ p.lanes, ParkedLane.answered y = true := fun y hy => by simp [ParkedLane.answered, hout y hy]
  rw [Parked.canGo, Bool.or_eq_true, List.any_eq_true]
  by_cases hdest : x.dest.isSome = true
  · exact .inl ⟨x, hx, by simp [hdest, hanswered x hx]⟩
  · have hall : (p.lanes.all fun y => y.dest.isNone || ParkedLane.answered y) = true :=
      List.all_eq_true.mpr fun y hy => by simp [hanswered y hy]
    have hany : (p.lanes.any fun y => y.dest.isNone) = true := List.any_eq_true.mpr ⟨x, hx, by simpa using hdest⟩
    exact .inr (by rw [hall, hany]; rfl)

theorem resolveSplit_of_parked {s : State} {g k : Nat} {p : Parked} (hphase : (s.blk (g / 32)).phase ≠ .swapped)
    (hp : (s.slotAt g k).parked = some p) (hout : ∀ x ∈ p.lanes, x.out = none) (hgoes : p.fetch = true ∨ p.lanes ≠ []) :
    s.resolveSplit g k = s.setSlot g k
      { s.slotAt g k with wait := .ready, parked := some { p with pages := [], resolved := true } } := by
  have hresolved : (p.fetch || Parked.canGo { p with pages := [] }) = true := by
    rcases hgoes with hfetch | hlanes
    · rw [hfetch, Bool.true_or]
    · rw [canGo_of_unsent hlanes hout, Bool.or_true]
  have hnflt (v : Slot) : (s.setSlot g k v).lowerNflt (bidOf g) = s.setSlot g k v := if_neg hphase
  rw [resolveSplit, updSlot, hp, hnflt]
  simp only [hresolved]

/-- The range of a resolve at the fault unit: the page of FLT_RESVA. -/
def resolveBase (s : State) : Nat := s.flt.resva.toNat / 2 ^ 12 % 2 ^ 45 * 4096

theorem exec_resolve_of_one {s : State} (req : Nat) (v : BitVec 64) {r : FaultRec} (hboot : s.dev.bootDone = true)
    (hposted : s.dev.posted = []) (hopen : s.flt.open_ = [r]) : exec (.resolve req v) s = .next
      (if r.ctx = v.toNat / 2 ^ 16 % 2 ^ 16 ∧ rangeCovers (v.toNat % 8) s.resolveBase r.va = true
        then resolveParty { s with flt := { s.flt with open_ := [] } } r else s) := by
  have hdrain : s.drainPosted = s := by rw [drainPosted, hposted]; rfl
  have hawaits : s.awaitsPosted req = false := by rw [awaitsPosted, hposted]; rfl
  have hexec : exec (.resolve req v) s = .next
      (let hit := [r].filter fun r => r.ctx == v.toNat / 2 ^ 16 % 2 ^ 16 && rangeCovers (v.toNat % 8) s.resolveBase r.va
       hit.foldl resolveParty { s with flt := { s.flt with open_ := [r].filter fun r => !hit.contains r } }) := by
    rw [exec_resolve, execResolve, hdrain, hawaits, served, hboot, hopen, bitsOf_code]
    rfl
  rw [hexec]
  split
  next hhit => simp [hhit]
  next hmiss =>
    have hnone : ([r].filter fun r => r.ctx == v.toNat / 2 ^ 16 % 2 ^ 16 && rangeCovers (v.toNat % 8) s.resolveBase r.va) = [] :=
      List.filter_eq_nil_iff.mpr (by simpa using hmiss)
    have hsame : ({ s with flt := { s.flt with open_ := [r] } } : State) = s := by rw [← hopen]
    rw [hnone]
    exact congrArg Host.Outcome.next hsame

theorem resolve_of_hit {s : State} (req : Nat) (v : BitVec 64) {r : FaultRec} {g k : Nat} {p : Parked}
    (hboot : s.dev.bootDone = true) (hposted : s.dev.posted = []) (hopen : s.flt.open_ = [r]) (hparty : r.party = .split g k)
    (hphase : (s.blk (g / 32)).phase ≠ .swapped) (hp : (s.slotAt g k).parked = some p) (hout : ∀ x ∈ p.lanes, x.out = none)
    (hgoes : p.fetch = true ∨ p.lanes ≠ [])
    (hhit : r.ctx = v.toNat / 2 ^ 16 % 2 ^ 16 ∧ rangeCovers (v.toNat % 8) s.resolveBase r.va = true) :
    ∃ t, exec (.resolve req v) s = .next t ∧ t.flt.open_ = [] ∧ t.mem = s.mem ∧ t.slotAt g k =
      { s.slotAt g k with wait := .ready, parked := some { p with pages := [], resolved := true } } := by
  have hexec := exec_resolve_of_one req v hboot hposted hopen
  rw [if_pos hhit, resolveParty, hparty] at hexec
  refine ⟨_, hexec.trans (congrArg _ (resolveSplit_of_parked hphase hp hout hgoes)), rfl, rfl, ?_⟩
  rw [slotAt_setSlot, if_pos rfl]
  rfl

theorem rangeCovers_iff_or (code base va : Nat) : (code = 4 ∨ (code = 0 ∧ va / 2 ^ 12 = base / 2 ^ 12) ∨
    (code = 1 ∧ va / 2 ^ 16 = base / 2 ^ 16) ∨ (code = 2 ∧ va / 2 ^ 21 = base / 2 ^ 21) ∨
    (code = 3 ∧ va / 2 ^ 30 = base / 2 ^ 30)) ↔ rangeCovers code base va = true := by
  simp [rangeCovers_iff, RangeBits, or_and_right, exists_or, and_assoc]

/-! ### The reduction fault count (R170) -/

/-- A split held at the count goes on. -/
def releaseSlot (p : Nat × Slot) : Nat × Slot :=
  if p.2.parked.any (·.rflog) then (p.1, { p.2 with wait := .ready, parked := none }) else p
/-- The splits of a group of context `c` are released. -/
def releaseGroup (s : State) (c : Nat) (p : Nat × Group) : Nat × Group :=
  if (s.blk (p.1 / 32)).ctx == c then (p.1, { p.2 with slots := p.2.slots.map releaseSlot }) else p

theorem releaseSlot_fst (p : Nat × Slot) : (releaseSlot p).1 = p.1 := by
  unfold releaseSlot
  split <;> rfl
theorem releaseGroup_fst (s : State) (c : Nat) (p : Nat × Group) : (s.releaseGroup c p).1 = p.1 := by
  unfold releaseGroup
  split <;> rfl

theorem slotAt_released {s t : State} {c g k : Nat} {p : Parked} (hgrps : t.grps = s.grps.map (s.releaseGroup c))
    (hctx : (s.blk (g / 32)).ctx = c) (hp : (s.slotAt g k).parked = some p) (hheld : p.rflog = true) :
    t.slotAt g k = { s.slotAt g k with wait := .ready, parked := none } := by
  have hgrp : t.grp g = { s.grp g with slots := (s.grp g).slots.map releaseSlot } := by
    rw [grp, hgrps, Tbl.get_map {} _ (s.releaseGroup_fst c) _ _ (by simp [releaseGroup, hctx]), releaseGroup]
    simp [hctx, grp]
  rw [slotAt, hgrp, Tbl.get_map {} _ releaseSlot_fst _ _ rfl, releaseSlot, ← slotAt, hp]
  simp [hheld]

/-- The count of a context is cleared; a context without a record has none to clear. -/
def clearCount (s : State) (c : Nat) : State :=
  if Tbl.has s.ctxs c then s.updCtx c fun k => { k with rfcount := 0 } else s

theorem clearCount_eq (s : State) (c : Nat) : s.clearCount c = { s with ctxs := (s.clearCount c).ctxs } := by
  unfold clearCount
  split <;> rfl

theorem ctx_clearCount (s : State) (c d : Nat) : (s.clearCount c).ctx d =
    if d = c ∧ Tbl.has s.ctxs c = true then { s.ctx d with rfcount := 0 } else s.ctx d := by
  unfold clearCount
  split
  next h =>
    rw [updCtx, ctx_setCtx]
    split
    next hd => rw [if_pos ⟨hd, h⟩, hd]
    next hd => rw [if_neg fun ⟨hd', _⟩ => hd hd']
  next h => rw [if_neg fun ⟨_, h'⟩ => h h']

theorem fltRfcountClear_releases {s : State} (hboot : s.dev.bootDone = true) :
    ∃ t, exec (.fltRfcountClear 0) s = .next t ∧ t.mem = s.mem ∧ t.blks = s.blks ∧
      let c := s.flt.rfsel.toNat % 2 ^ 16
      (t.ctx c).rfcount = (if Tbl.has s.ctxs c then 0 else (s.ctx c).rfcount) ∧ (∀ d, d ≠ c → t.ctx d = s.ctx d) ∧
      ∀ g k p, (s.blk (g / 32)).ctx = c → (s.slotAt g k).parked = some p → p.rflog = true →
        t.slotAt g k = { s.slotAt g k with wait := .ready, parked := none } := by
  have hbits : bitsOf s.flt.rfsel.toNat 0 16 = s.flt.rfsel.toNat % 2 ^ 16 := by simp [bitsOf]
  generalize s.flt.rfsel.toNat % 2 ^ 16 = c at hbits
  have hexec : exec (.fltRfcountClear 0) s = .next { s with
      ctxs := (s.clearCount c).ctxs, grps := s.grps.map (s.releaseGroup c) } := by
    rw [exec_fltRfcountClear, execFltRfcountClear, served, hboot, hbits]
    change Host.Outcome.next { s.clearCount c with grps := (s.clearCount c).grps.map ((s.clearCount c).releaseGroup c) } = _
    rw [clearCount_eq]
    rfl
  refine ⟨_, hexec, rfl, rfl, ?_, fun d hd => ?_, fun g k p hctx hp hheld => slotAt_released rfl hctx hp hheld⟩
  · refine (congrArg Ctx.rfcount (s.ctx_clearCount c c)).trans ?_
    split <;> simp_all
  · exact (s.ctx_clearCount c d).trans (if_neg fun ⟨hd', _⟩ => hd hd')

/-! ### Page walks (R183, R185) -/

theorem mem_insertTlb (s : State) (key cap : Nat) (l : List Tlb) (x : Tlb) : x ∈ s.insertTlb key cap l x := by
  unfold insertTlb
  split
  next h => simpa using h
  next => split <;> exact List.mem_append_right _ (List.mem_singleton_self x)

/-- A translation is cached in the L1 TLB of a core and the L2 TLB of its cluster, and nothing else changes. -/
theorem cacheTlb_caches (s : State) (core : Nat) (x : Tlb) : ∃ l1 l2 f,
    s.cacheTlb core x = { s with l1tlb := l1, l2tlb := l2, free := f } ∧
      x ∈ Tbl.get [] l1 core ∧ x ∈ Tbl.get [] l2 (core / 4) := by
  obtain ⟨l1, f, hl1, hx1⟩ : ∃ l1 f, s.cacheL1Tlb core x = { s with l1tlb := l1, free := f } ∧ x ∈ Tbl.get [] l1 core := by
    have hmem : x ∈ Tbl.get [] (Tbl.upd [] s.l1tlb core fun l => s.insertTlb 17 128 l x) core := by
      rw [Tbl.upd, Tbl.get_set_self]
      exact mem_insertTlb ..
    unfold cacheL1Tlb
    split <;> exact ⟨_, _, rfl, hmem⟩
  have hmem : x ∈ Tbl.get [] (Tbl.upd [] s.l2tlb (core / 4) fun l => (s.cacheL1Tlb core x).insertTlb 18 4096 l x) (core / 4) := by
    rw [Tbl.upd, Tbl.get_set_self]
    exact mem_insertTlb ..
  unfold cacheTlb
  rw [hl1] at hmem ⊢
  dsimp only
  split <;> exact ⟨l1, _, _, rfl, hx1, hmem⟩

theorem pageWalk_caches {s : State} (core : Nat) {ctx va : Nat} {x : Tlb} (hwalk : s.walk ctx va = .ok x)
    (hfw : s.fwRefused ctx x va = false) :
    ∃ t, exec (.pageWalk core ctx va) s = .next t ∧ t = { s with l1tlb := t.l1tlb, l2tlb := t.l2tlb, free := t.free } ∧
      x ∈ Tbl.get [] t.l1tlb core ∧ x ∈ Tbl.get [] t.l2tlb (core / 4) := by
  obtain ⟨f, hf⟩ : ∃ f, (if x.size = 16 then s.tick else s) = { s with free := f } := by
    split
    · exact ⟨_, rfl⟩
    · exact ⟨s.free, rfl⟩
  have hexec : exec (.pageWalk core ctx va) s = .next (({ s with free := f } : State).cacheTlb core x) := by
    rw [exec_pageWalk, execPageWalk, hwalk]
    dsimp only
    rw [hf]
    exact congrArg _ (if_neg (Bool.eq_false_iff.mp hfw))
  obtain ⟨l1, l2, f', hcached, hx1, hx2⟩ := ({ s with free := f } : State).cacheTlb_caches core x
  exact ⟨_, hexec.trans (congrArg _ hcached), rfl, hx1, hx2⟩

theorem pageWalk_of_error {s : State} (core : Nat) {ctx va c l a : Nat} (hwalk : s.walk ctx va = .error (c, l, a)) :
    ∃ f, exec (.pageWalk core ctx va) s = .next (({ s with free := f } : State).walkFailed ctx c a) := by
  rw [exec_pageWalk, execPageWalk, hwalk]
  dsimp only
  split
  · exact ⟨_, rfl⟩
  · exact ⟨s.free, rfl⟩

/-! ### Writes at the home that log nothing (R112) -/

/-- Nothing has been logged since `s` and no sector has become bad, and the fault unit is as it was. -/
def Unlogged (s t : State) : Prop :=
  t.flt = s.flt ∧ t.dev = s.dev ∧ ∀ q, Tbl.get false t.poison q = true → Tbl.get false s.poison q = true

theorem Unlogged.refl (s : State) : s.Unlogged s := ⟨rfl, rfl, fun _ h => h⟩

theorem Unlogged.trans {s t u : State} (h : s.Unlogged t) (h' : t.Unlogged u) : s.Unlogged u := by
  obtain ⟨hflt, hdev, hpoison⟩ := h
  obtain ⟨hflt', hdev', hpoison'⟩ := h'
  exact ⟨hflt'.trans hflt, hdev'.trans hdev, fun q hq => hpoison q (hpoison' q hq)⟩

/-- No sector of the line holds an uncorrectable error. -/
def Sound (s : State) (line : Nat) : Prop := ∀ q, q / 4 = line → s.sectorBad q = false

theorem Sound.of_unlogged {s t : State} {line : Nat} (h : s.Sound line) (hu : s.Unlogged t) : t.Sound line := by
  obtain ⟨-, hdev, hpoison⟩ := hu
  intro q hq
  have hprot : t.protEnd = s.protEnd := by simp only [protEnd, channels, hdev]
  have hs := h q hq
  simp only [sectorBad, Bool.and_eq_false_iff, decide_eq_false_iff_not, hprot] at hs ⊢
  exact hs.imp_left fun hgood => Bool.eq_false_iff.mpr fun hbad => by simp [hpoison q hbad] at hgood

theorem sound_of_not_bad {s : State} {line : Nat} (h : s.bad (line * 128) 128 = false) : s.Sound line := by
  intro q hq
  rw [bad, List.any_eq_false] at h
  refine Bool.eq_false_iff.mpr (h q (List.mem_map.mpr ⟨q % 4, List.mem_range.mpr ?_, ?_⟩)) <;> omega

theorem logSectors_of_sound {s : State} {line : Nat} {qs : List Nat} (h : s.Sound line) (hqs : ∀ q ∈ qs, q / 4 = line) :
    s.logSectors qs = s := by
  rw [logSectors, List.filter_eq_nil_iff.mpr fun q hq => by simp [h q (hqs q hq)]]
  rfl

theorem get_of_get_erase {t : Tbl Bool} {k q : Nat} (h : Tbl.get false (Tbl.erase t k) q = true) : Tbl.get false t q = true := by
  by_cases hq : q = k
  · simp [hq, Tbl.get_erase_self] at h
  · rwa [Tbl.get_erase_ne _ _ hq] at h

theorem unlogged_cleanLine {s : State} {line : Nat} (h : s.Sound line) : s.Unlogged (s.cleanLine line) := by
  unfold cleanLine
  split
  next =>
    have hclean (mem lines) : s.Unlogged { s with
        mem, lines, poison := (s.healedSectors line).foldl (fun t q => Tbl.erase t (4 * line + q)) s.poison } := by
      refine ⟨rfl, rfl, fun q hq => ?_⟩
      exact List.foldlRecOn (motive := fun t => Tbl.get false t q = true → Tbl.get false s.poison q = true) _ _ id
        (fun t ih k _ hk => ih (get_of_get_erase hk)) hq
    dsimp only
    rw [logSectors_of_sound (h.of_unlogged (hclean ..)) fun q hq => ?_]
    · exact hclean ..
    · obtain ⟨i, hi, rfl⟩ := List.mem_map.mp hq
      have hlt := List.mem_range.mp (List.mem_of_mem_filter hi)
      omega
  next => exact .refl s

theorem unlogged_dropCopy (s : State) (core line : Nat) : s.Unlogged (s.dropCopy core line) := by
  unfold dropCopy
  rw [wakeWatch_eq]
  exact .refl s

theorem unlogged_recalled {s : State} {line : Nat} (h : s.Sound line) : s.Unlogged (s.recalled line) :=
  dropCopies_keeps (P := s.Unlogged) (fun t c ht => ht.trans (t.unlogged_dropCopy c line)) (unlogged_cleanLine h) none
    ((s.cleanLine line).holders line)

theorem unlogged_clearBad (s : State) (pa n : Nat) : s.Unlogged (s.clearBad pa n) := by
  refine ⟨rfl, rfl, fun q hq => ?_⟩
  refine List.foldlRecOn (motive := fun t => Tbl.get false t q = true → Tbl.get false s.poison q = true) _ _ id
    (fun t ih k _ hk => ih ?_) hq
  split at hk
  · exact get_of_get_erase hk
  · exact hk

/-- A write of one sector whose line holds no error logs nothing. -/
theorem unlogged_homeWrite {s : State} {pa : Nat} {bs : List Byte} (hlen : bs.length = 32) (hpa : pa % 32 = 0)
    (h : s.Sound (lineOf pa)) : s.Unlogged (s.homeWrite pa bs) := by
  have hlines : writtenLines pa bs.length = [lineOf pa] := by
    have hone : lineOf (pa + bs.length - 1) + 1 - lineOf pa = 1 := by unfold lineOf; omega
    rw [writtenLines, hone]
    rfl
  have hnote : s.Unlogged (s.noteWrite pa bs.length) := by
    rw [noteWrite_eq]
    exact .refl s
  have hrecall : s.Unlogged ((writtenLines pa bs.length).foldl recalled (s.noteWrite pa bs.length)) := by
    rw [hlines]
    exact hnote.trans (unlogged_recalled (h.of_unlogged hnote))
  have hput := hrecall.trans (unlogged_clearBad (State.clearTags _ pa bs.length) pa bs.length)
  obtain ⟨u, hlogs, hu⟩ : ∃ u : State, s.homeWrite pa bs = u.logSectors (sectorsOf pa bs.length) ∧ s.Unlogged u := by
    unfold homeWrite
    rw [if_neg (by omega)]
    exact ⟨_, rfl, hput⟩
  rw [hlogs, logSectors_of_sound (h.of_unlogged hu)]
  · exact hu
  · intro q hq
    obtain ⟨i, hi, rfl⟩ := List.mem_map.mp hq
    have hlt := List.mem_range.mp hi
    unfold lineOf
    omega

theorem engPut_of_quiet {s : State} {pa : Nat} {bs : List Byte} (hlen : bs.length = 32) (hpa : pa % 32 = 0)
    (hfar : s.farQ = []) (hctr : (s.dir (lineOf pa)).ctr = false) : s.engPut 0 pa bs = s.homeWrite pa bs := by
  have hlines : linesOf pa bs.length = [lineOf pa] := by
    have hone : lineOf (pa + bs.length - 1) + 1 - lineOf pa = 1 := by unfold lineOf; omega
    rw [linesOf, hone]
    rfl
  have hsettle : s.settleHome 0 pa bs.length = s := by
    rw [settleHome, hlines, hlen]
    simp [applyAllFar, farOf, hfar, Tbl.get]
  have hne : bs.isEmpty = false := by simp [← List.length_eq_zero_iff, hlen]
  simp [engPut, hne, hsettle, hlines, hctr]

/-! ### The ring (R191, R192) -/

theorem length_toLe (n v : Nat) : (toLe n v).length = n := by
  induction n generalizing v with
  | zero => rfl
  | succ n ih => rw [toLe, List.length_cons, ih]

theorem length_recordBytes (r : FaultRec) : (recordBytes r).length = 32 := by
  simp only [recordBytes, List.length_append, length_toLe]

/-- Target and address of the record that is written next. -/
def ringTarget (s : State) : Nat := if s.flt.ringbase.getLsbD 63 then 1 else 0
def ringAt (s : State) : Nat := s.flt.ringbase.toNat / 2 ^ 12 % 2 ^ 45 * 4096 + 32 * (s.flt.tail.toNat % 2 ^ s.fltBits)

/-- The record is written and FLT_TAIL moves past it; a ring that was empty posts its vector. -/
def ringed (s : State) (r : FaultRec) (rest : List FaultRec) : State :=
  let n := 2 ^ s.fltBits
  let s1 := s.engPut s.ringTarget s.ringAt (recordBytes r)
  let s2 : State := { s1 with flt := { s1.flt with held := rest, tail := BitVec.ofNat 64 ((s.flt.tail.toNat % n + 1) % n) } }
  if s.flt.tail.toNat % n = s.flt.head.toNat % n then s2.postMsi 0 else s2

theorem exec_faultRecord_of_room {s : State} {r : FaultRec} {rest : List FaultRec} (hheld : s.flt.held = r :: rest)
    (hroom : (s.flt.tail.toNat % 2 ^ s.fltBits + 1) % 2 ^ s.fltBits ≠ s.flt.head.toNat % 2 ^ s.fltBits)
    (hfree : s.blocked s.ringTarget s.ringAt 32 = false) : exec .faultRecord s = .next (s.ringed r rest) := by
  rw [exec_faultRecord, execFaultRecord, hheld]
  refine congrArg Host.Outcome.next (if_neg ?_)
  rw [Bool.or_eq_true, decide_eq_true_eq]
  exact not_or.mpr ⟨hroom, Bool.eq_false_iff.mp hfree⟩

theorem exec_faultRecord_of_full {s : State}
    (hfull : (s.flt.tail.toNat % 2 ^ s.fltBits + 1) % 2 ^ s.fltBits = s.flt.head.toNat % 2 ^ s.fltBits) :
    exec .faultRecord s = .next s := by
  rw [exec_faultRecord, execFaultRecord]
  cases s.flt.held with
  | nil => rfl
  | cons r rest => exact congrArg Host.Outcome.next (if_pos (by rw [Bool.or_eq_true, decide_eq_true_eq]; exact .inl hfull))

theorem fltBits_le (s : State) : s.fltBits ≤ 16 := by
  unfold fltBits
  dsimp only
  split
  next h => simp at h; omega
  next => omega

/-- What the fault unit is left with, once the record's bytes are written. -/
theorem ringed_keeps {s t : State} {r : FaultRec} (hput : s.engPut s.ringTarget s.ringAt (recordBytes r) = t)
    (hflt : t.flt = s.flt) (hmsi : t.dev.msi = s.dev.msi) (rest : List FaultRec) :
    (s.ringed r rest).flt.held = rest ∧
      (s.ringed r rest).flt.tail.toNat = (s.flt.tail.toNat % 2 ^ s.fltBits + 1) % 2 ^ s.fltBits ∧
      (s.ringed r rest).flt.open_ = s.flt.open_ ∧
      (s.ringed r rest).dev.msi =
        (if s.flt.tail.toNat % 2 ^ s.fltBits = s.flt.head.toNat % 2 ^ s.fltBits then s.dev.msi ++ [0] else s.dev.msi) ∧
      (s.ringed r rest).mem = t.mem ∧ (s.ringed r rest).hostMem = t.hostMem ∧ ∀ a, (s.ringed r rest).peek a = t.peek a := by
  have htail : (BitVec.ofNat 64 ((s.flt.tail.toNat % 2 ^ s.fltBits + 1) % 2 ^ s.fltBits)).toNat =
      (s.flt.tail.toNat % 2 ^ s.fltBits + 1) % 2 ^ s.fltBits := by
    have hmod := Nat.mod_lt (s.flt.tail.toNat % 2 ^ s.fltBits + 1) (Nat.two_pow_pos s.fltBits)
    have hpow : 2 ^ s.fltBits ≤ 2 ^ 16 := Nat.pow_le_pow_right (by omega) s.fltBits_le
    rw [BitVec.toNat_ofNat, Nat.mod_eq_of_lt (by omega)]
  have hopen : t.flt.open_ = s.flt.open_ := congrArg FaultUnit.open_ hflt
  unfold ringed
  rw [hput]
  dsimp only
  split
  · exact ⟨rfl, htail, hopen, congrArg (· ++ [0]) hmsi, rfl, rfl, fun a => peek_congr rfl rfl a⟩
  · exact ⟨rfl, htail, hopen, hmsi, rfl, rfl, fun a => peek_congr rfl rfl a⟩

/-- The bytes go to host memory, or to device memory with nothing logged. -/
theorem engPut_ring {s : State} {bs : List Byte} (hlen : bs.length = 32) (hfar : s.farQ = [])
    (hdevice : s.flt.ringbase.getLsbD 63 = false →
      (s.dir (lineOf s.ringAt)).ctr = false ∧ s.bad (lineOf s.ringAt * 128) 128 = false) :
    let t := s.engPut s.ringTarget s.ringAt bs
    t.flt = s.flt ∧ t.dev.msi = s.dev.msi ∧
      (s.flt.ringbase.getLsbD 63 = true → t.mem = s.mem ∧ ∀ i, i < 32 → Tbl.get 0 t.hostMem (s.ringAt + i) = bs.getD i 0) ∧
      (s.flt.ringbase.getLsbD 63 = false → (∀ i, i < 32 → t.peek (s.ringAt + i) = bs.getD i 0) ∧
        ∀ b, b < s.ringAt ∨ s.ringAt + 32 ≤ b → t.peek b = s.peek b) := by
  intro t
  cases hhost : s.flt.ringbase.getLsbD 63 with
  | true =>
    have ht : t = { s with hostMem := putBytes s.hostMem s.ringAt bs } := by
      have hne : bs.isEmpty = false := by simp [← List.length_eq_zero_iff, hlen]
      have htgt : s.ringTarget = 1 := if_pos hhost
      simp [t, engPut, hne, htgt, tgtWrite]
    refine ⟨by rw [ht], by rw [ht], fun _ => ⟨by rw [ht], fun i hi => ?_⟩, fun h => absurd h (by decide)⟩
    rw [ht]
    refine (get_putBytes ..).trans ?_
    rw [hlen, if_pos (by omega), Nat.add_sub_cancel_left]
  | false =>
    obtain ⟨hctr, hgood⟩ := hdevice hhost
    have haligned : s.ringAt % 32 = 0 := by unfold ringAt; omega
    have ht : t = s.homeWrite s.ringAt bs := by
      rw [← engPut_of_quiet hlen haligned hfar hctr]
      exact congrArg (s.engPut · s.ringAt bs) (if_neg (Bool.eq_false_iff.mp hhost))
    obtain ⟨hflt, hdev, -⟩ := unlogged_homeWrite hlen haligned (sound_of_not_bad hgood)
    refine ⟨by rw [ht, hflt], by rw [ht, hdev], fun h => absurd h (by decide), fun _ => ⟨fun i hi => ?_, fun b hb => ?_⟩⟩
    · rw [ht, peek_homeWrite, hlen, if_pos (by omega), Nat.add_sub_cancel_left]
    · rw [ht, peek_homeWrite, hlen, if_neg (by omega)]

theorem faultRecord_written {s : State} {r : FaultRec} {rest : List FaultRec} (hheld : s.flt.held = r :: rest) (hfar : s.farQ = [])
    (hroom : (s.flt.tail.toNat % 2 ^ s.fltBits + 1) % 2 ^ s.fltBits ≠ s.flt.head.toNat % 2 ^ s.fltBits)
    (hdevice : s.flt.ringbase.getLsbD 63 = false → s.lineHeld (lineOf s.ringAt) = false ∧
      (s.dir (lineOf s.ringAt)).ctr = false ∧ s.bad (lineOf s.ringAt * 128) 128 = false) :
    ∃ t, exec .faultRecord s = .next t ∧ t.flt.held = rest ∧
      t.flt.tail.toNat = (s.flt.tail.toNat % 2 ^ s.fltBits + 1) % 2 ^ s.fltBits ∧ t.flt.open_ = s.flt.open_ ∧
      t.dev.msi =
        (if s.flt.tail.toNat % 2 ^ s.fltBits = s.flt.head.toNat % 2 ^ s.fltBits then s.dev.msi ++ [0] else s.dev.msi) ∧
      (s.flt.ringbase.getLsbD 63 = true →
        t.mem = s.mem ∧ ∀ i, i < 32 → Tbl.get 0 t.hostMem (s.ringAt + i) = (recordBytes r).getD i 0) ∧
      (s.flt.ringbase.getLsbD 63 = false → (∀ i, i < 32 → t.peek (s.ringAt + i) = (recordBytes r).getD i 0) ∧
        ∀ b, b < s.ringAt ∨ s.ringAt + 32 ≤ b → t.peek b = s.peek b) := by
  have hfree : s.blocked s.ringTarget s.ringAt 32 = false := by
    cases hhost : s.flt.ringbase.getLsbD 63 with
    | true => simp [blocked, show s.ringTarget = 1 from if_pos hhost]
    | false =>
      obtain ⟨hheld, -⟩ := hdevice hhost
      have hone : lineOf (s.ringAt + 32 - 1) + 1 - lineOf s.ringAt = 1 := by unfold lineOf ringAt; omega
      rw [blocked, hone]
      simp [hheld]
  obtain ⟨hflt, hmsi, hhost, hdev⟩ := engPut_ring (length_recordBytes r) hfar fun h => (hdevice h).2
  obtain ⟨hrest, htail, hopen, hvector, hmem, hhostMem, hpeek⟩ := ringed_keeps rfl hflt hmsi rest
  refine ⟨_, exec_faultRecord_of_room hheld hroom hfree, hrest, htail, hopen, hvector, fun h => ?_, fun h => ?_⟩
  · rw [hmem, hhostMem]
    exact hhost h
  · simp only [hpeek]
    exact hdev h

end State

open State in
/-- Settles O45: records go to the ring while it has room; resolves, invalidations and the clearing of the reduction fault count
act on the splits and TLB entries they cover; walks cache what they find. -/
theorem faultUnit : Obligations.FaultUnit := by
  intro s v covered
  refine ⟨fun r rest hheld hfar => ⟨exec_faultRecord_of_full, faultRecord_written hheld hfar⟩, fun hheld => ?_, fun hboot => ?_,
    fun hboot h1 h2 => invalidation_removes v hboot h1 h2, invalidationComplete_clears s,
    fun req r g k p hboot hposted hopen hparty hphase hp hout hgoes => ⟨fun ⟨hctx, hrange⟩ => ?_, fun hmiss => ?_⟩,
    fltRfcountClear_releases, fun hv => ?_, fun core _ _ _ => pageWalk_caches core, fun core ctx va c l a hwalk => ?_⟩
  · rw [exec_faultRecord, execFaultRecord, hheld]
  · rw [exec_fltHeadWrite, execFltHeadWrite, served, hboot]
    rfl
  · exact resolve_of_hit req v hboot hposted hopen hparty hphase hp hout hgoes ⟨hctx, (rangeCovers_iff_or ..).mp hrange⟩
  · rw [exec_resolve_of_one req v hboot hposted hopen]
    exact congrArg _ (if_neg fun ⟨hctx, hrange⟩ => hmiss ⟨hctx, (rangeCovers_iff_or ..).mpr hrange⟩)
  · rw [exec_fltRfcountClear, execFltRfcountClear]
    exact congrArg _ (if_pos (by rw [Bool.or_eq_true, bne_iff_ne]; exact .inr hv))
  · obtain ⟨f, hexec⟩ := pageWalk_of_error core hwalk
    refine ⟨fun hc => ⟨f, hexec.trans (congrArg _ (if_pos hc))⟩, fun hc hrefused => ⟨f, hexec.trans (congrArg _ ?_)⟩⟩
    exact (if_neg hc).trans (if_neg (by rw [Bool.and_eq_true]; exact fun ⟨_, h⟩ => Bool.eq_false_iff.mp hrefused h))

end Sys2Proof.Machine
end

section
/-! SUPPORT. Matrix memories after the words of groups and of the sequencer that write them (10 R205, R207, R216, 18 R338, 20
R412). Settles O34. -/

namespace Sys2Proof.Machine

namespace Tbl
variable {α : Type}

theorem erase_insert_self (k : Nat) (v : α) (t : Tbl α) : erase (insert k v t) k = erase t k := by
  induction t with
  | nil => simp [insert, erase]
  | cons p r ih =>
    unfold erase at ih ⊢
    unfold insert
    split
    · simp
    · rw [List.filter_cons, List.filter_cons, ih]

theorem erase_erase_self (t : Tbl α) (k : Nat) : erase (erase t k) k = erase t k := by
  simp [erase, List.filter_filter]

theorem get_filter_of_neg {d : α} {n : Nat} {p : Nat × α → Bool} (t : Tbl α) (h : ∀ v, p (n, v) = false) :
    get d (t.filter p) n = d := by
  induction t with
  | nil => rfl
  | cons q r ih =>
    obtain ⟨k, v⟩ := q
    rw [List.filter_cons]
    split
    next hp =>
      have hk : k ≠ n := by rintro rfl; simp [h v] at hp
      rw [get, if_neg hk, ih]
    next => exact ih

/-- Of two writes at one key the second stands. -/
@[simp] theorem set_set [DecidableEq α] (d : α) (t : Tbl α) (k : Nat) (v w : α) : set d (set d t k v) k w = set d t k w := by
  have herase : erase (set d t k v) k = erase t k := by
    unfold set
    split
    · exact erase_erase_self t k
    · rw [erase_insert_self, erase_erase_self]
  rw [set, herase, set]

/-! ### Folds of updates -/

variable [DecidableEq α] {ι : Type} {d : α} {key : ι → Nat} {f : ι → α → α} {n : Nat}

theorem get_upd (d : α) (t : Tbl α) (k n : Nat) (f : α → α) :
    get d (upd d t k f) n = if n = k then f (get d t n) else get d t n := by
  rw [upd, get_set]
  split
  · next h => rw [h]
  · rfl

theorem get_foldl_upd_of_ne {ks : List ι} (h : ∀ p ∈ ks, key p ≠ n) (t : Tbl α) :
    get d (ks.foldl (fun t p => upd d t (key p) (f p)) t) n = get d t n := by
  induction ks generalizing t with
  | nil => rfl
  | cons p r ih =>
    rw [List.foldl_cons, ih (fun q hq => h q (List.mem_cons_of_mem _ hq)), get_upd, if_neg (h p List.mem_cons_self).symm]

/-- Updates at rising keys: each key has the one update made there. -/
theorem get_foldl_upd_of_mem {ks : List ι} (hup : ks.Pairwise (key · < key ·)) {p : ι} (hp : p ∈ ks) (t : Tbl α) :
    get d (ks.foldl (fun t p => upd d t (key p) (f p)) t) (key p) = f p (get d t (key p)) := by
  induction ks generalizing t with
  | nil => cases hp
  | cons q r ih =>
    obtain ⟨hlt, hup⟩ := List.pairwise_cons.mp hup
    rw [List.foldl_cons]
    rcases List.mem_cons.mp hp with rfl | hp
    · rw [get_foldl_upd_of_ne (fun x hx => (hlt x hx).ne'), get_upd, if_pos rfl]
    · rw [ih hup hp, get_upd, if_neg (hlt p hp).ne']

/-- One update made at every key of a list, where making it again changes nothing. -/
theorem get_foldl_upd_of_idem {g : α → α} (hg : ∀ x, g (g x) = g x) (ks : List Nat) (t : Tbl α) (n : Nat) :
    get d (ks.foldl (fun t k => upd d t k g) t) n = if n ∈ ks then g (get d t n) else get d t n := by
  induction ks generalizing t with
  | nil => rfl
  | cons k r ih =>
    rw [List.foldl_cons, ih, get_upd]
    by_cases hk : n = k <;> simp [hk, hg]

end Tbl

namespace State

/-! ### Blocks and matrix memories after a write -/

@[simp] theorem setBlk_setBlk (s : State) (b : Nat) (v w : Block) : (s.setBlk b v).setBlk b w = s.setBlk b w := by
  simp [setBlk]

section
variable (s : State) (b c : Nat) (f g : Matrix → Matrix)

theorem blk_updMx : (s.updMx b f).blk c = if c = b then { s.blk b with mx := f (s.mx b) } else s.blk c := blk_setBlk ..
@[simp] theorem mx_updMx_self : (s.updMx b f).mx b = f (s.mx b) := by simp [mx, updMx, updBlk]
@[simp] theorem scratch_updMx : ((s.updMx b f).blk c).scratch = (s.blk c).scratch := by
  rw [blk_updMx]
  split
  · next h => rw [h]
  · rfl
@[simp] theorem bid_updMx : (s.updMx b f).bid = s.bid := rfl
@[simp] theorem updMx_updMx : (s.updMx b f).updMx b g = s.updMx b fun m => g (f m) := by simp [updMx, updBlk]

end

theorem hdr_setHdrs {f : SlotHdr → SlotHdr} (hf : ∀ h, f (f h) = f h) (s : State) (bid : Nat) (ks : List Nat) (k : Nat) :
    (s.setHdrs bid ks f).hdr bid k = if k ∈ ks then f (s.hdr bid k) else s.hdr bid k := by
  rw [hdr, setHdrs, mx_updMx_self]
  exact Tbl.get_foldl_upd_of_idem hf ks _ k

section
variable (s : State) (bid : Nat) {ks : List (Nat × Nat)} (f : Nat → Word → Word)

theorem accAt_updAcc_of_ne {k : Nat} (h : ∀ p ∈ ks, p.2 ≠ k) : (s.updAcc bid ks f).accAt bid k = s.accAt bid k := by
  rw [accAt, updAcc, mx_updMx_self]
  exact Tbl.get_foldl_upd_of_ne (key := Prod.snd) h _

theorem accAt_updAcc_of_mem (hup : ks.Pairwise (·.2 < ·.2)) {p : Nat × Nat} (hp : p ∈ ks) :
    (s.updAcc bid ks f).accAt bid p.2 = f p.1 (s.accAt bid p.2) := by
  rw [accAt, updAcc, mx_updMx_self]
  exact Tbl.get_foldl_upd_of_mem (key := Prod.snd) (f := fun p => f p.1) hup hp _

end

/-! ### OCLAIM and OREL (R207, R412) -/

theorem mem_slotRun {n m k : Nat} : k ∈ slotRun n m ↔ ∃ i, i < m ∧ k = (n + i) % 32 := by
  simp only [slotRun, List.mem_map, List.mem_range, eq_comm (a := k)]

theorem mem_slotRun_succ {n m k : Nat} : k ∈ slotRun n (m + 1) ↔ ∃ i, i ≤ m ∧ k = (n + i) % 32 := by
  simp only [mem_slotRun, Nat.lt_succ_iff]

theorem claim_of_all {s : State} {slot cnt : Nat} {want : SlotState}
    (h : ∀ k ∈ slotRun slot (cnt + 1), (s.hdr s.bid k).st = want) (f : State → List Nat → State) :
    s.claim slot cnt want f = f s (slotRun slot (cnt + 1)) := by
  have hnone : (slotRun slot (cnt + 1)).find? (fun k => (s.hdr s.bid k).st != want) = none := by
    rw [List.find?_eq_none]
    intro k hk
    simp [h k hk]
  simp only [claim, hnone]

/-- The first slot in another state is the one that the trap names. -/
theorem claim_of_first {s : State} {slot cnt i : Nat} {want : SlotState} (hi : i ≤ cnt)
    (hother : (s.hdr s.bid ((slot + i) % 32)).st ≠ want) (hfirst : ∀ j, j < i → (s.hdr s.bid ((slot + j) % 32)).st = want)
    (f : State → List Nat → State) :
    s.claim slot cnt want f = s.takeTrap { code := 13, sub := 1, info := (slot + i) % 32 } := by
  have hfound : (slotRun slot (cnt + 1)).find? (fun k => (s.hdr s.bid k).st != want) = some ((slot + i) % 32) := by
    have hrange : (List.range (cnt + 1)).find? ((fun k => (s.hdr s.bid k).st != want) ∘ fun i => (slot + i) % 32) = some i := by
      rw [List.find?_range_eq_some]
      exact ⟨by simpa using hother, List.mem_range.mpr (by omega), fun j hj => by simp [hfirst j hj]⟩
    rw [slotRun, List.find?_map, hrange]
    rfl
  simp only [claim, hfound]

/-- The header of a slot once a copy has filled it, or nothing has (R412). -/
def relHdr (h : SlotHdr) : SlotHdr := if h.stamp then { h with st := .filled } else { st := .filled }

theorem relHdr_relHdr (h : SlotHdr) : relHdr (relHdr h) = relHdr h := by
  cases hstamp : h.stamp <;> simp [relHdr, hstamp]

theorem oclaim_of_empty {s : State} {slot cnt : Nat} (hacts : s.Acts (.oclaim slot cnt))
    (hempty : ∀ k ∈ slotRun slot (cnt + 1), (s.hdr s.bid k).st = .empty) : exec (.oclaim slot cnt) s =
      .next (s.setHdrs s.bid (slotRun slot (cnt + 1)) fun h => { h with st := .claimed, stamp := false }) := by
  rw [exec_oclaim, execOclaim, issuedC_next _ hacts, claim_of_all hempty]

/-- The slots of a list that no copy has named since their claim. -/
def unnamed (s : State) (ks : List Nat) : List Nat := ks.filter fun k => !(s.hdr s.bid k).stamp

theorem orel_of_claimed {s : State} {slot cnt : Nat} (hacts : s.Acts (.orel slot cnt))
    (hclaimed : ∀ k ∈ slotRun slot (cnt + 1), (s.hdr s.bid k).st = .claimed) : exec (.orel slot cnt) s =
      .next ((s.zeroSlots s.bid (s.unnamed (slotRun slot (cnt + 1)))).setHdrs s.bid (slotRun slot (cnt + 1)) relHdr) := by
  rw [exec_orel, execOrel, issuedC_next _ hacts, claim_of_all hclaimed]
  rfl

theorem opmem_zeroSlots {s : State} {ks : List Nat} {k b : Nat} (hk : k ∈ ks) (hb : b / 8192 = k) (ls : List Nat)
    (f : SlotHdr → SlotHdr) : Tbl.get 0 (((s.zeroSlots s.bid ks).setHdrs s.bid ls f).mx s.bid).opmem b = 0 := by
  rw [zeroSlots, setHdrs, updMx_updMx, mx_updMx_self]
  exact Tbl.get_filter_of_neg _ fun v => by simp [hb, hk]

theorem hdr_zeroSlots (s : State) (bid : Nat) (ks : List Nat) (k : Nat) : (s.zeroSlots bid ks).hdr bid k = s.hdr bid k := by
  rw [hdr, zeroSlots, mx_updMx_self, hdr]

/-- The words change all their slots at once, or trap with the first slot in another state. -/
theorem slotClaims : Claims.SlotClaims := by
  intro s slot cnt named all others
  have hnamed (k : Nat) : k ∈ slotRun slot (cnt + 1) ↔ named k := mem_slotRun_succ
  refine ⟨fun hacts hall => ?_, fun hacts hall => ?_, fun i hi hother hfirst hacts => ?_, fun i hi hother hfirst hacts => ?_⟩
  · have hhdr := s.hdr_setHdrs (f := fun h => { h with st := .claimed, stamp := false }) (fun _ => rfl) s.bid
      (slotRun slot (cnt + 1))
    refine ⟨_, oclaim_of_empty hacts fun k hk => hall k ((hnamed k).mp hk), ⟨fun k hk => ?_, rfl, rfl, by simp [setHdrs]⟩,
      fun k hk => ?_⟩
    · rw [hhdr, if_neg (mt (hnamed k).mp hk)]
    · rw [hhdr, if_pos ((hnamed k).mpr hk)]
  · have hhdr := (s.zeroSlots s.bid (s.unnamed (slotRun slot (cnt + 1)))).hdr_setHdrs relHdr_relHdr s.bid
      (slotRun slot (cnt + 1))
    simp only [hdr_zeroSlots] at hhdr
    refine ⟨_, orel_of_claimed hacts fun k hk => hall k ((hnamed k).mp hk),
      ⟨fun k hk => ?_, rfl, rfl, by simp [setHdrs, zeroSlots]⟩,
      fun k hk => ⟨fun hstamp => ?_, fun hstamp => ⟨?_, fun b hb => ?_⟩⟩⟩
    · rw [hhdr, if_neg (mt (hnamed k).mp hk)]
    · rw [hhdr, if_pos ((hnamed k).mpr hk), relHdr, if_pos hstamp]
    · rw [hhdr, if_pos ((hnamed k).mpr hk), relHdr, if_neg (by simp [hstamp])]
    · exact opmem_zeroSlots (List.mem_filter.mpr ⟨(hnamed k).mpr hk, by simp [hstamp]⟩) hb _ _
  · rw [exec_oclaim, execOclaim, issuedC_next _ hacts, claim_of_first hi hother hfirst]
  · rw [exec_orel, execOrel, issuedC_next _ hacts, claim_of_first hi hother hfirst]

/-! ### ACC.LD and ACC.ST (R216, R217, R338) -/

/-- Segment q is not one of the rectangle of the tile descriptor t, or t describes none (10 Table 10.7). -/
def SegmentBad (t q : Nat) : Prop :=
  t / 2 ^ 14 ≠ 0 ∨ 11 < t % 16 ∨ 11 < t / 2 ^ 7 % 16 ∨ 8 < t / 2 ^ 4 % 8 + t / 2 ^ 11 % 8 + 1 ∨
    12 < t % 16 + t / 2 ^ 7 % 16 + 1 ∨ 32 * (t / 2 ^ 11 % 8 + 1) * (t / 2 ^ 7 % 16 + 1) ≤ q

/-- The first element of segment q. -/
def segmentKey (t q : Nat) : Nat :=
  384 * (32 * (t / 2 ^ 4 % 8) + q / (t / 2 ^ 7 % 16 + 1)) + 32 * (t % 16 + q % (t / 2 ^ 7 % 16 + 1))

/-- The descriptor's 32 bits. -/
def tileDesc (s : State) (sd : Nat) : Nat := (s.sreg sd).toNat % 2 ^ 32

theorem ofDesc_eq (t : Nat) : Rect.ofDesc t =
    { r0 := t / 2 ^ 4 % 8, c0 := t % 16, nr := t / 2 ^ 11 % 8, nc := t / 2 ^ 7 % 16 } := by
  simp [Rect.ofDesc, bitsOf]

theorem segmentBad_iff (t q : Nat) :
    (t / 2 ^ 14 != 0 || decide ((Rect.ofDesc t).c0 > 11) || decide ((Rect.ofDesc t).nc > 11) || !(Rect.ofDesc t).ok ||
      decide (32 * ((Rect.ofDesc t).nr + 1) * ((Rect.ofDesc t).nc + 1) ≤ q)) = true ↔ SegmentBad t q := by
  simp only [ofDesc_eq, Rect.ok, SegmentBad, Bool.or_eq_true, bne_iff_ne, decide_eq_true_eq, Bool.not_eq_true',
    Bool.and_eq_false_iff, decide_eq_false_iff_not, not_le, gt_iff_lt, or_assoc]

theorem accSeg_of_bad {s : State} {sd q : Nat} (h : SegmentBad (s.tileDesc sd) q) :
    s.accSeg sd q = .error { code := 13, sub := 2, info := s.tileDesc sd } :=
  if_pos ((segmentBad_iff ..).mpr h)

theorem accSeg_of_not_bad {s : State} {sd q : Nat} (h : ¬ SegmentBad (s.tileDesc sd) q) :
    s.accSeg sd q = .ok (segmentKey (s.tileDesc sd) q) := by
  refine (if_neg (mt (segmentBad_iff ..).mp h)).trans ?_
  rw [← tileDesc, ofDesc_eq]
  rfl

/-- The Active lanes with the element that each names. -/
def laneElems (s : State) (a : Nat) : List (Nat × Nat) := (lanesOf s.active).map fun l => (l, a + l)

theorem mem_laneElems {s : State} {a : Nat} {p : Nat × Nat} :
    p ∈ s.laneElems a ↔ p.1 < 32 ∧ s.active.getLsbD p.1 = true ∧ p.2 = a + p.1 := by
  obtain ⟨l, k⟩ := p
  simp only [laneElems, lanesOf, List.mem_map, List.mem_filter, mem_lanes, Prod.mk.injEq]
  constructor
  · rintro ⟨m, ⟨hlt, hm⟩, rfl, rfl⟩
    exact ⟨hlt, hm, rfl⟩
  · rintro ⟨hlt, hm, rfl⟩
    exact ⟨l, ⟨hlt, hm⟩, rfl, rfl⟩

theorem laneElems_rising (s : State) (a : Nat) : (s.laneElems a).Pairwise (·.2 < ·.2) :=
  List.pairwise_map.mpr ((List.pairwise_lt_range.filter _).imp fun h => Nat.add_lt_add_left h a)

theorem cPut_takes (s : State) (r : Nat) (f : Nat → Word) : s.RegTakes (s.cPut r f) r s.issue.mm f :=
  s.putReg_takes r s.issue.mm f

theorem cPut_onlyRegs (s : State) (r : Nat) (f : Nat → Word) : s.OnlyRegs (s.cPut r f) [r] := by
  obtain ⟨⟨-, hgrp⟩, hg, hcell⟩ := s.putReg_onlyRegs r s.issue.mm f
  exact ⟨⟨rfl, hgrp⟩, hg, hcell⟩

section
variable {s : State} {v sd q : Nat} {lone : Bool}

theorem accLd_of_not_bad (hacts : s.Acts (.accLd v sd q lone)) (h : ¬ SegmentBad (s.tileDesc sd) q) :
    exec (.accLd v sd q lone) s =
      .next (s.cPut (s.vname v) fun l => s.accAt s.bid (segmentKey (s.tileDesc sd) q + l)) := by
  rw [exec_accLd, execAccLd, issuedC_next _ hacts, accSeg_of_not_bad h]

theorem accSt_of_not_bad (hacts : s.Acts (.accSt v sd q lone)) (h : ¬ SegmentBad (s.tileDesc sd) q) :
    exec (.accSt v sd q lone) s = .next (s.updAcc s.bid (s.laneElems (segmentKey (s.tileDesc sd) q))
      fun l _ => (s.vcur (s.vname v) l).val) := by
  rw [exec_accSt, execAccSt, issuedC_next _ hacts, accSeg_of_not_bad h]
  rfl

end

/-- The segment's elements go to or come from the Active lanes; a descriptor or segment out of range traps. -/
theorem accumulatorWords : Claims.AccumulatorWords := by
  intro s v sd q lone t c0 r0 nc nr bad key
  refine ⟨fun hacts hgood => ⟨_, accLd_of_not_bad hacts hgood, cPut_takes s _ _, cPut_onlyRegs s _ _⟩,
    fun hacts hgood => ⟨_, accSt_of_not_bad hacts hgood, rfl, rfl, fun l hl hactive => ?_, fun k hk => ?_⟩,
    fun hbad => ⟨fun hacts => ?_, fun hacts => ?_⟩⟩
  · exact s.accAt_updAcc_of_mem s.bid (fun l _ => (s.vcur (s.vname v) l).val) (s.laneElems_rising (segmentKey t q))
      (p := (l, key l)) (mem_laneElems.mpr ⟨hl, hactive, rfl⟩)
  · refine s.accAt_updAcc_of_ne s.bid _ fun p hp => ?_
    obtain ⟨hl, hactive, hkey⟩ := mem_laneElems.mp hp
    exact hkey ▸ (hk p.1 hl hactive).symm
  · rw [exec_accLd, execAccLd, issuedC_next _ hacts, accSeg_of_bad hbad]
    rfl
  · rw [exec_accSt, execAccSt, issuedC_next _ hacts, accSeg_of_bad hbad]
    rfl

end State

/-- Settles O34: the slots' headers are updated together once every one is in the state that the word wants; a segment's elements
are those of the tile descriptor, one for each lane. -/
theorem slotsAndAccumulator : Obligations.SlotsAndAccumulator := ⟨State.slotClaims, State.accumulatorWords⟩

end Sys2Proof.Machine
end

section
/-! SUPPORT. What giving up the lines of a copy leaves of blocks and cards, whatever requests of the home it lets go on (08 R160 to
R165), and a fault of the sequencer (10 R211). -/

namespace Sys2Proof.Machine

namespace State

/-! ### Coherence actions touch no block and no card -/

/-- `t` has the blocks and the cards of `s`. -/
def SameUnits (s t : State) : Prop := t.blks = s.blks ∧ t.cards = s.cards

theorem SameUnits.refl (s : State) : s.SameUnits s := ⟨rfl, rfl⟩

theorem SameUnits.trans {s t u : State} (h : s.SameUnits t) (h' : t.SameUnits u) : s.SameUnits u := by
  obtain ⟨hblks, hcards⟩ := h
  obtain ⟨hblks', hcards'⟩ := h'
  exact ⟨hblks'.trans hblks, hcards'.trans hcards⟩

theorem sameUnits_setDir (s : State) (line : Nat) (d : DirEntry) : s.SameUnits (s.setDir line d) := ⟨rfl, rfl⟩
theorem sameUnits_setL1 (s : State) (core line : Nat) (l : L1Line) : s.SameUnits (s.setL1 core line l) := ⟨rfl, rfl⟩

theorem sameUnits_cleanLine (s : State) (line : Nat) : s.SameUnits (s.cleanLine line) := by
  rw [cleanLine_eq]
  exact .refl s

theorem sameUnits_dropCopy (s : State) (core line : Nat) : s.SameUnits (s.dropCopy core line) := by
  unfold dropCopy
  rw [wakeWatch_eq]
  exact .refl s

theorem sameUnits_invalidate (s : State) (keep : Option Nat) (line : Nat) : s.SameUnits (s.invalidate keep line) :=
  dropCopies_keeps (P := s.SameUnits) (fun t c ht => ht.trans (t.sameUnits_dropCopy c line)) (s.sameUnits_cleanLine line) keep
    ((s.cleanLine line).holders line)

theorem sameUnits_useL1 (s : State) (core line : Nat) : s.SameUnits (s.useL1 core line) := by
  unfold useL1
  dsimp only
  split <;> exact .refl s

theorem sameUnits_cacheDrop (s : State) (core line : Nat) : s.SameUnits (s.cacheDrop core line) := by
  obtain ⟨t, ht, hdef⟩ : ∃ t, s.SameUnits t ∧ t = if (s.l1 core line).dirty = 0 then s else s.cleanLine line := by
    refine ⟨_, ?_, rfl⟩
    split
    · exact .refl s
    · exact s.sameUnits_cleanLine line
  have hdrop := ht.trans (t.sameUnits_dropCopy core line)
  unfold cacheDrop
  rw [← hdef]
  dsimp only
  split
  · exact ht
  split
  · exact hdrop.trans (sameUnits_setDir ..)
  split
  · exact hdrop.trans (sameUnits_setDir ..)
  · exact hdrop

theorem sameUnits_evictLine (s : State) (core line : Nat) : s.SameUnits (s.evictLine core line) := by
  unfold evictLine
  split
  · exact s.sameUnits_cacheDrop core line
  split
  · exact ((s.sameUnits_cleanLine line).trans (sameUnits_dropCopy _ core line)).trans (sameUnits_setDir ..)
  · exact s.sameUnits_dropCopy core line

theorem sameUnits_makeRoom (s : State) (core line : Nat) : s.SameUnits (s.makeRoom core line) := by
  unfold makeRoom
  dsimp only
  split
  · exact .refl s
  split
  · exact s.sameUnits_evictLine core _
  · exact .refl s

theorem sameUnits_allocate (s : State) (line : Nat) : s.SameUnits (s.allocate line) := by
  have hway (t : State) (l2) : t.SameUnits { t with l2 } := ⟨rfl, rfl⟩
  have hevict (v : Nat) : s.SameUnits (s.tick.evictSlice v) :=
    ((s.tick.sameUnits_invalidate none v).trans (sameUnits_setDir ..)).trans (hway _ _)
  unfold allocate
  dsimp only
  split
  · exact .refl s
  refine .trans ?_ (hway _ _)
  split
  · exact .refl s
  split
  · exact hevict _
  · exact .refl s

theorem sameUnits_homeShare (s : State) (agent line : Nat) : s.SameUnits (s.homeShare agent line) := by
  have hclean := (s.sameUnits_allocate line).trans (sameUnits_cleanLine _ line)
  by_cases hst : (s.dir line).st = .x
  · rw [homeShare_of_x hst]
    exact (hclean.trans (sameUnits_setL1 ..)).trans (sameUnits_setDir ..)
  · rw [homeShare_of_ne_x hst]
    exact hclean.trans (sameUnits_setDir ..)

theorem sameUnits_ncRoom (s : State) (line cluster : Nat) : s.SameUnits (s.ncRoom line cluster) := by
  unfold ncRoom ncDrop
  dsimp only
  split
  · exact .refl s
  split
  · split <;> exact .refl s
  · exact .refl s

theorem sameUnits_ncUse (s : State) (line cluster : Nat) : s.SameUnits (s.ncUse line cluster) := by
  unfold ncUse
  dsimp only
  split <;> exact .refl s

theorem sameUnits_ncFill (s : State) (line cluster : Nat) : s.SameUnits (s.ncFill line cluster) := by
  have hshare := (s.sameUnits_ncRoom line cluster).trans (sameUnits_homeShare _ (152 + cluster) line)
  have hlog (t : State) (a : Nat) : t.SameUnits ((t.logError a).logPoison a) := by
    simp [SameUnits, logError, logPoison, logRecord, postMsi]
  have hnc (t : State) (ncache) : t.SameUnits { t with ncache } := .refl t
  unfold ncFill
  dsimp only
  refine .trans (.trans ?_ (hnc _ _)) (sameUnits_ncUse ..)
  split
  · exact hshare.trans (hlog _ _)
  · exact hshare

theorem sameUnits_grantRead (s : State) (agent line : Nat) : s.SameUnits (s.grantRead agent line) := by
  unfold grantRead
  split
  · split
    · exact .refl s
    · have hshare := (s.sameUnits_makeRoom agent line).trans (sameUnits_homeShare _ agent line)
      exact (hshare.trans (sameUnits_setL1 ..)).trans (sameUnits_useL1 _ agent line)
  · exact s.sameUnits_ncFill line _

theorem sameUnits_startRequest (s : State) (line : Nat) (k : TxnKind) : s.SameUnits (s.startRequest line k).1 := by
  unfold startRequest
  dsimp only
  split
  · split
    · exact .refl s
    · exact s.sameUnits_grantRead _ line
  · split
    · exact s.sameUnits_allocate line
    · exact .refl s
    · split <;> exact .refl s
  · split <;> exact .refl s
  all_goals exact .refl s

theorem sameUnits_serveQueue (line : Nat) (q : List (Nat × TxnKind)) (s : State) : s.SameUnits (serveQueue line q s) := by
  induction q, s using serveQueue.induct line with
  | case1 s => exact .refl s
  | case2 n k rest s hserve s1 hstart ih =>
    have hstarted := (s.dropTxn line).sameUnits_startRequest line k
    rw [hstart] at hstarted
    rw [serveQueue, if_pos hserve, hstart]
    exact hstarted.trans ih
  | case3 n k rest s hserve s1 x hstart =>
    have hstarted := (s.dropTxn line).sameUnits_startRequest line k
    rw [hstart] at hstarted
    rw [serveQueue, if_pos hserve, hstart]
    exact hstarted
  | case4 n k rest s hserve =>
    rw [serveQueue, if_neg hserve]
    exact .refl s

theorem sameUnits_freeLine (s : State) (line : Nat) : s.SameUnits (s.freeLine line) := by
  have hserve (t : State) : t.SameUnits (t.serveFreed line) := by
    unfold serveFreed
    split
    · split
      · exact sameUnits_serveQueue line _ t
      · exact .refl t
    · exact .refl t
  unfold freeLine
  dsimp only
  refine .trans ?_ (hserve _)
  split <;> exact .refl s

theorem sameUnits_dropCopyOf (s : State) (cid : Nat) : s.SameUnits (s.dropCopyOf cid) := by
  unfold dropCopyOf
  split
  · exact .refl s
  next k _ =>
    exact List.foldlRecOn (motive := s.SameUnits) k.owned _ (SameUnits.refl s) fun t ht line _ =>
      ht.trans (t.sameUnits_freeLine line)

/-- A copy that owns no line is dropped, and nothing else changes. -/
theorem dropCopyOf_of_unowned {s : State} (h : ∀ p ∈ s.copies, p.2.owned = []) (cid : Nat) : ∃ copies : Tbl Copy,
    s.dropCopyOf cid = { s with copies } ∧ copies ⊆ s.copies := by
  unfold dropCopyOf
  split
  · exact ⟨s.copies, rfl, fun _ hp => hp⟩
  next k hk =>
    have hmem : ∃ i, (i, k) ∈ s.copies := by
      obtain ⟨l₁, l₂, hsplit, -⟩ := List.lookup_eq_some_iff.mp hk
      exact ⟨cid, by simp [hsplit]⟩
    obtain ⟨i, hmem⟩ := hmem
    have hunowned : k.owned = [] := h (i, k) hmem
    rw [hunowned]
    exact ⟨Tbl.erase s.copies cid, rfl, fun p hp => List.mem_of_mem_filter hp⟩

/-! ### A fault of the sequencer (R211) -/

/-- The copies issued by the blocks of a gang deliver nothing further. -/
def dropGangCopies (s : State) (gang : List Nat) : State :=
  (s.copies.filter fun p => p.2.bid.any gang.contains).foldl (fun s p => s.dropCopyOf p.1) s

theorem sameUnits_dropGangCopies (s : State) (gang : List Nat) : s.SameUnits (s.dropGangCopies gang) :=
  List.foldlRecOn (motive := s.SameUnits) _ _ (SameUnits.refl s) fun t ht p _ => ht.trans (t.sameUnits_dropCopyOf p.1)

theorem dropGangCopies_of_unowned {s : State} (h : ∀ p ∈ s.copies, p.2.owned = []) (gang : List Nat) :
    (s.dropGangCopies gang).mem = s.mem ∧ (s.dropGangCopies gang).grps = s.grps := by
  have hkeep : (s.dropGangCopies gang).mem = s.mem ∧ (s.dropGangCopies gang).grps = s.grps ∧
      (s.dropGangCopies gang).copies ⊆ s.copies := by
    refine List.foldlRecOn (motive := fun t : State => t.mem = s.mem ∧ t.grps = s.grps ∧ t.copies ⊆ s.copies) _ _
      ⟨rfl, rfl, fun _ hp => hp⟩ ?_
    rintro t ⟨hmem, hgrps, hsub⟩ p -
    obtain ⟨copies, hdrop, hfewer⟩ := dropCopyOf_of_unowned (fun q hq => h q (hsub hq)) p.1
    rw [hdrop]
    exact ⟨hmem, hgrps, fun _ hq => hsub (hfewer hq)⟩
  obtain ⟨hmem, hgrps, -⟩ := hkeep
  exact ⟨hmem, hgrps⟩

end State

/-- A block that stops where it stands (R211). -/
def Block.halted (b : Block) : Block :=
  { b with poisoned := true, stopped := true, phase := if b.phase = .resident then .draining else b.phase,
           mx := { b.mx with seq := { b.mx.seq with step := 0 } } }

theorem Block.halted_halted (b : Block) : b.halted.halted = b.halted := by
  by_cases h : b.phase = .resident <;> simp [halted, h]

namespace State

/-- Every block of a gang stops. -/
def haltAll (s : State) (gang : List Nat) : State := gang.foldl (fun s k => s.updBlk k Block.halted) s

theorem blk_haltAll (s : State) (gang : List Nat) (b : Nat) :
    (s.haltAll gang).blk b = if b ∈ gang then (s.blk b).halted else s.blk b := by
  induction gang generalizing s with
  | nil => rfl
  | cons k r ih =>
    have htail : (s.haltAll (k :: r)).blk b = _ := ih (s.updBlk k Block.halted)
    rw [htail, updBlk, blk_setBlk]
    by_cases hk : b = k
    · subst hk
      simp [Block.halted_halted]
    · simp [hk]

theorem haltAll_eq (s : State) (gang : List Nat) : s.haltAll gang = { s with blks := (s.haltAll gang).blks } :=
  List.foldlRecOn (motive := fun t : State => t = { s with blks := t.blks }) gang _ rfl fun t ht k _ => by
    rw [ht]
    rfl

/-- The blocks of the faulting block's gang that there are. -/
def faultGang (s : State) : List Nat := (s.blk s.bid).gangIds.filter fun b => Tbl.has s.blks b

/-- The sequencer holds the fault. -/
def faulted (s : State) (code : Nat) : State := s.updSeq s.bid fun q => { q with st := .fault, fcode := code }

/-- The fault as the card's completion has it (13 Table 13.5). -/
def faultInfo (s : State) (code : Nat) : Nat × Nat × Nat :=
  (4, code, ((((s.seq s.bid).pc : Int) - (s.blk s.bid).desc.stream) % 2 ^ 32).toNat)

/-- The steps of a fault: the sequencer, the copies, the blocks and the card. -/
theorem seqFault_eq (s : State) (code : Nat) : s.seqFault code =
    (((s.faulted code).dropGangCopies s.faultGang).haltAll s.faultGang).updCard (s.blk s.bid).card fun c =>
      { c with err := c.err.or (some (s.faultInfo code)), noMore := true } := rfl

/-- A sequencer that changes leaves the matrix memories as they were. -/
theorem mx_updSeq (s : State) (b c : Nat) (f : Seq → Seq) :
    (s.updSeq b f).mx c = { s.mx c with seq := (s.updSeq b f).seq c } := by
  rw [mx, seq, updSeq, updBlk, blk_setBlk]
  split
  · next h => rw [h]; rfl
  · rfl

@[simp] theorem seq_updSeq_self (s : State) (b : Nat) (f : Seq → Seq) : (s.updSeq b f).seq b = f (s.seq b) := by
  simp [seq, updSeq, updBlk]

section
variable (s : State) (code : Nat)

theorem blk_seqFault (b : Nat) : (s.seqFault code).blk b =
    if b ∈ s.faultGang then ((s.faulted code).blk b).halted else (s.faulted code).blk b := by
  obtain ⟨hblks, -⟩ := (s.faulted code).sameUnits_dropGangCopies s.faultGang
  have hkept : ((s.faulted code).dropGangCopies s.faultGang).blk b = (s.faulted code).blk b := by rw [blk, hblks, blk]
  rw [← hkept, ← blk_haltAll, seqFault_eq]
  rfl

/-- A fault leaves the matrix memories of every block as they were. -/
theorem mx_seqFault (b : Nat) : (s.seqFault code).mx b = { s.mx b with seq := (s.seqFault code).seq b } := by
  have hfaulted : (s.faulted code).mx b = { s.mx b with seq := (s.faulted code).seq b } := s.mx_updSeq s.bid b _
  rw [mx, seq, blk_seqFault]
  split
  · exact congrArg (fun m : Matrix => { m with seq := { m.seq with step := 0 } }) hfaulted
  · exact hfaulted

theorem seq_seqFault : (s.seqFault code).seq s.bid =
    { s.seq s.bid with st := .fault, fcode := code, step := ((s.seqFault code).seq s.bid).step } := by
  have hfaulted : (s.faulted code).seq s.bid = { s.seq s.bid with st := .fault, fcode := code } := s.seq_updSeq_self s.bid _
  have hstep : (s.seqFault code).seq s.bid =
      { (s.faulted code).seq s.bid with step := ((s.seqFault code).seq s.bid).step } := by
    rw [seq, blk_seqFault]
    split <;> rfl
  rw [hstep, hfaulted]

theorem stopped_of_seqFault {b : Nat} (hb : b ∈ (s.blk s.bid).gangIds) (hhas : Tbl.has s.blks b = true) :
    ((s.seqFault code).blk b).stopped = true := by
  rw [blk_seqFault, if_pos (show b ∈ s.faultGang from List.mem_filter.mpr ⟨hb, hhas⟩)]
  rfl

theorem seqFault_of_unowned (h : ∀ p ∈ s.copies, p.2.owned = []) :
    (s.seqFault code).mem = s.mem ∧ (s.seqFault code).grps = s.grps := by
  obtain ⟨hmem, hgrps⟩ := dropGangCopies_of_unowned (s := s.faulted code) h s.faultGang
  rw [seqFault_eq, haltAll_eq]
  exact ⟨hmem, hgrps⟩

theorem err_seqFault : ((s.seqFault code).card (s.blk s.bid).card).err =
    (s.card (s.blk s.bid).card).err.or (some (s.faultInfo code)) := by
  obtain ⟨-, hcards⟩ := (s.faulted code).sameUnits_dropGangCopies s.faultGang
  rw [seqFault_eq, updCard, card_setCard, if_pos rfl, haltAll_eq, card, hcards]
  rfl

end

end State
end Sys2Proof.Machine
end

section
/-! SUPPORT. The effects and checks of the stream words but MX.MMA and MX.REC, and the stream words that are ILLEGAL (10 R209 to
R221, 19 R398 to R407). Settles O37. -/

namespace Sys2Proof.Machine

/-! ### Rectangles of sub-tiles (R216) -/

/-- The sub-tile and the counts of a stream word name a rectangle within the accumulators. -/
def OkRect (t nr nc : Nat) : Prop := t < 96 ∧ t / 12 + nr + 1 ≤ 8 ∧ t % 12 + nc + 1 ≤ 12

theorem rectCheck_iff (t nr nc : Nat) :
    (decide (96 ≤ t) || !(Rect.ofTile t nr nc).ok) = true ↔ ¬ OkRect t nr nc := by
  simp [Rect.ok, Rect.ofTile, OkRect, not_and_or, -not_and]

theorem rectCheck_of_ok {t nr nc : Nat} (h : OkRect t nr nc) : (decide (96 ≤ t) || !(Rect.ofTile t nr nc).ok) = false :=
  Bool.eq_false_iff.mpr fun hfails => (rectCheck_iff t nr nc).mp hfails h

theorem ok_ofTile {t nr nc : Nat} (h : OkRect t nr nc) : (Rect.ofTile t nr nc).ok = true := by
  obtain ⟨-, hrow, hcol⟩ := h
  simp [Rect.ok, Rect.ofTile, hrow, hcol]

theorem Rect.mem_elems {r : Rect} {p : Nat × Nat} : p ∈ r.elems ↔ ∃ i < 32 * (r.nr + 1), ∃ j < 32 * (r.nc + 1),
    p = (i, accKey (32 * r.r0 + i) (32 * r.c0 + j)) := by
  simp only [elems, List.mem_flatMap, List.mem_map, List.mem_range, eq_comm (a := p)]

theorem Rect.elems_rising {r : Rect} (h : r.ok = true) : r.elems.Pairwise (·.2 < ·.2) := by
  obtain ⟨-, hcol⟩ : r.r0 + r.nr + 1 ≤ 8 ∧ r.c0 + r.nc + 1 ≤ 12 := by simpa [ok] using h
  refine List.pairwise_flatMap.mpr ⟨fun i _ => List.pairwise_map.mpr (List.pairwise_lt_range.imp fun hj => ?_),
    List.pairwise_lt_range.imp fun hi p hp q hq => ?_⟩
  · simp only [accKey]
    omega
  · obtain ⟨j, hj, rfl⟩ := List.mem_map.mp hp
    obtain ⟨k, hk, rfl⟩ := List.mem_map.mp hq
    have hj := List.mem_range.mp hj
    simp only [accKey]
    omega

/-- A sequencer once its word is complete. -/
def Seq.advance (q : Seq) : Seq := { q with st := .run, pc := (q.pc + 8) % 2 ^ 57, word := none }

namespace State

/-- Each element of a rectangle is computed from its old value and the place of its row; the others stand. -/
theorem accAt_updAcc_elems (s : State) (bid : Nat) {r : Rect} (h : r.ok = true) (f : Nat → Word → Word) {row col : Nat}
    (hcol : col < 384) : (s.updAcc bid r.elems f).accAt bid (384 * row + col) =
      if r.r0 ≤ row / 32 ∧ row / 32 ≤ r.r0 + r.nr ∧ r.c0 ≤ col / 32 ∧ col / 32 ≤ r.c0 + r.nc then
        f (row - 32 * r.r0) (s.accAt bid (384 * row + col))
      else s.accAt bid (384 * row + col) := by
  obtain ⟨-, hok⟩ : r.r0 + r.nr + 1 ≤ 8 ∧ r.c0 + r.nc + 1 ≤ 12 := by simpa [Rect.ok] using h
  split
  next hin =>
    have hmem : (row - 32 * r.r0, 384 * row + col) ∈ r.elems := by
      refine Rect.mem_elems.mpr ⟨row - 32 * r.r0, by omega, col - 32 * r.c0, by omega, ?_⟩
      simp only [accKey, Prod.mk.injEq, true_and]
      omega
    exact s.accAt_updAcc_of_mem bid f (Rect.elems_rising h) hmem
  next hout =>
    refine s.accAt_updAcc_of_ne bid f fun p hp hkey => hout ?_
    obtain ⟨i, hi, j, hj, rfl⟩ := Rect.mem_elems.mp hp
    simp only [accKey] at hkey
    omega

/-! ### The sequencer's move to another word -/

/-- The issuing block has matrix memories `m` and sequencer `v`, and no other block, group, card or byte of memory differs. -/
def Moves (s u : State) (m : Matrix) (v : Seq) : Prop :=
  u.blk s.bid = { s.blk s.bid with mx := { m with seq := v } } ∧ (∀ b, b ≠ s.bid → u.blk b = s.blk b) ∧
    u.grps = s.grps ∧ u.mem = s.mem ∧ u.cards = s.cards

theorem moves_updMx (s : State) (f : Matrix → Matrix) :
    s.Moves (s.updMx s.bid f) (f (s.mx s.bid)) (f (s.mx s.bid)).seq :=
  ⟨by rw [blk_updMx, if_pos rfl], fun b hb => by rw [blk_updMx, if_neg hb], rfl, rfl, rfl⟩

theorem moves_updSeq (s : State) (f : Seq → Seq) : s.Moves (s.updSeq s.bid f) (s.mx s.bid) (f (s.seq s.bid)) :=
  s.moves_updMx fun m => { m with seq := f m.seq }

theorem updSeq_updSeq (s : State) (b : Nat) (f g : Seq → Seq) :
    (s.updSeq b f).updSeq b g = s.updSeq b fun q => g (f q) :=
  s.updMx_updMx b (fun m => { m with seq := f m.seq }) fun m => { m with seq := g m.seq }

theorem updSeq_congr {s : State} {b : Nat} {f g : Seq → Seq} (h : f (s.seq b) = g (s.seq b)) : s.updSeq b f = s.updSeq b g := by
  have hseq : f (s.blk b).mx.seq = g (s.blk b).mx.seq := h
  simp only [updSeq, updBlk, hseq]

theorem seqNext_eq (s : State) : s.seqNext = s.updSeq s.bid Seq.advance := by
  rw [seqNext, seqAt]
  exact updSeq_congr rfl

theorem seqNext_updSeq (s : State) (f : Seq → Seq) :
    (s.updSeq s.bid f).seqNext = s.updSeq s.bid fun q => (f q).advance := by
  rw [seqNext_eq]
  exact updSeq_updSeq ..

/-- A word that writes the matrix memories, and then is complete. -/
theorem moves_seqNext (s : State) {f : Matrix → Matrix} (hseq : (f (s.mx s.bid)).seq = s.seq s.bid) :
    s.Moves (s.updMx s.bid f).seqNext (f (s.mx s.bid)) (s.seq s.bid).advance := by
  have hnext : (s.updMx s.bid f).seqNext = s.updMx s.bid fun m => { f m with seq := (f m).seq.advance } :=
    (seqNext_eq _).trans (s.updMx_updMx s.bid f fun m => { m with seq := m.seq.advance })
  have hmoves := s.moves_updMx fun m => { f m with seq := (f m).seq.advance }
  rw [← hnext, hseq] at hmoves
  exact hmoves

theorem seq_seqNext (s : State) : s.seqNext.seq s.bid = (s.seq s.bid).advance := by rw [seqNext_eq, seq_updSeq_self]
theorem scratch_seqNext (s : State) (b : Nat) : (s.seqNext.blk b).scratch = (s.blk b).scratch := by
  rw [seqNext_eq]
  exact s.scratch_updMx s.bid b fun m => { m with seq := m.seq.advance }
theorem mx_seqNext (s : State) (b : Nat) : s.seqNext.mx b = { s.mx b with seq := s.seqNext.seq b } := s.mx_updSeq s.bid b _
@[simp] theorem accAt_seqNext (s : State) (b k : Nat) : s.seqNext.accAt b k = s.accAt b k := by rw [accAt, mx_seqNext, accAt]
@[simp] theorem hdr_seqNext (s : State) (b k : Nat) : s.seqNext.hdr b k = s.hdr b k := by rw [hdr, mx_seqNext, hdr]

theorem moves_updAcc (s : State) (ks : List (Nat × Nat)) (f : Nat → Word → Word) :
    s.Moves (s.updAcc s.bid ks f).seqNext { s.mx s.bid with acc := ((s.updAcc s.bid ks f).seqNext.mx s.bid).acc }
      (s.seq s.bid).advance := by
  rw [mx_seqNext, updAcc, mx_updMx_self]
  exact s.moves_seqNext rfl

theorem moves_setHdrs (s : State) (ks : List Nat) (f : SlotHdr → SlotHdr) :
    s.Moves (s.setHdrs s.bid ks f).seqNext { s.mx s.bid with hdrs := ((s.setHdrs s.bid ks f).seqNext.mx s.bid).hdrs }
      (s.seq s.bid).advance := by
  rw [mx_seqNext, setHdrs, mx_updMx_self]
  exact s.moves_seqNext rfl

/-! ### Checks (R397) -/

theorem seqCheck_of_fails {s : State} {b : Bool} (h : b = true) (c : Nat) (f : State → State) :
    s.seqCheck [(c, b)] f = s.seqFault c := by
  subst h
  rfl

theorem seqCheck_of_passes {s : State} {b : Bool} (h : b = false) (c : Nat) (f : State → State) :
    s.seqCheck [(c, b)] f = f s := by
  subst h
  rfl

/-! ### MX.ZERO and MX.SCL (R406, R407) -/

section
variable {s : State} {t nr nc c : Nat}

theorem mxZero_of_ok (h : OkRect t nr nc) : exec (.mxZero t nr nc) s =
    .next (s.updAcc s.bid (Rect.ofTile t nr nc).elems fun _ _ => 0).seqNext :=
  congrArg Host.Outcome.next (seqCheck_of_passes (rectCheck_of_ok h) _ _)

theorem mxZero_of_not_ok (h : ¬ OkRect t nr nc) : exec (.mxZero t nr nc) s = .next (s.seqFault 5) :=
  congrArg Host.Outcome.next (seqCheck_of_fails ((rectCheck_iff ..).mpr h) _ _)

/-- An element scaled by the scale of its row, rounded once (R406). -/
def scaled (s : State) (c i : Nat) (old : Word) : Word :=
  toF32 .rne (Num.mul (f32 old) (decodeS20 (s.scaleAt s.bid (c + i)).toNat))

theorem mxScl_of_ok (h : OkRect t nr nc) (hc : c + 32 * (nr + 1) ≤ 4096) : exec (.mxScl t nr nc c) s =
    .next (s.updAcc s.bid (Rect.ofTile t nr nc).elems (s.scaled c)).seqNext :=
  congrArg Host.Outcome.next
    (seqCheck_of_passes (Bool.or_eq_false_iff.mpr ⟨rectCheck_of_ok h, decide_eq_false (by omega)⟩) _ _)

theorem mxScl_of_bad (h : ¬ OkRect t nr nc ∨ 4096 < c + 32 * (nr + 1)) : exec (.mxScl t nr nc c) s = .next (s.seqFault 5) :=
  congrArg Host.Outcome.next (seqCheck_of_fails (Bool.or_eq_true_iff.mpr (h.imp (rectCheck_iff ..).mpr decide_eq_true)) _ _)

end

/-! ### MX.WAIT and MX.ARV (R221, R398) -/

theorem leNum_toLe (n v : Nat) : leNum (toLe n v) = v % 256 ^ n := by
  induction n generalizing v with
  | zero => simp [toLe, leNum, Nat.mod_one]
  | succ n ih =>
    have hdigit : v % 256 ^ (n + 1) = v % 256 + 256 * (v / 256 % 256 ^ n) := by rw [pow_succ', Nat.mod_mul]
    rw [toLe, leNum, ih, hdigit]
    rfl

/-- The word of a barrier is written. -/
def putBar (s : State) (b n : Nat) (w : Quad) : State :=
  s.updBlk b fun k => { k with scratch := putBytes k.scratch (8 * n) (toLe 8 w.toNat) }

/-- Besides the word of the barrier, only groups that wake and writes on the way that they then see change. -/
theorem updBar_eq (s : State) (b n : Nat) (f : Bar → Bar) : ∃ grps pending, s.updBar b n f =
    { s.putBar b n (Bar.check (f (Bar.ofWord (s.barWord b n)))).toWord with grps := grps, pending := pending } := by
  have hobserve (t : State) (g sc : Nat) : t.observe g sc = { t with pending := (t.observe g sc).pending } := by
    unfold observe
    split <;> rfl
  have hfold (t : State) (gs : List Nat) (sc : Nat) :
      ∃ pending, gs.foldl (fun s g => s.observe g sc) t = { t with pending } := by
    refine List.foldlRecOn (motive := fun u : State => ∃ pending, u = { t with pending }) gs _ ⟨t.pending, rfl⟩ ?_
    rintro _ ⟨pending, rfl⟩ g -
    exact ⟨_, hobserve ..⟩
  unfold updBar
  dsimp only
  split
  · exact ⟨_, _, rfl⟩
  · obtain ⟨pending, hseen⟩ := hfold _ _ _
    rw [hseen]
    exact ⟨_, _, rfl⟩

theorem barWord_of_scratch {t : State} {b n : Nat} {m : Tbl Byte} {w : Quad}
    (h : (t.blk b).scratch = putBytes m (8 * n) (toLe 8 w.toNat)) : t.barWord b n = w := by
  have hbytes : ((List.range 8).map fun i => Tbl.get 0 (t.blk b).scratch (8 * n + i)) = toLe 8 w.toNat := by
    rw [h]
    refine List.ext_getElem (by simp [length_toLe]) fun i hi _ => ?_
    have hlt : i < 8 := by simpa using hi
    rw [List.getElem_map, List.getElem_range, get_putBytes, length_toLe, if_pos (by omega), Nat.add_sub_cancel_left,
      List.getD_eq_getElem]
  rw [barWord, hbytes, leNum_toLe]
  exact BitVec.eq_of_toNat_eq (by rw [BitVec.toNat_ofNat]; omega)

section
variable {s : State} {b : Nat}

theorem mxWait_of_passed (hb : b < s.b.desc.nbar) (hphase : phaseOf (s.barWord s.bid b) ≠ (s.seq s.bid).ep.getLsbD b) :
    exec (.mxWait b) s = .next (s.updSeq s.bid fun _ =>
      { (s.seq s.bid).advance with ep := (s.seq s.bid).ep ^^^ BitVec.ofNat 64 (2 ^ b) }) := by
  refine congrArg Host.Outcome.next ((seqCheck_of_passes (decide_eq_false (by omega)) _ _).trans ?_)
  exact (if_pos (bne_iff_ne.mpr hphase)).trans ((s.seqNext_updSeq _).trans (updSeq_congr rfl))

theorem mxWait_of_same (hb : b < s.b.desc.nbar) (hphase : phaseOf (s.barWord s.bid b) = (s.seq s.bid).ep.getLsbD b) :
    exec (.mxWait b) s = .next (s.updSeq s.bid fun q => { q with st := .waitBar, wbar := b }) := by
  refine congrArg Host.Outcome.next ((seqCheck_of_passes (decide_eq_false (by omega)) _ _).trans ?_)
  exact if_neg (by simp [hphase])

theorem mxWait_of_bad (hb : s.b.desc.nbar ≤ b) : exec (.mxWait b) s = .next (s.seqFault 1) :=
  congrArg Host.Outcome.next (seqCheck_of_fails (decide_eq_true hb) _ _)

theorem mxArv_of_bad (hb : s.b.desc.nbar ≤ b) : exec (.mxArv b) s = .next (s.seqFault 1) :=
  congrArg Host.Outcome.next (seqCheck_of_fails (decide_eq_true hb) _ _)

/-- The word of the barrier after one arrival of a sequencer, and Check (R345, R348). -/
def arrivedWord (s : State) (b : Nat) : Quad :=
  (Bar.check (let w := Bar.ofWord (s.barWord s.bid b); { w with arr := (w.arr + 1) % 4096 })).toWord

theorem arrive_of_resident (hphase : (s.blk s.bid).phase = .resident) (hgoes : (s.blk s.bid).stopped = false) (src : Nat) :
    ∃ grps pending, s.arrive s.bid b false src =
      { s.putBar s.bid b (s.arrivedWord b) with grps := grps, pending := pending } := by
  obtain ⟨grps, pending, hbar⟩ := s.updBar_eq s.bid b fun x => { x with arr := (x.arr + 1) % 4096, rema := x.rema || false }
  refine ⟨grps, pending, ?_⟩
  rw [arrive, if_neg (by simp [hphase]), absent, hgoes, hphase, if_neg (by decide), hbar]
  simp only [arrivedWord, Bool.or_false]

theorem mxArv_of_resident (hb : b < s.b.desc.nbar) (hphase : (s.blk s.bid).phase = .resident)
    (hgoes : (s.blk s.bid).stopped = false) : ∃ u, exec (.mxArv b) s = .next u ∧ u.seq s.bid = (s.seq s.bid).advance ∧
      u.mem = s.mem ∧ (u.mx s.bid).acc = (s.mx s.bid).acc ∧ u.barWord s.bid b = s.arrivedWord b := by
  obtain ⟨grps, pending, harrive⟩ := arrive_of_resident (b := b) hphase hgoes (s.rankOf s.bid)
  let t : State := { s.putBar s.bid b (s.arrivedWord b) with grps := grps, pending := pending }
  have hexec : exec (.mxArv b) s = .next t.seqNext := by
    rw [exec_mxArv, execMxArv, seqCheck_of_passes (decide_eq_false (by omega)), harrive]
  have hblk : t.blk s.bid =
      { s.blk s.bid with scratch := putBytes (s.blk s.bid).scratch (8 * b) (toLe 8 (s.arrivedWord b).toNat) } :=
    blk_setBlk_self ..
  have hseq : t.seq s.bid = s.seq s.bid := by rw [seq, hblk, seq]
  have hnext : t.seqNext.seq s.bid = (t.seq s.bid).advance := t.seq_seqNext
  refine ⟨_, hexec, ?_, rfl, ?_, barWord_of_scratch (m := (s.blk s.bid).scratch) ?_⟩
  · rw [hnext, hseq]
  · rw [mx_seqNext, mx, hblk, mx]
  · rw [scratch_seqNext, hblk]

end

/-! ### MX.REL and MX.LOOP (R213, R400, R405) -/

section
variable {s : State} {n m : Nat}

theorem mxRel_of_filled (h : ∀ k ∈ slotRun (s.seqSlot n) m, (s.hdr s.bid k).st = .filled) : exec (.mxRel n m) s =
    .next (s.setHdrs s.bid (slotRun (s.seqSlot n) m) fun _ => {}).seqNext := by
  refine congrArg Host.Outcome.next (seqCheck_of_passes (List.any_eq_false.mpr fun k hk => ?_) _ _)
  simp [h k hk]

theorem mxRel_of_other {k : Nat} (hk : k ∈ slotRun (s.seqSlot n) m) (hother : (s.hdr s.bid k).st ≠ .filled) :
    exec (.mxRel n m) s = .next (s.seqFault 4) :=
  congrArg Host.Outcome.next (seqCheck_of_fails (List.any_eq_true.mpr ⟨k, hk, by simpa using hother⟩) _ _)

end

section
variable {s : State} {x count step : Nat} {off : BitVec 21}

/-- The passes of a loop that are left after this one (R213). -/
def passesLeft (s : State) (x count : Nat) : Nat :=
  let l : LoopCtr := Tbl.get {} (s.seq s.bid).lc x
  (if l.arm then l.rem else count) - 1

theorem mxLoop_of_pos (h : 0 < s.passesLeft x count) : exec (.mxLoop x count step off) s = .next (s.updSeq s.bid fun q =>
    { q with st := .run, pc := ((((s.seq s.bid).pc : Int) + 8 * off.toInt) % 2 ^ 57).toNat,
             sbase := (q.sbase + step) % 32, lc := Tbl.set {} q.lc x { arm := true, rem := s.passesLeft x count },
             word := none }) := by
  refine congrArg Host.Outcome.next ((if_pos h).trans ?_)
  have hpc : ((((s.seq s.bid).pc : Int) + 8 * off.toInt) % 2 ^ 57).toNat % 2 ^ 57 =
      ((((s.seq s.bid).pc : Int) + 8 * off.toInt) % 2 ^ 57).toNat := Nat.mod_eq_of_lt (by omega)
  rw [updSeq_updSeq, seqAt, hpc]
  exact updSeq_updSeq ..

theorem mxLoop_of_zero (h : s.passesLeft x count = 0) : exec (.mxLoop x count step off) s = .next (s.updSeq s.bid fun q =>
    { q.advance with lc := Tbl.set {} q.lc x { arm := false, rem := 0 } }) :=
  congrArg Host.Outcome.next ((if_neg (by rw [← passesLeft]; omega)).trans (s.seqNext_updSeq _))

end

/-- Each stream word that passes its checks has its effect and the sequencer moves on; one that fails a check faults. -/
theorem streamEffects : Claims.StreamEffects := by
  intro s bid q nextSeq slot moves acc old okRect
  have hslot {n m k : Nat} : k ∈ slotRun (slot n) m ↔ ∃ i, i < m ∧ k = (slot n + i) % 32 := mem_slotRun
  have hseq (f : Seq → Seq) : (s.updSeq s.bid f).seq bid = f q := s.seq_updSeq_self s.bid f
  refine ⟨rfl, rfl, fun p => ?_, fun t nr nc hok => ⟨_, mxZero_of_ok hok, s.moves_updAcc _ _, fun r c _ hc => ?_⟩,
    fun t nr nc c hok hc => ⟨_, mxScl_of_ok hok hc, s.moves_updAcc _ _, fun r k _ hk => ?_⟩, fun t nr nc c => mxScl_of_bad,
    fun t nr nc => mxZero_of_not_ok, fun b hb _ => ⟨mxWait_of_passed hb, mxWait_of_same hb, mxArv_of_resident hb⟩,
    fun b hb => ⟨mxWait_of_bad hb, mxArv_of_bad hb⟩,
    fun n m _ => ⟨fun hall => ?_, fun k hk => mxRel_of_other (hslot.mpr hk)⟩,
    fun x count step off _ => ⟨fun hleft => ⟨_, mxLoop_of_pos hleft, ?_⟩, fun hleft => ⟨_, mxLoop_of_zero hleft, ?_⟩⟩,
    fun code => ?_⟩
  · exact congrArg Host.Outcome.next ((s.seqNext_updSeq _).trans (updSeq_congr rfl))
  · exact (accAt_seqNext ..).trans (s.accAt_updAcc_elems bid (ok_ofTile hok) _ hc)
  · exact (accAt_seqNext ..).trans (s.accAt_updAcc_elems bid (ok_ofTile hok) _ hk)
  · have hhdr := s.hdr_setHdrs (f := fun _ => {}) (fun _ => rfl) bid (slotRun (slot n) m)
    refine ⟨_, mxRel_of_filled fun k hk => hall k (hslot.mp hk), s.moves_setHdrs _ _, fun k hk => ?_, fun k hk => ?_⟩
    · rw [hdr_seqNext]
      exact congrArg SlotHdr.st ((hhdr k).trans (if_pos (hslot.mpr hk)))
    · rw [hdr_seqNext]
      exact (hhdr k).trans (if_neg (mt hslot.mp hk))
  · simp only [hseq, Tbl.get_set_self, true_and]
    exact ⟨rfl, rfl, fun y hy => Tbl.get_set_ne _ _ _ hy, s.moves_updSeq _⟩
  · simp only [hseq, Tbl.get_set_self, true_and]
    exact ⟨fun y hy => Tbl.get_set_ne _ _ _ hy, s.moves_updSeq _⟩
  · intro u
    have hfault : u.seq bid = _ := s.seq_seqFault code
    refine ⟨by rw [hfault], by rw [hfault], by rw [hfault], s.seqFault_of_unowned code, fun b => ?_,
      fun b => s.stopped_of_seqFault code, s.err_seqFault code⟩
    have hmx : u.mx b = _ := s.mx_seqFault code b
    rw [hmx]
    exact ⟨rfl, rfl, rfl⟩

end State

/-! ### Words that are ILLEGAL (R211, R400, R403) -/

/-- The fields of the i-th operation of a microprogram break Table 10.8, or it follows a NONE and is none. -/
def MicroBad (w i : Nat) : Prop :=
  let op := fun i => w / 2 ^ (14 * i) % 2 ^ 14
  let code := fun i => op i / 2 ^ 11
  code i = 7 ∨ op i / 2 ^ 9 % 4 = 3 ∨ (op i % 8 ≠ 0 ∧ code i ≠ 6) ∨ (code i = 0 ∧ op i ≠ 0) ∨
    (0 < i ∧ code (i - 1) = 0 ∧ code i ≠ 0)

theorem microOp_progField {w i : Nat} (hi : i < 4) :
    microOp (BitVec.ofNat 56 (Sys2Proof.fld w 0 56)) i = w / 2 ^ (14 * i) % 2 ^ 14 := by
  rw [microOp, BitVec.toNat_ofNat, Sys2Proof.fld]
  interval_cases i <;> omega

/-- The fields of an operation that passes. -/
theorem microOk_iff (x : Nat) : microOk x = true ↔
    x / 2 ^ 11 < 7 ∧ x / 2 ^ 9 % 4 < 3 ∧ (x / 2 ^ 11 = 6 ∨ x % 8 = 0) ∧ (x / 2 ^ 11 ≠ 0 ∨ x = 0) := by
  simp [microOk, and_assoc]

theorem progOk_of_bad {w i : Nat} (hi : i < 4) (hbad : MicroBad w i) :
    progOk (BitVec.ofNat 56 (Sys2Proof.fld w 0 56)) = false := by
  refine Bool.eq_false_iff.mpr fun hok => ?_
  simp only [progOk, Bool.and_eq_true, List.all_eq_true, List.mem_range, Bool.or_eq_true, bne_iff_ne, beq_iff_eq] at hok
  obtain ⟨hops, hnone⟩ := hok
  have hop {j : Nat} (hj : j < 4) := (microOk_iff _).mp (microOp_progField (w := w) hj ▸ hops j hj)
  obtain ⟨hcode, hdst, hsel, hzero⟩ := hop hi
  simp only [MicroBad] at hbad
  rcases hbad with h | h | h | h | ⟨hpos, hprev, hnext⟩
  · omega
  · omega
  · omega
  · omega
  · have hfollows := hnone (i - 1) (by omega)
    rw [Nat.sub_add_cancel hpos, microOp_progField hi, microOp_progField (by omega)] at hfollows
    obtain ⟨-, -, -, hzero'⟩ := hop (show i - 1 < 4 by omega)
    omega

theorem decodeMx_of_not_wf {w : Nat} {i : Instr} (hi : candidateMx w = some i) (hwf : i.wf = false) :
    decodeMx w = .error .reservedValue := by
  simp only [decodeMx, hi, hwf, Bool.not_false, if_true]

theorem decodeMx_of_emptyLoop {w : Nat} (hop : w / 2 ^ 58 = 9) (hcount : w / 2 ^ 40 % 2 ^ 16 = 0) :
    decodeMx w = .error .reservedValue := by
  have hcand : candidateMx w =
      some (.mxLoop (Sys2Proof.fld w 56 2) (Sys2Proof.fld w 40 16) (Sys2Proof.fld w 35 5)
        (BitVec.ofNat 21 (Sys2Proof.fld w 14 21))) := by
    have hfield : Sys2Proof.fld w 58 6 = 9 := congrArg (· % 2 ^ 6) hop
    simp only [candidateMx, hfield]
  have hzero : Sys2Proof.fld w 40 16 = 0 := hcount
  exact decodeMx_of_not_wf hcand (by simp [Instr.wf, hzero])

theorem decodeMx_of_badProg {w i : Nat} (hop : w / 2 ^ 58 = 4) (hi : i < 4) (hbad : MicroBad w i) :
    decodeMx w = .error .reservedValue := by
  have hcand : candidateMx w = some (.mxProg (BitVec.ofNat 56 (Sys2Proof.fld w 0 56))) := by
    have hfield : Sys2Proof.fld w 58 6 = 4 := congrArg (· % 2 ^ 6) hop
    simp only [candidateMx, hfield]
  exact decodeMx_of_not_wf hcand (progOk_of_bad hi hbad)

namespace State

theorem seqTurn_of_undecoded {s : State} {bid : Nat} {word : Quad} {e : DecodeError} (hlive : s.seqLive bid = true)
    (hword : (s.seq bid).word = some word) (herr : decodeMx word.toNat = .error e) :
    seqTurn exec bid s = .next (({ s.tick with issue := { gid := 32 * bid } } : State).seqFault 1) := by
  simp only [seqTurn, hlive, hword, herr]
  rfl

/-- A word that does not decode faults the sequencer at the word. -/
theorem streamIllegal : Claims.StreamIllegal := by
  intro s bid word w op code bad hlive hword hbad
  have herr : decodeMx word.toNat = .error .reservedValue := by
    rcases hbad with ⟨hop, hcount⟩ | ⟨hop, i, hi, hbad⟩
    · exact decodeMx_of_emptyLoop hop hcount
    · exact decodeMx_of_badProg hop hi hbad
  let t : State := { s.tick with issue := { gid := 32 * bid } }
  have hbid : t.bid = bid := Nat.mul_div_cancel_left bid (by decide)
  have hseq := t.seq_seqFault 1
  rw [hbid] at hseq
  refine ⟨_, seqTurn_of_undecoded hlive hword herr, ?_, ?_, ?_, ?_, fun b => ?_⟩
  · rw [hseq]
  · rw [hseq]
  · rw [hseq]
    rfl
  · rw [hseq]
    rfl
  · rw [t.mx_seqFault 1 b]
    exact ⟨rfl, rfl, rfl⟩

end State

/-- Settles O37: a word that passes its checks writes its block's matrix memories and the sequencer alone; every other one, and one
that does not decode, is a fault, which leaves the memories and the address of the word. -/
theorem streamWords : Obligations.StreamWords := ⟨State.streamEffects, State.streamIllegal⟩

end Sys2Proof.Machine
end

section
/-! SUPPORT. The commands of the sort and splat unit at work (12 R243 to R245, R251): the order in which SELK selects, what the
start of a command leaves at the head of its queue, and what its end writes. -/

namespace Sys2Proof.Machine

/-! ### Selection (R251) -/

theorem placeRank_perm (before : Nat → Nat → Bool) (i : Nat) (l : List Nat) : (placeRank before i l).Perm (i :: l) := by
  induction l with
  | nil => exact .refl _
  | cons j r ih =>
    rw [placeRank]
    split
    · exact .refl _
    · exact (ih.cons j).trans (.swap i j r)

theorem rankAll_perm (desc : Bool) (v : Nat → Num) (n : Nat) : (rankAll desc v n).Perm (List.range n) := by
  induction n with
  | zero => exact .refl _
  | succ n ih =>
    unfold rankAll at ih ⊢
    rw [List.range_succ, List.foldl_append]
    exact (placeRank_perm ..).trans ((ih.cons n).trans (List.perm_append_singleton n _).symm)

namespace State

/-- The elements that a SELK selects, in the order in which it writes them. -/
def selected (d : SelkDesc) (bs : List Byte) : List Nat :=
  (rankAll d.desc (fun i => selkVal d.type (leNum ((bs.drop (selkBytes d.type * i)).take (selkBytes d.type)))) d.n).take d.k

theorem length_selected {d : SelkDesc} (h : d.k ≤ d.n) (bs : List Byte) : (selected d bs).length = d.k := by
  rw [selected, List.length_take, (rankAll_perm ..).length_eq, List.length_range, Nat.min_eq_left h]

theorem nodup_selected (d : SelkDesc) (bs : List Byte) : (selected d bs).Nodup :=
  ((rankAll_perm ..).nodup_iff.mpr List.nodup_range).sublist (List.take_sublist ..)

theorem lt_of_mem_selected {d : SelkDesc} {bs : List Byte} {i : Nat} (h : i ∈ selected d bs) : i < d.n :=
  List.mem_range.mp ((rankAll_perm ..).subset (List.mem_of_mem_take h))

/-! ### Status records (Table 12.1) -/

theorem head_ssuRecord {status count : Nat} (h : status * 2 ^ 56 + count < 2 ^ 64) (lsum ssum : Word) :
    ((ssuRecord status count lsum ssum).headD 0).toNat = status * 2 ^ 56 + count := by
  rw [ssuRecord, List.headD_cons, BitVec.toNat_ofNat, Nat.mod_eq_of_lt h]

/-! ### The start of a command (R243, R245) -/

theorem get_setHead (s : State) (cl : Nat) (x : SsuCmd) :
    Tbl.get [] (s.setHead cl x).ssus cl = x :: (Tbl.get [] s.ssus cl).tail := by
  rw [setHead, Tbl.get_upd, if_pos rfl]

/-- With no reduction sent there is none to accept. -/
theorem flushFar_of_unsent {s : State} (h : s.farSent = []) (b : Nat) : s.flushFar b = s := by
  rw [flushFar, acceptWhere, h]
  rfl

theorem ssuCommandStart_of_read {s : State} {cl : Nat} {c : SsuCmd} {rest : List SsuCmd} {bs : List Byte}
    (hq : Tbl.get [] s.ssus cl = c :: rest) (hnew : c.started = false) (hheld : s.ssuHeld cl = false) (hfar : s.farSent = [])
    (hahead : ∀ p ∈ s.pending, c.gid ∉ p.seen) (hread : s.engRead (some c.core) c.ctx c.va 64 = (.ok (bs, false), s)) :
    exec (.ssuCommandStart cl) s = .next (s.ssuRunDesc cl c (fun i => leNum ((bs.drop (8 * i)).take 8)) false) := by
  have hany : (s.pending.any fun p => p.seen.contains c.gid) = false := by simpa using hahead
  rw [exec_ssuCommandStart, execSsuCommandStart, hq]
  dsimp only
  rw [hnew, hheld, hany, flushFar_of_unsent hfar, hread]
  rfl

/-- The command with the barrier and the place of the status record that its descriptor names. -/
def described (c : SsuCmd) (q : Nat → Nat) : SsuCmd := { c with sts := ssuSts false q, bar := ssuBar q }

/-- The ranges that a SELK reads and writes. -/
def selkRanges (d : SelkDesc) : List (Nat × Nat × Nat) :=
  [(d.src, selkBytes d.type * d.n, pLOAD), (d.oidx, 4 * d.k, pSTORE), (d.oval, selkBytes d.type * d.k, pSTORE)]

/-- A SELK descriptor breaks a rule of Table 12.4. -/
def selkBad (d : SelkDesc) (sts : Nat) : Bool :=
  d.resv || sts % 16 != 0 || 5 < d.type || d.k = 0 || d.n < d.k || 2 ^ 24 < d.n ||
    (65536 < d.k && !(d.k == d.n && d.n ≤ 2 ^ 22)) || d.src % selkBytes d.type != 0 || d.oidx % 4 != 0

section
variable {s : State} {cl : Nat} {c : SsuCmd} {q : Nat → Nat}

/-- A SELK whose barrier and status record are in range: BADDESC, CAPFAIL, or its run. -/
theorem ssuRunDesc_of_selk (hbar : ssuBar q < c.nbar) (hlo : 8 * c.nbar ≤ ssuSts false q)
    (hhi : ssuSts false q + 16 ≤ 1024 * c.scrKib) (hselk : c.isSplat = false) :
    s.ssuRunDesc cl c q false =
      if selkBad (SelkDesc.ofQuads q) (ssuSts false q) then s.tick.setHead cl (s.ssuFail (described c q) sBADDESC)
      else if !ssuRangesOk (described c q) (selkRanges (SelkDesc.ofQuads q)) then
        s.tick.setHead cl (s.ssuFail (described c q) sCAPFAIL)
      else s.ssuRead cl (described c q) (SelkDesc.ofQuads q).src
        (selkBytes (SelkDesc.ofQuads q).type * (SelkDesc.ofQuads q).n) false
        fun s bs => s.selkRun (described c q) (SelkDesc.ofQuads q) bs := by
  have hrange : ¬ (c.nbar ≤ ssuBar q ∨ ssuSts false q < 8 * c.nbar ∨ 1024 * c.scrKib < ssuSts false q + 16) := by omega
  obtain ⟨⟩ := c
  cases hselk
  unfold ssuRunDesc
  dsimp only at hrange ⊢
  rw [if_neg (by simpa [or_assoc] using hrange), if_neg Bool.false_ne_true, if_neg Bool.false_ne_true]
  rfl

theorem record_ssuFail (s : State) (c : SsuCmd) {status : Nat} (hstatus : status < 256) :
    ((s.ssuFail c status).record.headD 0).toNat = status * 2 ^ 56 := by
  have hlt : status * 2 ^ 56 + 0 < 2 ^ 64 := by omega
  unfold ssuFail
  dsimp only
  split <;> exact (head_ssuRecord hlt ..).trans (Nat.add_zero _)

theorem ssuRunDesc_of_bad (hbar : ssuBar q < c.nbar) (hlo : 8 * c.nbar ≤ ssuSts false q)
    (hhi : ssuSts false q + 16 ≤ 1024 * c.scrKib) (hselk : c.isSplat = false)
    (hbad : selkBad (SelkDesc.ofQuads q) (ssuSts false q) = true) :
    s.ssuRunDesc cl c q false = s.tick.setHead cl (s.ssuFail (described c q) sBADDESC) := by
  rw [ssuRunDesc_of_selk hbar hlo hhi hselk, if_pos hbad]

theorem ssuRunDesc_of_good (hbar : ssuBar q < c.nbar) (hlo : 8 * c.nbar ≤ ssuSts false q)
    (hhi : ssuSts false q + 16 ≤ 1024 * c.scrKib) (hselk : c.isSplat = false)
    (hgood : selkBad (SelkDesc.ofQuads q) (ssuSts false q) = false)
    (hranges : ssuRangesOk (described c q) (selkRanges (SelkDesc.ofQuads q)) = true) {bs : List Byte}
    (hread : s.engRead (some c.core) c.ctx (SelkDesc.ofQuads q).src
      (selkBytes (SelkDesc.ofQuads q).type * (SelkDesc.ofQuads q).n) = (.ok (bs, false), s)) :
    s.ssuRunDesc cl c q false = s.tick.setHead cl (s.selkRun (described c q) (SelkDesc.ofQuads q) bs) := by
  rw [ssuRunDesc_of_selk hbar hlo hhi hselk, hgood, hranges, ssuRead]
  have hread' : s.engRead (some (described c q).core) (described c q).ctx (SelkDesc.ofQuads q).src
      (selkBytes (SelkDesc.ofQuads q).type * (SelkDesc.ofQuads q).n) = (.ok (bs, false), s) := hread
  rw [hread']
  rfl

end

theorem selkBad_iff (d : SelkDesc) (sts : Nat) : selkBad d sts = true ↔
    d.resv = true ∨ sts % 16 ≠ 0 ∨ 5 < d.type ∨ d.k = 0 ∨ d.n < d.k ∨ 2 ^ 24 < d.n ∨
      (65536 < d.k ∧ ¬ (d.k = d.n ∧ d.n ≤ 2 ^ 22)) ∨ d.src % selkBytes d.type ≠ 0 ∨ d.oidx % 4 ≠ 0 := by
  simp only [selkBad, Bool.or_eq_true, Bool.and_eq_true, Bool.not_eq_true', ← Bool.not_eq_true, bne_iff_ne, beq_iff_eq,
    decide_eq_true_eq, or_assoc]

/-- Outputs that overlap nothing hold the indices and the elements selected. -/
theorem glob_selkRun (s : State) (c : SsuCmd) {d : SelkDesc} (bs : List Byte)
    (hidx : meets d.oidx (4 * d.k) d.src (selkBytes d.type * d.n) = false)
    (hval : meets d.oval (selkBytes d.type * d.k) d.src (selkBytes d.type * d.n) = false)
    (hout : meets d.oidx (4 * d.k) d.oval (selkBytes d.type * d.k) = false) :
    (s.selkRun c d bs).glob = [(d.oidx, (selected d bs).flatMap fun i => toLe 4 i),
      (d.oval, (selected d bs).flatMap fun i => (bs.drop (selkBytes d.type * i)).take (selkBytes d.type))] := by
  simp only [selkRun, hidx, hval, hout, Bool.or_self, Bool.false_eq_true, if_false]
  rfl

theorem record_selkRun (s : State) (c : SsuCmd) {d : SelkDesc} (bs : List Byte) (hk : d.k ≤ 2 ^ 24) :
    ((s.selkRun c d bs).record.headD 0).toNat = d.k := by
  have hlt : sDONE * 2 ^ 56 + d.k < 2 ^ 64 := by unfold sDONE; omega
  refine (head_ssuRecord hlt ..).trans ?_
  rw [sDONE, Nat.zero_mul, Nat.zero_add]

/-! ### The end of a command (R244) -/

theorem toLe_getD {n i : Nat} (hi : i < n) (v : Nat) : (toLe n v).getD i 0 = BitVec.ofNat 8 (v / 2 ^ (8 * i)) := by
  induction n generalizing v i with
  | zero => omega
  | succ n ih =>
    cases i with
    | zero => simp [toLe]
    | succ i =>
      rw [toLe, List.getD_cons_succ, ih (by omega), Nat.div_div_eq_div_mul, Nat.mul_succ, Nat.add_comm, pow_add]
      rfl

/-- The bytes of a status record. -/
theorem recordBytes_getD {l : List Quad} (hl : l.length = 2) {i : Nat} (hi : i < 16) :
    (l.flatMap fun q => toLe 8 q.toNat).getD i 0 = BitVec.ofNat 8 ((l.getD (i / 8) 0).toNat / 2 ^ (8 * (i % 8))) := by
  obtain ⟨a, b, rfl⟩ : ∃ a b, l = [a, b] := List.length_eq_two.mp hl
  simp only [List.flatMap_cons, List.flatMap_nil, List.append_nil]
  rcases Nat.lt_or_ge i 8 with h | h
  · rw [List.getD_append _ _ _ _ (by rwa [length_toLe]), toLe_getD h, Nat.div_eq_of_lt h, Nat.mod_eq_of_lt h]
    rfl
  · obtain ⟨j, rfl⟩ : ∃ j, i = 8 + j := ⟨i - 8, by omega⟩
    have hj : j < 8 := by omega
    rw [List.getD_append_right _ _ _ _ (by rw [length_toLe]; omega), length_toLe, Nat.add_sub_cancel_left, toLe_getD hj,
      Nat.add_div_left _ (by decide), Nat.div_eq_of_lt hj, Nat.add_mod_left, Nat.mod_eq_of_lt hj]
    rfl

/-- A block's scratchpad with the bytes stored, before any wait looks at them. -/
def scrStored (s : State) (b a : Nat) (bs : List Byte) : State :=
  s.updBlk b fun k => { k with
    scratch := putBytes k.scratch a bs,
    scrBad := eraseRange (fun w => a ≤ 4 * w && 4 * w + 4 ≤ a + bs.length) k.scrBad (a / 4) (bs.length / 4 + 1) }

theorem blk_scrStored (s : State) (b a : Nat) (bs : List Byte) : (s.scrStored b a bs).blk b =
    { s.blk b with scratch := putBytes (s.blk b).scratch a bs, scrBad := ((s.scrStored b a bs).blk b).scrBad } := by
  rw [scrStored, updBlk, blk_setBlk_self]

/-- A write behind the barrier words wakes no wait. -/
theorem scrWrite_behind_bars {s : State} {b a : Nat} (h : 8 * (s.blk b).desc.nbar ≤ a) (bs : List Byte) :
    ∃ dev, s.scrWrite b a bs = { s.scrStored b a bs with dev } := by
  have hnone (t : State) : (List.range ((a + bs.length + 7) / 8 - a / 8)).foldl
      (fun s' i => if a / 8 + i < (s.blk b).desc.nbar then s'.wakeBar b (a / 8 + i) else s') t = t :=
    List.foldlRecOn (motive := fun u => u = t) _ _ rfl fun u hu i _ => by rw [if_neg (by omega), hu]
  unfold scrWrite
  dsimp only
  rw [hnone]
  split
  · exact ⟨_, rfl⟩
  · exact ⟨s.dev, rfl⟩

/-- The word of a barrier after one arrival, and Check (R345, R348). -/
def countedWord (s : State) (b n : Nat) : Quad :=
  (Bar.check (let w := Bar.ofWord (s.barWord b n); { w with arr := (w.arr + 1) % 4096 })).toWord

/-- An arrival at any resident block; `arrive_of_resident` is that at the issuing one. -/
theorem arrive_resident {s : State} {b : Nat} (hphase : (s.blk b).phase = .resident) (hgoes : (s.blk b).stopped = false)
    (n src : Nat) : ∃ grps pending, s.arrive b n false src =
      { s.putBar b n (s.countedWord b n) with grps := grps, pending := pending } := by
  obtain ⟨grps, pending, hbar⟩ := s.updBar_eq b n fun x => { x with arr := (x.arr + 1) % 4096, rema := x.rema || false }
  refine ⟨grps, pending, ?_⟩
  rw [arrive, if_neg (by simp [hphase]), absent, hgoes, hphase, if_neg (by decide), hbar]
  simp only [countedWord, Bool.or_false]

/-- The command at the head has left its queue and written its status record. -/
def recorded (s : State) (cl : Nat) (c : SsuCmd) (rest : List SsuCmd) : State :=
  ({ s with ssus := Tbl.set [] s.ssus cl rest } : State).scrWrite c.bid c.sts (c.record.flatMap fun q => toLe 8 q.toNat)

section
variable {s : State} {cl : Nat} {c : SsuCmd} {rest : List SsuCmd}

theorem recorded_behind_bars (hsts : (s.blk c.bid).desc.nbar * 8 ≤ c.sts) :
    Tbl.get [] (s.recorded cl c rest).ssus cl = rest ∧ (s.recorded cl c rest).mem = s.mem ∧
      (s.recorded cl c rest).blk c.bid = { s.blk c.bid with
        scratch := putBytes (s.blk c.bid).scratch c.sts (c.record.flatMap fun q => toLe 8 q.toNat),
        scrBad := ((s.recorded cl c rest).blk c.bid).scrBad } := by
  obtain ⟨s1, hs1⟩ : ∃ s1 : State, s1 = { s with ssus := Tbl.set [] s.ssus cl rest } := ⟨_, rfl⟩
  have hblk : s1.blk c.bid = s.blk c.bid := by rw [hs1]; rfl
  obtain ⟨dev, hwrite⟩ := scrWrite_behind_bars (s := s1) (b := c.bid) (a := c.sts) (by rw [hblk]; omega)
    (c.record.flatMap fun q => toLe 8 q.toNat)
  have hstored := s1.blk_scrStored c.bid c.sts (c.record.flatMap fun q => toLe 8 q.toNat)
  rw [recorded, ← hs1, hwrite]
  refine ⟨?_, ?_, ?_⟩
  · rw [hs1]
    exact Tbl.get_set_self ..
  · rw [hs1]
    rfl
  · rw [← hblk]
    exact hstored

/-- The end of a command whose block is there and whose results are all written. -/
theorem ssuComplete_of_written (hq : Tbl.get [] s.ssus cl = c :: rest) (hrun : c.started = true) (hheld : s.ssuHeld cl = false)
    (hrep : c.report = false) (hglob : c.glob = []) (hscr : c.scr = []) (hhas : Tbl.has s.blks c.bid = true) :
    exec (.ssuComplete cl) s =
      .next ((s.recorded cl c rest).arrive c.bid c.bar false ((s.recorded cl c rest).rankOf c.bid)) := by
  rw [exec_ssuComplete, execSsuComplete, hq]
  dsimp only
  rw [hrun, hheld, hrep, hglob, hscr]
  simp only [List.length_nil, ssuGlob, hhas, Bool.not_true, Bool.or_self, Bool.false_eq_true, if_false, List.foldl_nil]
  rfl

/-- The status record is written behind the barrier words, and then the arrival counts. -/
theorem ssuComplete_arrives (hq : Tbl.get [] s.ssus cl = c :: rest) (hrun : c.started = true) (hheld : s.ssuHeld cl = false)
    (hrep : c.report = false) (hglob : c.glob = []) (hscr : c.scr = []) (hhas : Tbl.has s.blks c.bid = true)
    (hphase : (s.blk c.bid).phase = .resident) (hgoes : (s.blk c.bid).stopped = false) (hrec : c.record.length = 2)
    (hsts : (s.blk c.bid).desc.nbar * 8 ≤ c.sts) (hbar : c.bar < (s.blk c.bid).desc.nbar) :
    ∃ t, exec (.ssuComplete cl) s = .next t ∧ Tbl.get [] t.ssus cl = rest ∧ t.mem = s.mem ∧
      (∀ i, i < 16 → Tbl.get 0 (t.blk c.bid).scratch (c.sts + i) =
        BitVec.ofNat 8 ((c.record.getD (i / 8) 0).toNat / 2 ^ (8 * (i % 8)))) ∧
      t.barWord c.bid c.bar = s.countedWord c.bid c.bar := by
  obtain ⟨hssus, hmem, hblk⟩ := recorded_behind_bars (s := s) (cl := cl) (rest := rest) hsts
  have hexec := ssuComplete_of_written hq hrun hheld hrep hglob hscr hhas
  generalize s.recorded cl c rest = u at hssus hmem hblk hexec
  have hword : u.barWord c.bid c.bar = s.barWord c.bid c.bar := by
    rw [barWord, hblk, barWord]
    congr 2
    refine List.map_congr_left fun i hi => ?_
    have hlt := List.mem_range.mp hi
    rw [get_putBytes, if_neg (by omega)]
  obtain ⟨grps, pending, harrive⟩ := arrive_resident (s := u) (b := c.bid) (by rw [hblk]; exact hphase)
    (by rw [hblk]; exact hgoes) c.bar (u.rankOf c.bid)
  rw [countedWord, hword, ← countedWord] at harrive
  have hscratch : ((u.arrive c.bid c.bar false (u.rankOf c.bid)).blk c.bid).scratch =
      putBytes (u.blk c.bid).scratch (8 * c.bar) (toLe 8 (s.countedWord c.bid c.bar).toNat) := by
    have hput : (u.putBar c.bid c.bar (s.countedWord c.bid c.bar)).blk c.bid = _ := blk_setBlk_self ..
    rw [harrive]
    exact congrArg Block.scratch hput
  refine ⟨_, hexec, ?_, ?_, fun i hi => ?_, barWord_of_scratch hscratch⟩
  · rw [harrive]
    exact hssus
  · rw [harrive]
    exact hmem
  · have hlen : (c.record.flatMap fun q => toLe 8 q.toNat).length = 16 := by
      obtain ⟨a, b, hab⟩ := List.length_eq_two.mp hrec
      simp [hab, length_toLe]
    rw [hscratch, hblk, get_putBytes, length_toLe, if_neg (by omega), get_putBytes, hlen, if_pos (by omega),
      Nat.add_sub_cancel_left, recordBytes_getD hrec hi]

/-- The report of a command whose barrier or status record is out of range (R245). -/
theorem ssuComplete_reports (hq : Tbl.get [] s.ssus cl = c :: rest) (hrun : c.started = true) (hheld : s.ssuHeld cl = false)
    (hrep : c.report = true) :
    ∃ t r, exec (.ssuComplete cl) s = .next t ∧ Tbl.get [] t.ssus cl = rest ∧ t.flt.held = s.flt.held ++ [r] ∧
      r.cause = 7 ∧ r.source = 4 ∧ t.blks = s.blks ∧ (t.card c.card).err = (s.card c.card).err.or (some (6, 0, 0)) := by
  have hexec : exec (.ssuComplete cl) s = .next ((({ s with ssus := Tbl.set [] s.ssus cl rest } : State).postFault
      { va := c.va, cause := 7, source := 4, ctx := c.ctx, block := c.no, card := s.cardField c.card, pcore := c.core,
        group := c.gid % 32 }).updCard c.card fun k => { k with err := k.err.or (some (6, 0, 0)) }) := by
    rw [exec_ssuComplete, execSsuComplete, hq]
    dsimp only
    rw [hrun, hheld, hrep]
    rfl
  refine ⟨_, _, hexec, Tbl.get_set_self .., postFault_held .., rfl, rfl, rfl, ?_⟩
  rw [updCard, card_setCard, if_pos rfl]
  rfl

end
end State
end Sys2Proof.Machine
end

section
/-! SUPPORT. A fill of a node cache (11 R238, R242): it moves no value, and no sector comes to be in error by it. -/

namespace Sys2Proof.Machine
namespace State

/-! ### No sector comes to be in error -/

/-- Protected memory ends where it did, and a sector in error was so before. Unlike `Unlogged`, this holds where a line given up
for another logs an error of its own. -/
def NoWorse (s t : State) : Prop :=
  t.protEnd = s.protEnd ∧ ∀ q, Tbl.get false t.poison q = true → Tbl.get false s.poison q = true

theorem NoWorse.refl (s : State) : s.NoWorse s := ⟨rfl, fun _ h => h⟩

theorem NoWorse.trans {s t u : State} (h : s.NoWorse t) (h' : t.NoWorse u) : s.NoWorse u := by
  obtain ⟨hprot, hpoison⟩ := h
  obtain ⟨hprot', hpoison'⟩ := h'
  exact ⟨hprot'.trans hprot, fun q hq => hpoison q (hpoison' q hq)⟩

theorem NoWorse.not_bad {s t : State} (h : s.NoWorse t) {pa n : Nat} (hbad : s.bad pa n = false) : t.bad pa n = false := by
  obtain ⟨hprot, hpoison⟩ := h
  rw [bad, List.any_eq_false] at hbad ⊢
  intro q hq hworse
  refine hbad q hq ?_
  rw [sectorBad, Bool.and_eq_true, hprot] at hworse
  rw [sectorBad, Bool.and_eq_true]
  exact ⟨hpoison q hworse.1, hworse.2⟩

theorem noWorse_setDir (s : State) (line : Nat) (d : DirEntry) : s.NoWorse (s.setDir line d) := .refl s
theorem noWorse_setL1 (s : State) (core line : Nat) (l : L1Line) : s.NoWorse (s.setL1 core line l) := .refl s

theorem protEnd_congr {s t : State} (hchannels : t.dev.chmask = s.dev.chmask) (hp : t.dev.p = s.dev.p) :
    t.protEnd = s.protEnd := by simp only [protEnd, channels, hchannels, hp]

/-- The log is no part of the layout of memory. -/
theorem noWorse_logError (s : State) (pa : Nat) : s.NoWorse (s.logError pa) := by
  unfold logError logRecord postMsi
  exact ⟨protEnd_congr rfl rfl, fun _ h => h⟩

theorem noWorse_logSectors (s : State) (qs : List Nat) : s.NoWorse (s.logSectors qs) :=
  List.foldlRecOn (motive := fun t : State => s.NoWorse t) _ _ (.refl s) fun t ht q _ => ht.trans (t.noWorse_logError (32 * q))

theorem noWorse_cleanLine (s : State) (line : Nat) : s.NoWorse (s.cleanLine line) := by
  have hhealed (mem lines) : s.NoWorse { s with
      mem, lines, poison := (s.healedSectors line).foldl (fun t q => Tbl.erase t (4 * line + q)) s.poison } := by
    refine ⟨rfl, fun q hq => ?_⟩
    exact List.foldlRecOn (motive := fun t => Tbl.get false t q = true → Tbl.get false s.poison q = true) _ _ id
      (fun t ih k _ hk => ih (get_of_get_erase hk)) hq
  unfold cleanLine
  split
  · exact (hhealed _ _).trans (noWorse_logSectors ..)
  · exact .refl s

theorem noWorse_dropCopy (s : State) (core line : Nat) : s.NoWorse (s.dropCopy core line) := by
  unfold dropCopy
  rw [wakeWatch_eq]
  exact .refl s

theorem noWorse_invalidate (s : State) (keep : Option Nat) (line : Nat) : s.NoWorse (s.invalidate keep line) :=
  dropCopies_keeps (P := s.NoWorse) (fun t c ht => ht.trans (t.noWorse_dropCopy c line)) (s.noWorse_cleanLine line) keep
    ((s.cleanLine line).holders line)

theorem noWorse_allocate (s : State) (line : Nat) : s.NoWorse (s.allocate line) := by
  have hway (t : State) (l2) : t.NoWorse { t with l2 } := .refl t
  have hevict (v : Nat) : s.NoWorse (s.tick.evictSlice v) := (s.tick.noWorse_invalidate none v).trans (.refl _)
  unfold allocate
  dsimp only
  split
  · exact .refl s
  refine .trans ?_ (hway _ _)
  split
  · exact .refl s
  split
  · exact hevict _
  · exact .refl s

theorem noWorse_homeShare (s : State) (agent line : Nat) : s.NoWorse (s.homeShare agent line) := by
  have hclean := (s.noWorse_allocate line).trans (noWorse_cleanLine _ line)
  by_cases hst : (s.dir line).st = .x
  · rw [homeShare_of_x hst]
    exact (hclean.trans (noWorse_setL1 ..)).trans (noWorse_setDir ..)
  · rw [homeShare_of_ne_x hst]
    exact hclean.trans (noWorse_setDir ..)

/-! ### A fill -/

/-- A way given up changes the directory, and what the node cache lists. -/
theorem ncRoom_eq (s : State) (line cluster : Nat) :
    ∃ dirs ncache ncUsed, s.ncRoom line cluster = { s with dirs, ncache, ncUsed } := by
  unfold ncRoom ncDrop
  dsimp only
  split
  · exact ⟨_, _, _, rfl⟩
  split
  · split <;> exact ⟨_, _, _, rfl⟩
  · exact ⟨_, _, _, rfl⟩

theorem ncUse_eq (s : State) (line cluster : Nat) : ∃ ncUsed, s.ncUse line cluster = { s with ncUsed } := by
  unfold ncUse
  dsimp only
  split <;> exact ⟨_, rfl⟩

theorem L1Ok.keeps_logPoison {s : State} (h : s.L1Ok) (pa : Nat) : s.KeepsValues ((s.logError pa).logPoison pa) := by
  unfold logPoison logError logRecord postMsi
  exact (KeepsValues.refl h).congr rfl rfl rfl

/-- A line comes to a node cache with its values as they are, and marked as poisoned only where it was in error. -/
theorem L1Ok.ncFill {s : State} (h : s.L1Ok) (line cluster : Nat) :
    (∃ b, Tbl.get none (s.ncFill line cluster).ncache (ncKey line cluster) = some b ∧
        (s.bad (128 * line) 128 = false → b = false)) ∧
      s.KeepsValues (s.ncFill line cluster) := by
  obtain ⟨dirs, ncache, ncUsed, hroom⟩ := s.ncRoom_eq line cluster
  have hkeeps : s.KeepsValues (s.ncRoom line cluster) := by
    rw [hroom]
    exact (KeepsValues.refl h).congr rfl rfl rfl
  have hworse : s.NoWorse (s.ncRoom line cluster) := by
    rw [hroom]
    exact .refl s
  have hshare := hkeeps.trans (hkeeps.l1Ok.keeps_homeShare (152 + cluster) line)
  have hgood := (hworse.trans (noWorse_homeShare _ (152 + cluster) line)).not_bad (pa := 128 * line) (n := 128)
  unfold State.ncFill
  generalize (s.ncRoom line cluster).homeShare (152 + cluster) line = u at hshare hgood
  dsimp only
  have hlogged : s.KeepsValues (if u.bad (128 * line) 128 then (u.logError (128 * line)).logPoison (128 * line) else u) := by
    split
    · exact hshare.trans (hshare.l1Ok.keeps_logPoison _)
    · exact hshare
  generalize (if u.bad (128 * line) 128 then (u.logError (128 * line)).logPoison (128 * line) else u) = v at hlogged
  have hlisted := Tbl.get_set_self none v.ncache (ncKey line cluster) (some (u.bad (128 * line) 128))
  generalize Tbl.set none v.ncache (ncKey line cluster) (some (u.bad (128 * line) 128)) = nc at hlisted
  obtain ⟨used, huse⟩ := ncUse_eq { v with ncache := nc } line cluster
  rw [huse]
  exact ⟨⟨_, hlisted, hgood⟩, hlogged.congr rfl rfl rfl⟩

/-! ### The threads that wait for the line (R238) -/

/-- The thread is one of the cluster's and misses on the line. -/
def missesOn (cluster line : Nat) (p : Nat × Trp) : Bool := p.1 / 256 == cluster && p.2.miss == some line
/-- A thread that waits for the line goes on. -/
def refilled (cluster line : Nat) (p : Nat × Trp) : Nat × Trp :=
  if missesOn cluster line p then (p.1, { p.2 with miss := none }) else p

theorem missesOn_iff {cluster line : Nat} {p : Nat × Trp} :
    missesOn cluster line p = true ↔ p.1 / 256 = cluster ∧ p.2.miss = some line := by simp [missesOn]

theorem refilled_fst (cluster line : Nat) (p : Nat × Trp) : (refilled cluster line p).1 = p.1 := by
  unfold refilled
  split <;> rfl

theorem not_missesOn_refilled (cluster line : Nat) (p : Nat × Trp) : missesOn cluster line (refilled cluster line p) = false := by
  unfold refilled
  split
  · simp [missesOn]
  · next h => simpa using h

/-- The threads of a cluster go on once its node cache has the line. -/
def refillThreads (s : State) (cluster line : Nat) : State := { s with trps := s.trps.map (refilled cluster line) }

theorem miss_refillThreads (s : State) (cluster line : Nat) :
    ∀ p ∈ (s.refillThreads cluster line).trps, p.1 / 256 = cluster → p.2.miss ≠ some line := by
  intro p hp hcl hmiss
  obtain ⟨x, -, rfl⟩ := List.mem_map.mp hp
  exact absurd (missesOn_iff.mpr ⟨hcl, hmiss⟩) (by simp [not_missesOn_refilled])

theorem trpAt_refillThreads {s : State} {cluster line n : Nat} (h : n / 256 ≠ cluster ∨ (s.trpAt n).miss ≠ some line) :
    (s.refillThreads cluster line).trpAt n = s.trpAt n := by
  have hget : (s.refillThreads cluster line).trpAt n = (refilled cluster line (n, s.trpAt n)).2 :=
    Tbl.get_map ({} : Trp) _ (refilled_fst cluster line) s.trps n (by simp [refilled, missesOn])
  have hnot : missesOn cluster line (n, s.trpAt n) ≠ true := fun hm => by
    obtain ⟨hcl, hmiss⟩ := missesOn_iff.mp hm
    exact h.elim (· hcl) (· hmiss)
  rw [hget, refilled, if_neg hnot]

section
variable {s : State} {cl line : Nat}

theorem nodeCacheFill_of_waiting (hon : s.clusterOn cl = true) (hheld : s.lineHeld line = false)
    (hwaits : s.trps.any (missesOn cl line) = true) : exec (.nodeCacheFill cl line) s =
      .next ((if (s.dir line).ctr then s else (s.applyAllFar line).ncFill line cl).refillThreads cl line) := by
  have hgoes : (!(s.trps.any (missesOn cl line)) || !s.clusterOn cl || s.lineHeld line) = false := by simp [hon, hheld, hwaits]
  exact congrArg Host.Outcome.next (if_neg (Bool.eq_false_iff.mp hgoes))

theorem nodeCacheFill_of_unawaited (hnone : s.trps.any (missesOn cl line) = false) :
    exec (.nodeCacheFill cl line) s = .next s := by
  have hstays : (!(s.trps.any (missesOn cl line)) || !s.clusterOn cl || s.lineHeld line) = true := by simp [hnone]
  exact congrArg Host.Outcome.next (if_pos hstays)

theorem nodeCacheFill_fills (hon : s.clusterOn cl = true) (hheld : s.lineHeld line = false) (hctr : (s.dir line).ctr = false)
    (hfar : s.farQ = []) (hok : s.L1Ok) (hwaits : ∃ p ∈ s.trps, p.1 / 256 = cl ∧ p.2.miss = some line) :
    ∃ t, exec (.nodeCacheFill cl line) s = .next t ∧
      (∃ b, Tbl.get none t.ncache (64 * line + cl) = some b ∧ (s.bad (128 * line) 128 = false → b = false)) ∧
      (∀ p ∈ t.trps, p.1 / 256 = cl → p.2.miss ≠ some line) ∧ ∀ a, t.peek a = s.peek a := by
  obtain ⟨p, hp, hmiss⟩ := hwaits
  have hexec := nodeCacheFill_of_waiting hon hheld (List.any_eq_true.mpr ⟨p, hp, missesOn_iff.mpr hmiss⟩)
  have hnofar : s.applyAllFar line = s := by simp [applyAllFar, farOf, hfar, Tbl.get]
  rw [hctr, hnofar] at hexec
  obtain ⟨hbad, hkeeps⟩ := hok.ncFill line cl
  exact ⟨_, hexec, hbad, miss_refillThreads _ cl line, hkeeps.peek⟩

/-- A counter line is in no cache (R172). -/
theorem nodeCacheFill_of_counter (hon : s.clusterOn cl = true) (hheld : s.lineHeld line = false)
    (hctr : (s.dir line).ctr = true) :
    ∃ t, exec (.nodeCacheFill cl line) s = .next t ∧ t = { s with trps := t.trps } ∧
      (∀ p ∈ t.trps, p.1 / 256 = cl → p.2.miss ≠ some line) ∧
      ∀ n, (n / 256 ≠ cl ∨ (s.trpAt n).miss ≠ some line) → t.trpAt n = s.trpAt n := by
  by_cases hwaits : s.trps.any (missesOn cl line) = true
  · have hexec := nodeCacheFill_of_waiting hon hheld hwaits
    rw [hctr] at hexec
    exact ⟨_, hexec, rfl, miss_refillThreads _ cl line, fun n hn => trpAt_refillThreads hn⟩
  · have hnone := Bool.eq_false_iff.mpr hwaits
    refine ⟨s, nodeCacheFill_of_unawaited hnone, rfl, fun p hp hcl hmiss => ?_, fun n _ => rfl⟩
    exact List.any_eq_false.mp hnone p hp (missesOn_iff.mpr ⟨hcl, hmiss⟩)

end
end State
end Sys2Proof.Machine
end

section
/-! SUPPORT. Threads of the traversal processors take up queries and sub-queries, and the parts of a query come back or are lost
(11 R225 to R229, R239 to R241, 18 R311, 19 R378, 20 R442, R459); the fetch of a stream word (10 R209) and the wait of JOBPOST
(20 R468). Settles O48. -/

namespace Sys2Proof.Machine
namespace State

/-! ### Threads -/

theorem trpAt_setTrp (s : State) (k n : Nat) (v : Trp) : (s.setTrp k v).trpAt n = if n = k then v else s.trpAt n := by
  simp [trpAt, setTrp, Tbl.get_set]
@[simp] theorem trpAt_setTrp_self (s : State) (k : Nat) (v : Trp) : (s.setTrp k v).trpAt k = v := by simp [trpAt_setTrp]
theorem trpAt_setTrp_of_ne (s : State) {k n : Nat} (h : n ≠ k) (v : Trp) : (s.setTrp k v).trpAt n = s.trpAt n := by
  rw [trpAt_setTrp, if_neg h]

/-- The state as the words and queries of thread `k` see it. -/
def onThread (s : State) (k : Nat) : State := { s with issue := { s.issue with thr := k } }

/-! ### A query is taken up (R225, R227, R228) -/

/-- A thread as it starts on a record. -/
def startOn (r : QueryRec) : Trp := { startState r.quads r.ctx r.card r.block r.cap with entered := r.entered }

section
variable {s : State} {core th : Nat}

theorem queryStart_of_ok {r : QueryRec} {rest : List QueryRec} (hfree : (s.trpAt (64 * core + th)).phase = .free)
    (hin : Tbl.get [] s.ingress core = r :: rest) (hok : queryOk r.quads = true) : exec (.queryStart core th) s =
      .next (({ s.onThread (64 * core + th) with ingress := Tbl.set [] s.ingress core rest } : State).setTrp (64 * core + th)
        (startOn r)) := by
  rw [exec_queryStart, execQueryStart]
  refine congrArg Host.Outcome.next ((if_neg ?_).trans ?_)
  · exact bne_iff_ne.not_left.mpr hfree
  · dsimp only
    rw [hin]
    exact if_pos hok

theorem queryStart_takes {r : QueryRec} {rest : List QueryRec} (hfree : (s.trpAt (64 * core + th)).phase = .free)
    (hin : Tbl.get [] s.ingress core = r :: rest) (hok : queryOk r.quads = true) :
    ∃ t, exec (.queryStart core th) s = .next t ∧ Tbl.get [] t.ingress core = rest ∧
      t.trpAt (64 * core + th) = startOn r ∧ (∀ n, n ≠ 64 * core + th → t.trpAt n = s.trpAt n) ∧ t.mem = s.mem :=
  ⟨_, queryStart_of_ok hfree hin hok, Tbl.get_set_self .., trpAt_setTrp_self .., fun _ hn => trpAt_setTrp_of_ne _ hn _, rfl⟩

/-- A new query has its context registers 0 and 1 from the record, and zero in the others. -/
theorem get_startOn_t (r : QueryRec) (i : Nat) : Tbl.get 0 (startOn r).t i = if i = 0 then r.quads.getD 4 0
    else if i = 1 then BitVec.ofNat 64 ((r.quads.getD 7 0).toNat / 2 ^ 16 % 2 ^ 16) else 0 := by
  rw [startOn, startState, Tbl.get_set, Tbl.get_set]
  rcases i with - | - | i <;> simp [bitsOf, Tbl.get]

/-! ### A sub-query is taken up (R311, R379, R459) -/

/-- The word of a completion record that holds its status. -/
theorem status_recordOf {p : QueryPart} (hstatus : p.status < 256) (user : Nat) (hand : Bool) :
    ((recordOf p user hand).getD 2 0).toNat / 2 ^ 24 % 2 ^ 8 = p.status := by
  have hbit : hand.toNat ≤ 1 := hand.toNat_le
  have hnodes : min p.nodes 0xFFFF ≤ 0xFFFF := Nat.min_le_right ..
  have hword : (recordOf p user hand).getD 2 0 =
      BitVec.ofNat 64 (user * 2 ^ 32 + p.status * 2 ^ 24 + hand.toNat * 2 ^ 23 + min p.nodes 0xFFFF) := rfl
  rw [hword, BitVec.toNat_ofNat]
  generalize min p.nodes 0xFFFF = nodes at hnodes
  omega

/-- The word names a context that exists, is not the firmware's and is paired with the sender's. -/
def Known (s : State) (pair sctx : Nat) : Prop :=
  pair ≠ 0 ∧ (s.ctx pair).exist = true ∧ (s.ctx pair).fw = false ∧ (s.ctx pair).pairctx = sctx

/-- The words 36 to 39 of a message of Table 19.3 that may be taken up. -/
def WordsOk (msg : List Quad) : Prop :=
  let w := (msg.getD 36 (0 : Quad)).toNat
  w / 2 ^ 38 % 4 = 0 ∧ w / 2 ^ 19 % 2 ^ 11 = 0 ∧ w / 2 % 2 ^ 15 = 0 ∧ w / 2 ^ 16 % 8 ≤ 4 ∧
    msg.getD 37 (0 : Quad) = 0 ∧ msg.getD 38 (0 : Quad) = 0 ∧ msg.getD 39 (0 : Quad) = 0

/-- The HITV that a message ships. -/
def shippedHit (msg : List Quad) : List Word :=
  [wordOf (msg.getD 8 (0 : Quad)) false, wordOf (msg.getD 8 (0 : Quad)) true, wordOf (msg.getD 9 (0 : Quad)) false,
    wordOf (msg.getD 9 (0 : Quad)) true]

/-- The context of this card that a message names. -/
def pairOf (msg : List Quad) : Nat := (msg.getD 36 (0 : Quad)).toNat / 2 ^ 48 % 2 ^ 16

/-- A thread as it starts on a sub-query. -/
def subStart (msg : List Quad) (n : Nat) : Trp :=
  let m := fun i => msg.getD i (0 : Quad)
  let t0 := startState (msg.take 8) (pairOf msg) 0 0 { bits := m 11 ++ m 10, tag := (m 36).getLsbD 0 }
  { t0 with
    t := (List.range 16).foldl (fun t i =>
      Tbl.set 0 t i (if i = 0 then localPtr (m 4) else if i = 1 then Tbl.get 0 t0.t 1 else m (12 + i))) []
    hit := shippedHit msg
    hitValid := shippedHit msg != noHit
    stk := (List.range ((m 36).toNat / 2 ^ 16 % 8)).map fun i => localEntry (m (29 + 2 * i) ++ m (28 + 2 * i))
    echo := some (m 36)
    entered := n }

theorem thread_ready (hfree : (s.trpAt (64 * core + th)).phase = .free) (hcl : core / 4 ∈ s.computeClusters) (hth : th < 64) :
    ((s.trpAt (64 * core + th)).phase != .free || !s.computeClusters.contains (core / 4) || decide (64 ≤ th)) = false := by
  simp [hfree, hcl, hth]

theorem known_iff (s : State) (pair sctx : Nat) : s.Known pair sctx ↔
    (decide (pair = 0) || !(s.ctx pair).exist || (s.ctx pair).fw || (s.ctx pair).pairctx != sctx) = false := by
  simp [Known, and_assoc]

theorem wordsOk_iff (msg : List Quad) : WordsOk msg ↔
    (bitsOf (msg.getD 36 0).toNat 38 2 != 0 || bitsOf (msg.getD 36 0).toNat 19 11 != 0 ||
      bitsOf (msg.getD 36 0).toNat 1 15 != 0 || decide (4 < bitsOf (msg.getD 36 0).toNat 16 3) ||
      msg.getD 37 0 != 0 || msg.getD 38 0 != 0 || msg.getD 39 0 != 0) = false := by
  simp [WordsOk, bitsOf, and_assoc]

theorem subqueryReceive_of_unknown {sctx : Nat} {msg : List Quad} (hfree : (s.trpAt (64 * core + th)).phase = .free)
    (hcl : core / 4 ∈ s.computeClusters) (hth : th < 64) (h : ¬ s.Known (pairOf msg) sctx) :
    exec (.subqueryReceive core th sctx msg) s = .next (s.refuseSub qPEERDOWN (shippedHit msg) (msg.getD 36 0)) := by
  rw [exec_subqueryReceive, execSubqueryReceive]
  refine congrArg Host.Outcome.next ((if_neg ?_).trans (if_pos ?_))
  · exact Bool.eq_false_iff.mp (thread_ready hfree hcl hth)
  · exact eq_true_of_ne_false (mt (known_iff ..).mpr h)

theorem subqueryReceive_of_known {sctx : Nat} {msg : List Quad} (hfree : (s.trpAt (64 * core + th)).phase = .free)
    (hcl : core / 4 ∈ s.computeClusters) (hth : th < 64) (h : s.Known (pairOf msg) sctx) (hwords : WordsOk msg)
    (hok : queryOk (msg.take 8) = true) : exec (.subqueryReceive core th sctx msg) s =
      .next (((s.onThread (64 * core + th)).takeId (s.ids + 1)).setTrp (64 * core + th) (subStart msg (s.ids + 1))) := by
  rw [exec_subqueryReceive, execSubqueryReceive]
  refine congrArg Host.Outcome.next ((if_neg ?_).trans ((if_neg ?_).trans ((if_neg ?_).trans (if_neg ?_))))
  · exact Bool.eq_false_iff.mp (thread_ready hfree hcl hth)
  · exact Bool.eq_false_iff.mp ((known_iff ..).mp h)
  · exact Bool.eq_false_iff.mp ((wordsOk_iff msg).mp hwords)
  · simp [hok]

theorem localPtr_toNat (q : Quad) : (localPtr q).toNat = q.toNat % 2 ^ 63 := by
  rw [localPtr, BitVec.toNat_and]
  exact Nat.and_two_pow_sub_one_eq_mod q.toNat 63

theorem get_foldl_set_range (f : Nat → Quad) (n i : Nat) :
    Tbl.get 0 ((List.range n).foldl (fun t i => Tbl.set 0 t i (f i)) []) i = if i < n then f i else 0 := by
  induction n with
  | zero => rfl
  | succ n ih =>
    rw [List.range_succ, List.foldl_append, List.foldl_cons, List.foldl_nil, Tbl.get_set, ih]
    rcases Nat.lt_trichotomy i n with h | rfl | h
    · rw [if_neg h.ne, if_pos h, if_pos (by omega)]
    · rw [if_pos rfl, if_pos (by omega)]
    · rw [if_neg h.ne', if_neg (by omega), if_neg (by omega)]

theorem subqueryReceive_takes {sctx : Nat} {msg : List Quad} (hfree : (s.trpAt (64 * core + th)).phase = .free)
    (hcl : core / 4 ∈ s.computeClusters) (hth : th < 64) (h : s.Known (pairOf msg) sctx) (hwords : WordsOk msg)
    (hok : queryOk (msg.take 8) = true) :
    ∃ t n, exec (.subqueryReceive core th sctx msg) s = .next t ∧ t.trpAt (64 * core + th) = subStart msg n ∧
      ∀ n, n ≠ 64 * core + th → t.trpAt n = s.trpAt n :=
  ⟨_, _, subqueryReceive_of_known hfree hcl hth h hwords hok, trpAt_setTrp_self .., fun _ hn => trpAt_setTrp_of_ne _ hn _⟩

theorem subStart_regs (msg : List Quad) (n : Nat) :
    (Tbl.get 0 (subStart msg n).t 0).toNat = (msg.getD 4 (0 : Quad)).toNat % 2 ^ 63 ∧
    ∀ i, 1 < i → i < 16 → Tbl.get 0 (subStart msg n).t i = msg.getD (12 + i) 0 := by
  unfold subStart
  refine ⟨?_, fun i hi hlt => ?_⟩
  · rw [get_foldl_set_range, if_pos (by decide), if_pos rfl, localPtr_toNat]
  · rw [get_foldl_set_range, if_pos hlt, if_neg (by omega), if_neg (by omega)]

end

/-! ### Parts of a query that come back or are lost (R240, R241, R279, R378) -/

section
variable {s : State} {th : Nat} {x : SubOut} {rest : List SubOut}

theorem find_first (hsubs : (s.trpAt th).subs = x :: rest) : (s.trpAt th).subs.find? (fun y => y.idx == x.idx) = some x := by
  rw [hsubs, List.find?_cons_of_pos (by simp)]

theorem partBack_first (hsubs : (s.trpAt th).subs = x :: rest) (p : SubOut → QueryPart) :
    s.partBack th x.idx p = s.setTrp th { s.trpAt th with
      subs := rest.filter (fun y => y.idx != x.idx), parts := (s.trpAt th).parts ++ [(x.ord, p x)] } := by
  have hdrop : (x :: rest).filter (fun y => y.idx != x.idx) = rest.filter fun y => y.idx != x.idx :=
    List.filter_cons_of_neg (by simp)
  rw [partBack]
  dsimp only
  rw [find_first hsubs, hsubs, hdrop]

/-- The result of a part sent too long ago is not held. -/
theorem subqueryResult_of_late (hsubs : (s.trpAt th).subs = x :: rest) (hlate : subLate s x = true) (r : SubResult) :
    exec (.subqueryResult th x.idx r) s = .next s := by
  refine congrArg Host.Outcome.next (if_pos (List.any_eq_true.mpr ⟨x, ?_, ?_⟩))
  · simp [hsubs]
  · simp [hlate]

theorem subqueryResult_of_timely (hsubs : (s.trpAt th).subs = x :: rest)
    (htimely : ∀ y ∈ x :: rest, y.idx = x.idx → subLate s y = false) (r : SubResult) :
    exec (.subqueryResult th x.idx r) s = .next (s.partBack th x.idx fun _ =>
      { status := r.status, aux := r.aux, hit := [r.thit, r.prim, r.u, r.v], nodes := r.nodes }) := by
  refine congrArg Host.Outcome.next (if_neg fun hany => ?_)
  obtain ⟨y, hy, hlate⟩ := List.any_eq_true.mp hany
  rw [hsubs] at hy
  simp only [Bool.and_eq_true, beq_iff_eq] at hlate
  rw [htimely y hy hlate.1] at hlate
  exact Bool.false_ne_true hlate.2

/-- The thread whose query ends because a part of it is lost: of the parts that came back only the nodes still count. -/
def bereft (t : Trp) : Trp :=
  { t with subs := [], parts := t.parts.map fun p => (p.1, { p.2 with status := qMISS }), miss := none, fltPage := none }

/-- A part that is late is lost, and its query ends; one that is not is still awaited. -/
theorem subqueryLost_eq (hsubs : (s.trpAt th).subs = x :: rest) : exec (.subqueryLost th x.idx) s = .next
    (if subLate s x then ((s.onThread th).setTrp th (bereft (s.trpAt th))).endQuery qPEERDOWN x.ptr.toNat else s) := by
  have hfind : (s.onThread th).tp.subs.find? (fun y => y.idx == x.idx) = some x := find_first hsubs
  have hlate : subLate (s.onThread th) x = subLate s x := rfl
  unfold onThread at hfind hlate
  rw [exec_subqueryLost, execSubqueryLost]
  dsimp only
  rw [hfind]
  dsimp only
  rw [hlate]
  cases subLate s x <;> rfl

/-- Of the parts of a query that has lost one, only the lost one says how it ends. -/
theorem mergeParts_of_lost {own : QueryPart} {subs : List QueryPart} (hown : own.status = qPEERDOWN)
    (hsubs : ∀ p ∈ subs, p.status = qMISS) : ∃ nodes, mergeParts own subs = { own with nodes } := by
  have hother (e : Nat) (h9 : e ≠ qPEERDOWN) (h1 : e ≠ qMISS) : (own :: subs).find? (fun p => p.status == e) = none := by
    refine List.find?_eq_none.mpr fun p hp => ?_
    rcases List.mem_cons.mp hp with rfl | hp
    · simp [hown, h9.symm]
    · simp [hsubs p hp, h1.symm]
  have hlost : (own :: subs).find? (fun p => p.status == 9) = some own := List.find?_cons_of_pos (by simp [hown, qPEERDOWN])
  have hchosen : errorOrder.findSome? (fun e => (own :: subs).find? fun p => p.status == e) = some own := by
    simp only [errorOrder, List.findSome?_cons]
    rw [hother 3, hother 4, hother 6, hother 7, hother 5, hlost] <;> decide
  unfold mergeParts
  dsimp only
  rw [hchosen]
  exact ⟨_, rfl⟩

theorem status_of_mem_partsInOrder {t : Trp} {v : Nat} (h : ∀ p ∈ t.parts, p.2.status = v) {p : QueryPart}
    (hp : p ∈ partsInOrder t) : p.status = v := by
  obtain ⟨i, -, hi⟩ := List.mem_filterMap.mp hp
  obtain ⟨q, hq, rfl⟩ := Option.map_eq_some_iff.mp hi
  exact h q (List.mem_of_find?_eq_some hq)

/-- The completion queue of a thread's query. -/
def cqKey (s : State) (k : Nat) : Nat := 4 * (k / 256) + qField (s.trpAt k) 7 0 2

/-- A query of this card whose parts are all back writes its record, and its thread is free. -/
theorem finishQuery_of_room {own : QueryPart} (hown : s.tp.own = some own) (hsubs : s.tp.subs = []) (hecho : s.tp.echo = none)
    (hroom : (Tbl.get [] s.cqs (s.cqKey s.thr)).length < 256) :
    (∃ r user hand, Tbl.get [] s.finishQuery.cqs (s.cqKey s.thr) = Tbl.get [] s.cqs (s.cqKey s.thr) ++ [r] ∧
      r.ctx = s.tp.ctx ∧ r.words = recordOf (mergeParts own (partsInOrder s.tp)) user hand) ∧
      s.finishQuery.trpAt s.thr = {} ∧ ∀ n, n ≠ s.thr → s.finishQuery.trpAt n = s.trpAt n := by
  obtain ⟨words, hwords⟩ : ∃ words, words =
    recordOf (mergeParts own (partsInOrder s.tp)) (qField s.tp 7 32 32) (s.tp.sent != 0) := ⟨_, rfl⟩
  have hfinish : s.finishQuery = ({ s with cqs := Tbl.set [] s.cqs (s.cqKey s.thr) (Tbl.get [] s.cqs (s.cqKey s.thr) ++
      [{ ctx := s.tp.ctx, words }]) } : State).setTrp s.thr {} := by
    unfold finishQuery
    dsimp only
    rw [hown]
    dsimp only
    rw [hsubs, hecho, hwords]
    exact if_neg (Nat.not_le.mpr hroom)
  rw [hfinish]
  exact ⟨⟨_, _, _, Tbl.get_set_self .., rfl, hwords⟩, trpAt_setTrp_self .., fun n hn => trpAt_setTrp_of_ne _ hn _⟩

/-- A thread's own part that ends with the loss of what it had sent to `ptr`. -/
def lostPart (t : Trp) (ptr : Quad) : QueryPart :=
  { status := qPEERDOWN, aux := BitVec.ofNat 64 ptr.toNat, hit := t.hit, nodes := t.nodes }
/-- The thread whose own part has so ended. -/
def ended (t : Trp) (ptr : Quad) : Trp := { bereft t with phase := .ended, own := some (lostPart t ptr) }

theorem endQuery_of_lost (s : State) (th : Nat) (t : Trp) (ptr : Quad) :
    ((s.onThread th).setTrp th (bereft t)).endQuery qPEERDOWN ptr.toNat =
      (((s.onThread th).setTrp th (bereft t)).setTrp th (ended t ptr)).finishQuery := by
  have htp : ((s.onThread th).setTrp th (bereft t)).tp = bereft t := trpAt_setTrp_self ..
  rw [endQuery, updTp, htp]
  rfl

theorem subqueryLost_ends (hsubs : (s.trpAt th).subs = x :: rest) (hlate : subLate s x = true) (hecho : (s.trpAt th).echo = none)
    (hroom : (Tbl.get [] s.cqs (s.cqKey th)).length < 256) : ∃ t r, exec (.subqueryLost th x.idx) s = .next t ∧
      Tbl.get [] t.cqs (s.cqKey th) = Tbl.get [] s.cqs (s.cqKey th) ++ [r] ∧ r.ctx = (s.trpAt th).ctx ∧
      (r.words.getD 2 0).toNat / 2 ^ 24 % 2 ^ 8 = 9 ∧ r.words.getD 3 0 = x.ptr ∧ t.trpAt th = {} ∧
      ∀ n, n ≠ th → t.trpAt n = s.trpAt n := by
  obtain ⟨u, hu⟩ : ∃ u, u = ((s.onThread th).setTrp th (bereft (s.trpAt th))).setTrp th (ended (s.trpAt th) x.ptr) := ⟨_, rfl⟩
  have hexec : exec (.subqueryLost th x.idx) s = .next u.finishQuery := by
    rw [subqueryLost_eq hsubs, if_pos hlate, endQuery_of_lost, hu]
  have hthr : u.thr = th := by rw [hu]; rfl
  have hcqs : u.cqs = s.cqs := by rw [hu]; rfl
  have hat : u.trpAt th = ended (s.trpAt th) x.ptr := by rw [hu, trpAt_setTrp_self]
  have htp : u.tp = ended (s.trpAt th) x.ptr := (congrArg u.trpAt hthr).trans hat
  have hkey : u.cqKey th = s.cqKey th := by rw [cqKey, hat, cqKey]; rfl
  have hothers (n : Nat) (hn : n ≠ th) : u.trpAt n = s.trpAt n := by
    rw [hu, trpAt_setTrp_of_ne _ hn, trpAt_setTrp_of_ne _ hn]
    rfl
  obtain ⟨⟨r, user, hand, hqueue, hctx, hwords⟩, hfree, hkept⟩ := finishQuery_of_room (s := u)
    (own := lostPart (s.trpAt th) x.ptr) (by rw [htp]; rfl) (by rw [htp]; rfl) (by rw [htp]; exact hecho)
    (by rw [hthr, hkey, hcqs]; exact hroom)
  obtain ⟨nodes, hmerge⟩ := mergeParts_of_lost (own := lostPart (s.trpAt th) x.ptr) rfl fun p hp =>
    status_of_mem_partsInOrder (t := u.tp) (fun q hq => by
      rw [htp] at hq
      obtain ⟨p, -, rfl⟩ := List.mem_map.mp hq
      rfl) hp
  rw [hthr, hkey, hcqs] at hqueue
  rw [hthr] at hfree hkept
  rw [hmerge] at hwords
  refine ⟨_, r, hexec, hqueue, ?_, ?_, ?_, hfree, fun n hn => (hkept n hn).trans (hothers n hn)⟩
  · rw [hctx, htp]
    rfl
  · rw [hwords]
    exact status_recordOf (show qPEERDOWN < 256 by decide) ..
  · rw [hwords]
    exact (BitVec.ofNat_toNat ..).trans (BitVec.setWidth_eq ..)

end

/-! ### The fetch of a stream word (R209) -/

/-- A position moves behind entry `i` of the history, where that is the removal of another context's mappings. -/
def pastRemoval (s : State) (ctx m i : Nat) : Nat := if (s.hist[i]?.bind (·.moved)).any (· != ctx) then max m (i + 1) else m

theorem le_pastRemoval (s : State) (ctx m i : Nat) : m ≤ s.pastRemoval ctx m i := by
  unfold pastRemoval
  split <;> omega

theorem lt_pastRemoval {s : State} {ctx i d : Nat} {o : OldBytes} (ho : s.hist[i]? = some o) (hd : o.moved = some d)
    (hne : d ≠ ctx) (m : Nat) : i < s.pastRemoval ctx m i := by
  rw [pastRemoval, if_pos (by simp [ho, hd, hne])]
  omega

theorem foldl_pastRemoval (s : State) (ctx since n : Nat) : since ≤ (List.range n).foldl (s.pastRemoval ctx) since ∧
    ∀ i o d, i < n → s.hist[i]? = some o → o.moved = some d → d ≠ ctx → i < (List.range n).foldl (s.pastRemoval ctx) since := by
  induction n with
  | zero => exact ⟨Nat.le_refl _, fun _ _ _ h => absurd h (Nat.not_lt_zero _)⟩
  | succ n ih =>
    obtain ⟨hle, hlt⟩ := ih
    rw [List.range_succ, List.foldl_append, List.foldl_cons, List.foldl_nil]
    refine ⟨hle.trans (le_pastRemoval ..), fun i o d hi ho hd hne => ?_⟩
    rcases Nat.lt_succ_iff_lt_or_eq.mp hi with hi | rfl
    · exact (hlt i o d hi ho hd hne).trans_le (le_pastRemoval ..)
    · exact lt_pastRemoval ho hd hne _

/-- The position from which on a context may be given old values stands behind each removal of another's mappings. -/
theorem heldFrom_after (s : State) (since ctx : Nat) : since ≤ s.heldFrom (some since) ctx ∧
    ∀ i o d, s.heldFrom (some since) ctx ≤ i → s.hist[i]? = some o → o.moved = some d → d = ctx := by
  obtain ⟨hle, hlt⟩ := s.foldl_pastRemoval ctx since s.hist.length
  refine ⟨hle, fun i o d hi ho hd => ?_⟩
  by_contra hne
  exact Nat.not_le.mpr (hlt i o d (List.getElem?_eq_some_iff.mp ho).1 ho hd hne) hi

section
variable {s : State} {bid : Nat}

/-- Where a block's stream may give old values from. -/
def streamHeld (s : State) (bid : Nat) : Nat := s.heldFrom (s.card (s.blk bid).card).since (s.blk bid).ctx
/-- The fetch of the word at a block's stream address. -/
def streamWord (s : State) (bid : Nat) : Fetched × State :=
  s.fetch (s.blk bid).core (s.blk bid).ctx (s.seq bid).pc 8 (some (s.streamHeld bid))

theorem streamFetch_of_ok (hlive : s.seqLive bid = true) (hnone : (s.seq bid).word = none) {bytes : List Byte}
    (hfetch : s.streamWord bid = (.ok bytes, s)) : exec (.streamFetch bid) s = .next (s.updSeq bid fun q =>
      { q with st := if q.st = .waitBar then .waitBar else .run, word := some (BitVec.ofNat 64 (leNum bytes)) }) := by
  unfold streamWord streamHeld at hfetch
  rw [exec_streamFetch, execStreamFetch]
  dsimp only
  rw [hlive, hnone, hfetch]
  rfl

theorem streamFetch_of_fault (hlive : s.seqLive bid = true) (hnone : (s.seq bid).word = none) {c l : Nat}
    (hfetch : s.streamWord bid = (.fault c l, s)) :
    exec (.streamFetch bid) s = .next (s.seqFetchFault bid (s.seq bid).pc c l) := by
  unfold streamWord streamHeld at hfetch
  rw [exec_streamFetch, execStreamFetch]
  dsimp only
  rw [hlive, hnone, hfetch]
  rfl

theorem seqFetchFault_records (s : State) (bid va c l : Nat) : ∃ r, (s.seqFetchFault bid va c l).flt.held = s.flt.held ++ [r] ∧
    r.source = 6 ∧ r.cause = c ∧ r.va = va ∧ (s.seqFetchFault bid va c l).seq bid = { s.seq bid with
      st := if (s.seq bid).st = .waitBar then .waitBar else .fetchWait, fltPage := some va, fltSince := s.clock } :=
  ⟨_, postFault_held .., rfl, rfl, rfl, seq_updSeq_self ..⟩

end

/-! ### The wait of JOBPOST (R468) -/

theorem queue_full_iff (q : Queue) :
    let len := 2 ^ (if 4 ≤ q.size.toNat % 32 ∧ q.size.toNat % 32 ≤ 16 then q.size.toNat % 32 else 4)
    Queue.full q = true ↔ (q.tail.toNat + 1) % len = q.head.toNat % len := by
  simp [Queue.full, Queue.len, Queue.bitsK]

theorem jobpostResume_eq {s : State} {g k q : Nat} (hwait : (s.slotAt g k).waitFor = .jobpost q) :
    exec (.jobpostResume g k) s =
      .next (if Queue.full (s.queue q) then s else s.updSlot g k fun sl => { sl with wait := .ready, waitFor := .none }) := by
  rw [exec_jobpostResume, execJobpostResume, hwait]

end State

/-- Settles O48: each engine takes up what its queue, its message or its fetch gives it, and leaves the rest of the state as the
clauses say. -/
theorem engines : Obligations.Engines := by
  intro s
  refine ⟨?ssuStart, ?ssuEnd, ?ssuReport, ?query, ?fill, ?counter, ?subquery, ?parts, ?stream, ?history, ?streamFault, ?jobpost⟩
  case ssuStart =>
    intro cl c rest bs hq hnew hheld hfar hahead hread q d sts es hbar hlo hhi hselk
    have hexec := State.ssuCommandStart_of_read hq hnew hheld hfar hahead hread
    have hhead (x : SsuCmd) : Tbl.get [] (s.tick.setHead cl x).ssus cl = x :: rest := by
      rw [State.get_setHead, State.tick_ssus, hq, List.tail_cons]
    refine ⟨fun hbad => ?_, fun es' hresv hsts htype hpos hle hn hk hsrc hoidx hranges hvals hidx hval hout => ?_⟩
    · have hbad : State.selkBad d sts = true := (State.selkBad_iff d sts).mpr (by tauto)
      rw [State.ssuRunDesc_of_bad hbar hlo hhi hselk hbad] at hexec
      exact ⟨_, _, hexec, hhead _, rfl, rfl, State.record_ssuFail _ _ (by decide), rfl⟩
    · have hgood : State.selkBad d sts = false := by
        rw [← Bool.not_eq_true, State.selkBad_iff]
        have hsrc : d.src % selkBytes d.type = 0 := hsrc
        simp only [hresv, hsrc, Bool.false_eq_true, ne_eq, not_true_eq_false, false_or]
        omega
      rw [State.ssuRunDesc_of_good hbar hlo hhi hselk hgood hranges hvals] at hexec
      exact ⟨_, _, State.selected d es', hexec, hhead _, rfl, State.length_selected hle es', State.nodup_selected d es',
        fun i hi => State.lt_of_mem_selected hi, State.glob_selkRun _ _ es' hidx hval hout,
        State.record_selkRun _ _ es' (hle.trans hn), rfl⟩
  case ssuEnd =>
    exact fun cl c rest => State.ssuComplete_arrives
  case ssuReport =>
    exact fun cl c rest => State.ssuComplete_reports
  case query =>
    intro core th r rest hfree hin hth hok
    obtain ⟨t, hexec, hrest, hthread, hothers, hmem⟩ := State.queryStart_takes hfree hin hok
    refine ⟨t, hexec, hrest, ?_, hothers, hmem⟩
    rw [hthread]
    refine ⟨rfl, rfl, rfl, rfl, rfl, ?_, ?_, ?_, fun i hi => ?_, rfl, rfl⟩
    · exact congrArg (· % 2 ^ 57) (Nat.div_one _)
    · rw [State.get_startOn_t, if_pos rfl]
    · rw [State.get_startOn_t, if_neg Nat.one_ne_zero, if_pos rfl]
    · rw [State.get_startOn_t, if_neg (by omega), if_neg (by omega)]
  case fill =>
    exact fun cl line => State.nodeCacheFill_fills
  case counter =>
    exact fun cl line => State.nodeCacheFill_of_counter
  case subquery =>
    intro core th sctx msg hfree hcl hth m w pair nent known
    refine ⟨fun hunknown => ?_, fun hknown hidx hres hlow hnent h37 h38 h39 hok => ?_⟩
    · have hexec := State.subqueryReceive_of_unknown hfree hcl hth hunknown
      exact ⟨_, _, hexec, rfl, State.status_recordOf (show qPEERDOWN < 256 by decide) .., rfl, rfl⟩
    · have hwords : State.WordsOk msg := ⟨hidx, hres, hlow, hnent, h37, h38, h39⟩
      obtain ⟨t, n, hexec, hthread, hothers⟩ := State.subqueryReceive_takes hfree hcl hth hknown hwords hok
      obtain ⟨hreg, hregs⟩ := State.subStart_regs msg n
      refine ⟨t, hexec, ?_, hothers⟩
      rw [hthread]
      exact ⟨rfl, rfl, rfl, rfl, (List.length_map ..).trans List.length_range, hreg, hregs⟩
  case parts =>
    intro th x rest hsubs back late
    have hlate (y : SubOut) : late y ↔ subLate s y = true := decide_eq_true_iff.symm
    refine ⟨fun r htimely => ?_, fun r hx => ?_, fun hx => ?_, ?_⟩
    · have hexec := State.subqueryResult_of_timely hsubs (fun y hy hidx => by
        rw [← Bool.not_eq_true, ← hlate]
        exact htimely y hy hidx) r
      rw [State.partBack_first hsubs] at hexec
      refine ⟨_, hexec, rfl, ?_, ?_, fun n hn => State.trpAt_setTrp_of_ne _ hn _⟩
      · rw [State.trpAt_setTrp_self]
      · rw [State.trpAt_setTrp_self]
    · exact State.subqueryResult_of_late hsubs ((hlate x).mp hx) r
    · rw [State.subqueryLost_eq hsubs, if_neg (mt (hlate x).mpr hx)]
    · intro hx hecho key hroom
      exact State.subqueryLost_ends hsubs ((hlate x).mp hx) hecho hroom
  case stream =>
    intro bid bytes hlive hnone held hfetch
    exact State.streamFetch_of_ok hlive hnone hfetch
  case history =>
    exact s.heldFrom_after
  case streamFault =>
    intro bid c l hlive hnone held hfetch
    obtain ⟨r, hheld, hsource, hcause, hva, hseq⟩ := s.seqFetchFault_records bid (s.seq bid).pc c l
    refine ⟨_, r, State.streamFetch_of_fault hlive hnone hfetch, ?_, ?_, hheld, hsource, hcause, hva⟩
    · rw [hseq]
    · rw [hseq]
  case jobpost =>
    intro g k q hwait x len full
    have hfull : Queue.full x = true ↔ full := State.queue_full_iff x
    rw [State.jobpostResume_eq hwait]
    exact ⟨fun h => by rw [if_pos (hfull.mpr h)], fun h => by rw [if_neg (mt hfull.mp h)]⟩

end Sys2Proof.Machine
end
section
/-! SUPPORT. The counter line at its home (08 Table 8.6): what its quads hold after a write, what the service of a waiting list
may change (R174, R176), and the tokens that Deckle gives and takes (R180). -/

namespace Sys2Proof.Machine.State

/-! ### Quads of a counter line -/

theorem homeBytes_congr {s t : State} {pa n : Nat} (h : ∀ i < n, Tbl.get 0 t.mem (pa + i) = Tbl.get 0 s.mem (pa + i)) :
    t.homeBytes pa n = s.homeBytes pa n :=
  List.map_congr_left fun i hi => h i (List.mem_range.mp hi)

theorem homeBytes_putBytes {s t : State} {pa : Nat} {bs : List Byte} (h : t.mem = putBytes s.mem pa bs) :
    t.homeBytes pa bs.length = bs := by
  refine List.ext_getElem (by simp [homeBytes]) fun i hi _ => ?_
  have hlt : i < bs.length := by simpa [homeBytes] using hi
  simp only [homeBytes]
  rw [List.getElem_map, List.getElem_range, h, get_putBytes, if_pos (by omega), Nat.add_sub_cancel_left,
    List.getD_eq_getElem]

theorem get_mem_setCq_of_apart (s : State) {pa i b : Nat} (v : Nat) (hb : b < pa + 8 * i ∨ pa + 8 * i + 8 ≤ b) :
    Tbl.get 0 (s.setCq pa i v).mem b = Tbl.get 0 s.mem b := by
  rw [setCq, get_putBytes, length_toLe, if_neg (by omega)]

theorem cq_setCq_self (s : State) (pa i v : Nat) : (s.setCq pa i v).cq pa i = v % 2 ^ 64 := by
  have hbytes : (s.setCq pa i v).homeBytes (pa + 8 * i) 8 = toLe 8 v := by
    simpa [length_toLe] using homeBytes_putBytes (s := s) (t := s.setCq pa i v) (bs := toLe 8 v) rfl
  rw [cq, hbytes, leNum_toLe]
  norm_num

theorem cq_congr {s t : State} {pa i : Nat}
    (h : ∀ b, pa + 8 * i ≤ b → b < pa + 8 * i + 8 → Tbl.get 0 t.mem b = Tbl.get 0 s.mem b) :
    t.cq pa i = s.cq pa i :=
  congrArg leNum (homeBytes_congr fun j hj => h _ (by omega) (by omega))

theorem cq_setCq_of_ne (s : State) {pa i j : Nat} (v : Nat) (hij : j ≠ i) : (s.setCq pa i v).cq pa j = s.cq pa j :=
  cq_congr fun _ _ _ => s.get_mem_setCq_of_apart v (by omega)

@[simp] theorem ctrReserve_setReserve (s : State) (pa v : Nat) : (s.setReserve pa v).ctrReserve pa = v % 2 ^ 48 := by
  rw [ctrReserve, setReserve, cq_setCq_self, bitsOf]
  omega

theorem ctrReserve_lt (s : State) (pa : Nat) : s.ctrReserve pa < 2 ^ 48 := Nat.mod_lt _ (by decide)

@[simp] theorem ctrReserve_setCentral (s : State) (pa : Nat) (b : Bool) : (s.setCentral pa b).ctrReserve pa = s.ctrReserve pa := by
  rw [ctrReserve, setCentral, cq_setCq_of_ne s _ (by decide), ctrReserve]

theorem waitsOn_setWaits (s : State) (pa pb : Nat) (l : List CtrWait) :
    (s.setWaits pa l).waitsOn pb = if pb / 64 = pa / 64 then l else s.waitsOn pb := Tbl.get_set ..
@[simp] theorem waitsOn_setWaits_self (s : State) (pa : Nat) (l : List CtrWait) : (s.setWaits pa l).waitsOn pa = l := by
  rw [waitsOn_setWaits, if_pos rfl]

theorem waitsOn_setCq (s : State) (pa i v pb : Nat) : (s.setCq pa i v).waitsOn pb = s.waitsOn pb := rfl
@[simp] theorem waitsOn_setReserve (s : State) (pa v pb : Nat) : (s.setReserve pa v).waitsOn pb = s.waitsOn pb := by
  rw [setReserve, waitsOn_setCq]
@[simp] theorem waitsOn_setCentral (s : State) (pa : Nat) (b : Bool) (pb : Nat) : (s.setCentral pa b).waitsOn pb = s.waitsOn pb := by
  rw [setCentral, waitsOn_setCq]

/-! ### What the service of one counter may change -/

/-- All that services of counters may change: lines in memory, waiting lists, and the parties whose takes are answered. -/
def OnlyServed (s t : State) : Prop :=
  t = { s with mem := t.mem, mtags := t.mtags, ctrWait := t.ctrWait, grps := t.grps, blks := t.blks, cards := t.cards }

theorem onlyServed_of_eq {s t : State} {mem mtags ctrWait grps blks cards}
    (h : t = { s with mem, mtags, ctrWait, grps, blks, cards }) : s.OnlyServed t := by
  rw [h]
  rfl

theorem OnlyServed.trans {s t u : State} (h : s.OnlyServed t) (h' : t.OnlyServed u) : s.OnlyServed u := by
  unfold OnlyServed at h h' ⊢
  rw [h', h]

theorem OnlyServed.dev {s t : State} (h : s.OnlyServed t) : t.dev = s.dev := by rw [h]
theorem OnlyServed.pwr {s t : State} (h : s.OnlyServed t) : t.pwr = s.pwr := by rw [h]
theorem OnlyServed.hbx {s t : State} (h : s.OnlyServed t) : t.hbx = s.hbx := by rw [h]
theorem OnlyServed.queues {s t : State} (h : s.OnlyServed t) : t.queues = s.queues := by rw [h]
theorem OnlyServed.allows {s t : State} (h : s.OnlyServed t) : t.allows = s.allows := by rw [h]

/-- Of memory only quads 0 and 1 of the counter at `pa` may differ, and of the waiting lists its own. -/
structure Serves (pa : Nat) (s t : State) : Prop where
  frame : s.OnlyServed t
  mem : ∀ b, b < pa ∨ pa + 16 ≤ b → Tbl.get 0 t.mem b = Tbl.get 0 s.mem b
  waits : ∀ n, n ≠ pa / 64 → Tbl.get [] t.ctrWait n = Tbl.get [] s.ctrWait n

theorem Serves.refl (pa : Nat) (s : State) : Serves pa s s := ⟨rfl, fun _ _ => rfl, fun _ _ => rfl⟩

theorem Serves.trans {pa : Nat} {s t u : State} (h : Serves pa s t) (h' : Serves pa t u) : Serves pa s u where
  frame := h.frame.trans h'.frame
  mem b hb := (h'.mem b hb).trans (h.mem b hb)
  waits n hn := (h'.waits n hn).trans (h.waits n hn)

theorem serves_setCq (s : State) (pa v : Nat) {i : Nat} (hi : i < 2) : Serves pa s (s.setCq pa i v) where
  frame := onlyServed_of_eq rfl
  mem _ _ := s.get_mem_setCq_of_apart _ (by omega)
  waits _ _ := rfl

theorem serves_setReserve (s : State) (pa v : Nat) : Serves pa s (s.setReserve pa v) := s.serves_setCq pa _ (by decide)
theorem serves_setCentral (s : State) (pa : Nat) (b : Bool) : Serves pa s (s.setCentral pa b) := s.serves_setCq pa _ (by decide)
theorem serves_setOvf (s : State) (pa : Nat) : Serves pa s (s.setOvf pa) := s.serves_setCq pa _ (by decide)
theorem serves_setWaits (s : State) (pa : Nat) (l : List CtrWait) : Serves pa s (s.setWaits pa l) :=
  ⟨rfl, fun _ _ => rfl, fun _ hn => Tbl.get_set_ne _ _ _ hn⟩

theorem serves_joinWaits (s : State) (pa : Nat) (w : CtrWait) : Serves pa s (s.joinWaits pa w) :=
  (s.serves_setWaits pa _).trans (serves_setCentral ..)

/-- An answer to a party touches no counter. -/
theorem grantWaiter_eq (s : State) (w : CtrWait) : s.grantWaiter w =
    { s with grps := (s.grantWaiter w).grps, blks := (s.grantWaiter w).blks, cards := (s.grantWaiter w).cards } := by
  unfold grantWaiter
  split <;> rfl

theorem serves_grantWaiter (s : State) (pa : Nat) (w : CtrWait) : Serves pa s (s.grantWaiter w) := by
  rw [grantWaiter_eq]
  exact ⟨rfl, fun _ _ => rfl, fun _ _ => rfl⟩

@[simp] theorem ctrReserve_grantWaiter (s : State) (w : CtrWait) (pa : Nat) : (s.grantWaiter w).ctrReserve pa = s.ctrReserve pa := by
  rw [grantWaiter_eq]
  rfl
@[simp] theorem waitsOn_grantWaiter (s : State) (w : CtrWait) (pa : Nat) : (s.grantWaiter w).waitsOn pa = s.waitsOn pa := by
  rw [grantWaiter_eq]
  rfl

theorem serves_serveList (fuel : Nat) (s : State) (pa : Nat) : Serves pa s (serveList fuel s pa) := by
  induction fuel generalizing s with
  | zero => exact .refl pa s
  | succ fuel ih =>
    unfold serveList
    split
    case h_1 => exact s.serves_setCentral pa false
    case h_2 =>
      split
      · exact .refl pa s
      · exact (((s.serves_setReserve pa _).trans (serves_setWaits ..)).trans (serves_grantWaiter ..)).trans (ih _)

theorem serves_serveWaiting (s : State) (pa : Nat) : Serves pa s (s.serveWaiting pa) := by
  unfold serveWaiting
  split
  · exact serves_serveList ..
  · exact .refl pa s

theorem serves_homeUnits (s : State) (pa units : Nat) : Serves pa s (s.homeUnits pa units) := by
  have harrive : Serves pa s (s.arriveUnits pa units) := by
    unfold arriveUnits
    dsimp only
    split
    · split
      · exact s.serves_setReserve pa _
      · exact (s.serves_setReserve pa _).trans (serves_setOvf ..)
    · exact .refl pa s
  unfold homeUnits
  split
  · exact harrive.trans (serves_serveWaiting ..)
  · exact .refl pa s

/-! ### The head of a waiting list (R176) -/

/-- A list whose head RESERVE does not cover waits on. -/
theorem serveList_of_short {s : State} {pa : Nat} {w : CtrWait} {rest : List CtrWait} (hwaits : s.waitsOn pa = w :: rest)
    (hshort : s.ctrReserve pa < w.n) (fuel : Nat) : serveList fuel s pa = s := by
  cases fuel with
  | zero => rfl
  | succ fuel => simp [serveList, hwaits, hshort]

theorem serveWaiting_of_short {s : State} {pa : Nat} {w : CtrWait} {rest : List CtrWait} (hwaits : s.waitsOn pa = w :: rest)
    (hshort : s.ctrReserve pa < w.n) : s.serveWaiting pa = s := by
  unfold serveWaiting
  split
  · exact serveList_of_short hwaits hshort _
  · rfl

/-- Where nobody waits, a service clears CENTRAL at most. -/
theorem serveWaiting_of_nil {s : State} {pa : Nat} (hwaits : s.waitsOn pa = []) :
    s.serveWaiting pa = if s.ctrCentral pa = true then s.setCentral pa false else s := by
  simp [serveWaiting, hwaits, serveList]

/-- One grant: the head leaves with its units, and the list is served no further. -/
theorem serveWaiting_of_one {s : State} {pa : Nat} {w : CtrWait} {rest : List CtrWait} (hcentral : s.ctrCentral pa = true)
    (hwaits : s.waitsOn pa = w :: rest) (hcover : w.n ≤ s.ctrReserve pa)
    (hnext : ∀ x ∈ rest.head?, s.ctrReserve pa - w.n < x.n) :
    let t := ((s.setReserve pa (s.ctrReserve pa - w.n)).setWaits pa rest).grantWaiter w
    s.serveWaiting pa = if rest = [] then t.setCentral pa false else t := by
  intro t
  have htwaits : t.waitsOn pa = rest := by simp [t]
  have hfirst : s.serveWaiting pa = serveList (rest.length + 1) t pa := by
    rw [serveWaiting, if_pos hcentral, hwaits, List.length_cons, serveList, hwaits]
    exact if_neg (by omega)
  rw [hfirst]
  cases rest with
  | nil => simp [serveList, htwaits]
  | cons x r =>
    have hlt := s.ctrReserve_lt pa
    have hx := hnext x rfl
    rw [if_neg (List.cons_ne_nil x r), serveList_of_short htwaits]
    have hres : t.ctrReserve pa = (s.ctrReserve pa - w.n) % 2 ^ 48 :=
      (ctrReserve_grantWaiter ..).trans (s.ctrReserve_setReserve pa _)
    rw [hres]
    omega

/-! ### RESERVE and the waiting list together -/

/-- The units at the home of a counter and the takes that wait for more. -/
structure Holds (s : State) (pa n : Nat) (l : List CtrWait) : Prop where
  reserve : s.ctrReserve pa = n
  waits : s.waitsOn pa = l

theorem Holds.congr {s t : State} {pa n : Nat} {l : List CtrWait} (h : s.Holds pa n l) (hmem : t.mem = s.mem)
    (hwait : t.ctrWait = s.ctrWait) : t.Holds pa n l where
  reserve := h.reserve ▸ congrArg (bitsOf · 0 48) (cq_congr fun b _ _ => by rw [hmem])
  waits := by rw [← h.waits, waitsOn, waitsOn, hwait]

theorem deckle_congr {s t : State} (hmem : t.mem = s.mem) : t.deckle = s.deckle :=
  congrArg (bitsOf · 0 48) (cq_congr fun b _ _ => by rw [hmem])

theorem Holds.setReserve {s : State} {pa n v : Nat} {l : List CtrWait} (h : s.Holds pa n l) (hv : v < 2 ^ 48) :
    (s.setReserve pa v).Holds pa v l where
  reserve := by rw [ctrReserve_setReserve, Nat.mod_eq_of_lt hv]
  waits := by rw [waitsOn_setReserve, h.waits]

theorem Holds.setWaits {s : State} {pa n : Nat} {l : List CtrWait} (h : s.Holds pa n l) (l' : List CtrWait) :
    (s.setWaits pa l').Holds pa n l' := ⟨h.reserve, s.waitsOn_setWaits_self pa l'⟩

theorem Holds.setCentral {s : State} {pa n : Nat} {l : List CtrWait} (h : s.Holds pa n l) (b : Bool) :
    (s.setCentral pa b).Holds pa n l :=
  ⟨(s.ctrReserve_setCentral pa b).trans h.reserve, (s.waitsOn_setCentral pa b pa).trans h.waits⟩

theorem Holds.grantWaiter {s : State} {pa n : Nat} {l : List CtrWait} (h : s.Holds pa n l) (w : CtrWait) :
    (s.grantWaiter w).Holds pa n l := ⟨(s.ctrReserve_grantWaiter w pa).trans h.reserve, (s.waitsOn_grantWaiter w pa).trans h.waits⟩

/-- The service of an empty list. -/
theorem Holds.serveWaiting {s : State} {pa n : Nat} (h : s.Holds pa n []) : (s.serveWaiting pa).Holds pa n [] := by
  rw [serveWaiting_of_nil h.waits]
  split
  · exact h.setCentral false
  · exact h

/-- The service of another counter. -/
theorem Holds.of_serves {s t : State} {k m n : Nat} {l : List CtrWait} (h : s.Holds (64 * k) n l) (hne : m ≠ k)
    (hserves : Serves (64 * m) s t) : t.Holds (64 * k) n l where
  reserve := h.reserve ▸ congrArg (bitsOf · 0 48) (cq_congr fun b hlo hhi => hserves.mem b (by omega))
  waits := by rw [← h.waits, waitsOn, waitsOn, hserves.waits _ (by omega)]

/-- Units that arrive while nobody waits and no core holds an allowance. -/
theorem Holds.homeUnits {s : State} {pa n units : Nat} (h : s.Holds pa n []) (hinit : s.ctrInit pa = true)
    (hallow : ∀ y ∈ s.allows, y.1 / 256 ≠ pa / 64) (hfit : n + units < 2 ^ 48) : (s.homeUnits pa units).Holds pa (n + units) [] := by
  have hnone : s.allows.filter (fun p => p.1 / 256 == pa / 64) = [] :=
    List.filter_eq_nil_iff.mpr fun y hy => by simpa using hallow y hy
  have harrive : s.arriveUnits pa units = s.setReserve pa (n + units) := by
    simp only [arriveUnits, hnone, hinit, h.reserve, List.foldl_nil, if_true]
    exact if_pos (by omega)
  rw [State.homeUnits, if_pos hinit, harrive]
  exact (h.setReserve hfit).serveWaiting

/-! ### Takes that leave the lists (R176) -/

theorem dropTakes_of_none {s : State} {gone : CtrWaiter → Bool} (h : ∀ p ∈ s.ctrWait, ∀ w ∈ p.2, gone w.who = false) :
    s.dropTakes gone = s := by
  refine List.foldlRecOn (motive := (· = s)) s.ctrWait _ rfl fun t ht p hp => ?_
  rw [if_neg (by simpa using h p hp), ht]

/-- What a service of any counter keeps is kept when takes leave the lists. -/
theorem dropTakes_keeps {P : State → Prop} {s : State} (gone : CtrWaiter → Bool) (h : P s)
    (hstep : ∀ t k, P t → P ((t.setWaits (64 * k) ((t.waitsOn (64 * k)).filter fun w => !gone w.who)).serveWaiting (64 * k))) :
    P (s.dropTakes gone) := by
  refine List.foldlRecOn s.ctrWait _ h fun t ht p _ => ?_
  split
  · exact hstep t p.1 ht
  · exact ht

theorem serves_dropOn (t : State) (k : Nat) (gone : CtrWaiter → Bool) :
    Serves (64 * k) t ((t.setWaits (64 * k) ((t.waitsOn (64 * k)).filter fun w => !gone w.who)).serveWaiting (64 * k)) :=
  (t.serves_setWaits (64 * k) _).trans (serves_serveWaiting ..)

theorem Holds.dropTakes {s : State} {k n : Nat} (h : s.Holds (64 * k) n []) (gone : CtrWaiter → Bool) :
    (s.dropTakes gone).Holds (64 * k) n [] := by
  refine dropTakes_keeps (P := fun t => t.Holds (64 * k) n []) gone h fun t m ht => ?_
  by_cases hm : m = k
  · subst hm
    rw [ht.waits]
    exact (ht.setWaits []).serveWaiting
  · exact ht.of_serves hm (t.serves_dropOn m gone)

theorem onlyServed_dropTakes (s : State) (gone : CtrWaiter → Bool) : s.OnlyServed (s.dropTakes gone) :=
  dropTakes_keeps (P := s.OnlyServed) gone rfl fun t k ht => ht.trans (t.serves_dropOn k gone).frame

/-! ### Deckle (R180) -/

theorem serves_giveTokens (s : State) (n : Nat) : Serves deckleAt s (s.giveTokens n) := by
  unfold giveTokens
  split
  · exact .refl ..
  · exact serves_homeUnits ..

theorem Holds.giveTokens {s : State} {n units : Nat} (h : s.Holds deckleAt n []) (hinit : s.ctrInit deckleAt = true)
    (hallow : ∀ y ∈ s.allows, y.1 / 256 ≠ deckleAt / 64) (hfit : n + units < 2 ^ 48) :
    (s.giveTokens units).Holds deckleAt (n + units) [] := by
  unfold State.giveTokens
  split
  case isTrue h0 => rwa [h0, Nat.add_zero]
  case isFalse => exact h.homeUnits hinit hallow hfit

/-- Tokens that are there are taken at once. -/
theorem takeTokens_of_covered {s : State} {n m : Nat} (h : s.Holds deckleAt m []) (hn : 0 < n) (hcover : n ≤ m)
    (who : CtrWaiter) : s.takeTokens who n = (s.setReserve deckleAt (m - n), true) := by
  have hm : s.deckle = m := h.reserve
  rw [takeTokens, if_neg (by omega), h.waits, hm, if_pos (by simpa using hcover)]

/-- A take that Deckle does not cover joins the list. -/
theorem takeTokens_of_short {s : State} {n m : Nat} (h : s.Holds deckleAt m []) (hshort : m < n) (who : CtrWaiter) :
    s.takeTokens who n = ({ s.joinWaits deckleAt { who, n } with
      hbx := { (s.joinWaits deckleAt { who, n }).hbx with waitedInPeriod := true } }, false) := by
  have hm : s.deckle = m := h.reserve
  rw [takeTokens, if_neg (by omega), h.waits, hm, if_neg (by simpa using hshort)]

theorem Holds.joinWaits {s : State} {pa n : Nat} {l : List CtrWait} (h : s.Holds pa n l) (w : CtrWait) :
    (s.joinWaits pa w).Holds pa n (l ++ [w]) := by
  rw [State.joinWaits, h.waits]
  exact (h.setWaits _).setCentral true

end Sys2Proof.Machine.State
end

section
/-! SUPPORT. An L1 that is flushed when its core leaves keeps its pins and nothing else, and moves no value (08 R161, R166). -/

namespace Sys2Proof.Machine

/-- An L1 holds nothing of the line but, at most, its pins. -/
def L1Line.Gone (l : L1Line) : Prop := l.valid = 0 ∧ l.owned = false ∧ l.dirty = 0

namespace State

/-! ### The partitions of a core -/

theorem partAt_setPart (s : State) (core part k : Nat) (p : Part) :
    (s.setPart core part p).partAt core k = if k = part then p else s.partAt core k := by
  rw [partAt, setPart, Tbl.get_set]
  exact if_congr (by omega) rfl rfl

/-- The other three partitions of the core are power-gated. -/
def LastOn (s : State) (core part : Nat) : Prop := ∀ k, k < 4 → k ≠ part → (s.partAt core k).gate = .power

theorem all_power_setPart (s : State) (core part : Nat) (p : Part) :
    ((List.range 4).all fun k => (((s.setPart core part { p with gate := .power }).partAt core k).gate == .power)) = true ↔
      s.LastOn core part := by
  simp only [List.all_eq_true, List.mem_range, beq_iff_eq, partAt_setPart]
  constructor
  · intro h k hk hne
    simpa [hne] using h k hk
  · intro h k hk
    by_cases hne : k = part
    · simp [hne]
    · simpa [hne] using h k hk hne

@[simp] theorem setPart_left (s : State) (core part : Nat) (p : Part) : (s.setPart core part p).left = s.left := rfl

/-! ### The flush of one line -/

theorem evictLine_parts (s : State) (core line : Nat) : (s.evictLine core line).parts = s.parts := by
  have hclean (t : State) : (t.cleanLine line).parts = t.parts := by rw [cleanLine_eq]
  have hdrop (t : State) : (t.dropCopy core line).parts = t.parts := by
    unfold dropCopy
    rw [wakeWatch_eq]
    rfl
  have hcache (t : State) : (t.cacheDrop core line).parts = t.parts := by
    obtain ⟨u, hu, hdef⟩ : ∃ u, u.parts = t.parts ∧ u = if (t.l1 core line).dirty = 0 then t else t.cleanLine line := by
      refine ⟨_, ?_, rfl⟩
      split
      · rfl
      · exact hclean t
    have hparts := (hdrop u).trans hu
    unfold cacheDrop
    rw [← hdef]
    dsimp only
    split
    · exact hu
    split
    · exact hparts
    split <;> exact hparts
  unfold evictLine
  split
  · exact hcache s
  split <;> simp [hdrop, hclean]

theorem l1_cacheDrop_of_unpinned {s : State} {core line : Nat} (hpins : (s.l1 core line).pins = 0) :
    (s.cacheDrop core line).l1 core line = {} := by
  obtain ⟨u, hl1, -, hdrop⟩ := cacheDrop_eq hpins
  rw [hdrop, ← hl1]
  dsimp only
  split
  · rfl
  split <;> rfl

/-- A line of an L1 is given up but for its pins. -/
def flushLine (core : Nat) (s : State) (line : Nat) : State :=
  let pins := (s.l1 core line).pins
  let s1 := (s.setL1 core line { s.l1 core line with pins := 0 }).evictLine core line
  if pins = 0 then s1 else s1.setL1 core line { s1.l1 core line with pins }

theorem flushL1_eq (s : State) (core : Nat) : s.flushL1 core true =
    ((s.lines.filter fun p => p.1 % 256 == core).map fun p => p.1 / 256).foldl (flushLine core) s := rfl

/-- What the flush of some lines of an L1 keeps. -/
structure Flushes (core : Nat) (s t : State) : Prop where
  values : s.KeepsValues t
  idle : t.txns = []
  parts : t.parts = s.parts
  gone : ∀ line, (s.l1 core line).Gone → (t.l1 core line).Gone

theorem L1Ok.keeps_pins {s : State} (h : s.L1Ok) (core line pins : Nat) :
    s.KeepsValues (s.setL1 core line { s.l1 core line with pins }) :=
  h.keeps_setL1 rfl rfl id fun hown k hline hk => h.owner_unique hk hown (by rw [hline, lineKey_div])

theorem flushLine_flushes {s : State} (h : s.L1Ok) (hidle : s.txns = []) (core line : Nat) :
    Flushes core s (flushLine core s line) ∧ ((flushLine core s line).l1 core line).Gone := by
  let s0 := s.setL1 core line { s.l1 core line with pins := 0 }
  let s1 := s0.evictLine core line
  have hs0 : s.KeepsValues s0 := h.keeps_pins core line 0
  have hs1 : s.KeepsValues s1 := hs0.trans (hs0.l1Ok.keeps_evictLine core line)
  have hspares : s.Spares s1 (· ≠ line) := (s.spares_setL1 core line _).trans (spares_evictLine ..)
  have hparts : s1.parts = s.parts := evictLine_parts s0 core line
  have hempty : s1.l1 core line = {} := by
    have hfree : s0.lineBusy line = false := by
      rw [lineBusy, show s0.txns = [] from hidle]
      rfl
    have hdrop : s1 = s0.cacheDrop core line := if_pos (by rw [hfree]; rfl)
    rw [hdrop, l1_cacheDrop_of_unpinned]
    rw [l1_setL1_self]
  have hgone (pins : Nat) : ({ s1.l1 core line with pins } : L1Line).Gone := by rw [hempty]; exact ⟨rfl, rfl, rfl⟩
  have hdef : flushLine core s line =
      if (s.l1 core line).pins = 0 then s1 else s1.setL1 core line { s1.l1 core line with pins := (s.l1 core line).pins } := rfl
  have hothers {t : State} (ht : s.Spares t (· ≠ line)) (hself : (t.l1 core line).Gone) (m : Nat)
      (hm : (s.l1 core m).Gone) : (t.l1 core m).Gone := by
    by_cases hne : m = line
    · rwa [hne]
    · rwa [ht.l1 core m hne]
  rw [hdef]
  split
  case isTrue =>
    have hself : (s1.l1 core line).Gone := hgone _
    exact ⟨⟨hs1, hspares.txns.trans hidle, hparts, hothers hspares hself⟩, hself⟩
  case isFalse =>
    have hpin := hspares.trans (s1.spares_setL1 core line { s1.l1 core line with pins := (s.l1 core line).pins })
    have hself : ((s1.setL1 core line { s1.l1 core line with pins := (s.l1 core line).pins }).l1 core line).Gone := by
      rw [l1_setL1_self]
      exact hgone _
    exact ⟨⟨hs1.trans (hs1.l1Ok.keeps_pins ..), hpin.txns.trans hidle, hparts, hothers hpin hself⟩, hself⟩

/-! ### The flush of an L1 -/

theorem flushLines_flush {s : State} (h : s.L1Ok) (hidle : s.txns = []) (core : Nat) (ls : List Nat) :
    Flushes core s (ls.foldl (flushLine core) s) ∧ ∀ line ∈ ls, ((ls.foldl (flushLine core) s).l1 core line).Gone := by
  induction ls generalizing s with
  | nil => exact ⟨⟨.refl h, hidle, rfl, fun _ => id⟩, nofun⟩
  | cons l r ih =>
    obtain ⟨hfirst, hl⟩ := flushLine_flushes h hidle core l
    obtain ⟨hrest, hr⟩ := ih hfirst.values.l1Ok hfirst.idle
    refine ⟨⟨hfirst.values.trans hrest.values, hrest.idle, hrest.parts.trans hfirst.parts,
      fun line hline => hrest.gone line (hfirst.gone line hline)⟩, fun line hline => ?_⟩
    rcases List.mem_cons.mp hline with rfl | hline
    · exact hrest.gone _ hl
    · exact hr line hline

/-- Every line that the L1 lists is flushed; the others it does not hold. -/
theorem flushL1_gone {s : State} (h : s.L1Ok) (hidle : s.txns = []) {core : Nat} (hcore : core < 152) :
    Flushes core s (s.flushL1 core true) ∧ ∀ line, ((s.flushL1 core true).l1 core line).Gone := by
  rw [flushL1_eq]
  obtain ⟨hflush, hlisted⟩ := flushLines_flush h hidle core ((s.lines.filter fun p => p.1 % 256 == core).map fun p => p.1 / 256)
  refine ⟨hflush, fun line => ?_⟩
  by_cases h0 : s.lineAt (lineKey line core) = {}
  · exact hflush.gone line (by rw [l1_eq_lineAt, h0]; exact ⟨rfl, rfl, rfl⟩)
  · refine hlisted line (List.mem_map.mpr ⟨_, List.mem_filter.mpr ⟨mem_of_lineAt_ne h0, ?_⟩, lineKey_div line core⟩)
    rw [beq_iff_eq, lineKey]
    omega

/-! ### Leaving (R166) -/

theorem deliverGives_of_none {s : State} {core : Nat} (h : ∀ m ∈ s.ctrMsgs, m.core ≠ core) : s.deliverGives core = s := by
  have hfilter : s.ctrMsgs.filter (fun m => m.core == core && m.kind == .give) = [] :=
    List.filter_eq_nil_iff.mpr fun m hm => by simp [h m hm]
  have hrest : s.ctrMsgs.filter (fun m => !(m.core == core && m.kind == .give)) = s.ctrMsgs :=
    List.filter_eq_self.mpr fun m hm => by simp [h m hm]
  rw [deliverGives]
  simp only [hfilter, hrest, List.foldl_nil]

/-- A core with no allowance, message or request leaves at once: its L1 is flushed. -/
theorem leaveCore_of_idle {s : State} {core : Nat} (hfused : Tbl.get none s.fused (core / 4) = none)
    (hallows : s.allowsOf core = []) (hmsgs : ∀ m ∈ s.ctrMsgs, m.core ≠ core) (hidle : s.txns = []) :
    s.leaveCore core = { s.flushL1 core true with left := Tbl.set false (s.flushL1 core true).left core true } := by
  have hasks : s.withdrawAsks (· == core) = s := by rw [withdrawAsks, hidle]; rfl
  have hmay : ¬ ((Tbl.get none s.fused (core / 4)).isSome || s.ctrMsgs.any fun m => m.core == core && m.kind != .give) = true := by
    simpa [hfused] using fun m hm hcore => absurd hcore (hmsgs m hm)
  unfold leaveCore
  rw [if_neg hmay]
  simp only [hasks, hallows, List.foldl_nil, deliverGives_of_none hmsgs]

theorem maybeLeave_of_not {s : State} {core : Nat}
    (h : ¬ ((List.range 4).all fun p => (s.partAt core p).gate == .power) = true ∨ Tbl.get false s.left core = true) :
    s.maybeLeave core = s := by
  refine if_neg ?_
  rw [Bool.and_eq_true, Bool.not_eq_true']
  rintro ⟨hleft, hall⟩
  exact h.elim (· hall) fun hgone => by simp [hgone] at hleft

theorem maybeLeave_of_all {s : State} {core : Nat} (hall : ((List.range 4).all fun p => (s.partAt core p).gate == .power) = true)
    (hleft : Tbl.get false s.left core = false) : s.maybeLeave core = s.leaveCore core :=
  if_pos (by rw [hleft, hall]; rfl)

end State
end Sys2Proof.Machine
end

section
/-! SUPPORT. The power controller: gating (15 R297, 08 R166), hang reports (15 R296, R297), the thermal limits and the limited
registers (16 R313, R314), Deckle's target and the grants of its list (13 R270, R271). Settles O49. -/

namespace Sys2Proof.Machine

namespace State

/-! ### Gating -/

section
variable {s : State} {core part : Nat}

theorem exec_powerGate_of_idle (hidle : s.pwr.pgate.toNat ≤ (s.partAt core part).idle) : exec (.powerGate core part) s =
    .next ((s.setPart core part { s.partAt core part with gate := .power }).maybeLeave core) :=
  congrArg Host.Outcome.next (if_pos hidle)

/-- While another partition is on, or the core has left before, only the partition is gated. -/
theorem powerGate_stays (hidle : s.pwr.pgate.toNat ≤ (s.partAt core part).idle)
    (h : ¬ s.LastOn core part ∨ Tbl.get false s.left core = true) :
    exec (.powerGate core part) s = .next (s.setPart core part { s.partAt core part with gate := .power }) := by
  rw [exec_powerGate_of_idle hidle, maybeLeave_of_not]
  exact h.imp_left (mt (s.all_power_setPart core part _).mp)

/-- The last partition takes the core out: its L1 is flushed. -/
theorem powerGate_leaves (hidle : s.pwr.pgate.toNat ≤ (s.partAt core part).idle) (hlast : s.LastOn core part)
    (hleft : Tbl.get false s.left core = false) (hfused : Tbl.get none s.fused (core / 4) = none)
    (hallows : s.allowsOf core = []) (hmsgs : ∀ m ∈ s.ctrMsgs, m.core ≠ core) (htxns : s.txns = []) (hcore : core < 152)
    (hl1 : s.L1Ok) : ∃ t, exec (.powerGate core part) s = .next t ∧ (t.partAt core part).gate = .power ∧
      Tbl.get false t.left core = true ∧ (∀ l, (t.l1 core l).valid = 0 ∧ (t.l1 core l).owned = false ∧ (t.l1 core l).dirty = 0) ∧
      ∀ a, t.peek a = s.peek a := by
  let s1 := s.setPart core part { s.partAt core part with gate := .power }
  obtain ⟨hflush, hgone⟩ := flushL1_gone (s := s1) hl1 htxns hcore
  have hexec := exec_powerGate_of_idle hidle
  rw [maybeLeave_of_all ((s.all_power_setPart core part _).mpr hlast) hleft,
    leaveCore_of_idle (s := s1) hfused hallows hmsgs htxns] at hexec
  refine ⟨_, hexec, ?_, Tbl.get_set_self false (s1.flushL1 core true).left core true, hgone,
    fun a => (peek_congr rfl rfl a).trans (hflush.values.peek a)⟩
  change ((s1.flushL1 core true).partAt core part).gate = .power
  rw [partAt, hflush.parts]
  exact congrArg Part.gate ((s.partAt_setPart core part part _).trans (if_pos rfl))

theorem ungate_rejoins (hoff : (s.partAt core part).gate ≠ .on) (hready : s.candidates core part ≠ []) :
    ∃ t, exec (.ungate core part) s = .next t ∧ (t.partAt core part).gate = .on ∧ Tbl.get false t.left core = false ∧
      t.grps = s.grps ∧ t.mem = s.mem := by
  have hexec : exec (.ungate core part) s = .next ((s.setPart core part {}).joinCore core) :=
    congrArg Host.Outcome.next (if_neg (by simp [hoff, hready]))
  refine ⟨_, hexec, ?_, Tbl.get_erase_self .., rfl, rfl⟩
  exact congrArg Part.gate ((s.partAt_setPart core part part {}).trans (if_pos rfl))

end

/-! ### Writes at the home where no sector is in error -/

/-- No sector holds an uncorrectable error. -/
def AllSound (s : State) : Prop := ∀ q, s.sectorBad q = false

theorem AllSound.of_unlogged {s t : State} (h : s.AllSound) (hu : s.Unlogged t) : t.AllSound := fun q =>
  Sound.of_unlogged (line := q / 4) (fun k _ => h k) hu q rfl

theorem AllSound.logSectors {s : State} (h : s.AllSound) (qs : List Nat) : s.logSectors qs = s := by
  rw [State.logSectors, List.filter_eq_nil_iff.mpr fun q _ => by simp [h q]]
  rfl

theorem unlogged_noteWrite (s : State) (pa n : Nat) : s.Unlogged (s.noteWrite pa n) := by
  rw [noteWrite_eq]
  exact .refl s

/-- A write at the home before its log: lines recalled, tags and healed errors cleared, bytes put. -/
theorem homeWrite_eq (s : State) (pa : Nat) {bs : List Byte} (hbs : bs ≠ []) : ∃ u mem,
    s.homeWrite pa bs = ({ (u.clearTags pa bs.length).clearBad pa bs.length with mem } : State).logSectors (sectorsOf pa bs.length) ∧
      u = (writtenLines pa bs.length).foldl recalled (s.noteWrite pa bs.length) := by
  unfold homeWrite
  rw [if_neg (by simpa using hbs)]
  exact ⟨_, _, rfl, rfl⟩

theorem AllSound.homeWrite {s : State} (h : s.AllSound) (pa : Nat) (bs : List Byte) : s.Unlogged (s.homeWrite pa bs) := by
  rcases eq_or_ne bs [] with rfl | hbs
  · exact .refl s
  obtain ⟨u, mem, hwrite, hu⟩ := s.homeWrite_eq pa hbs
  have hrecall : s.Unlogged u := hu ▸ List.foldlRecOn (motive := fun t : State => s.Unlogged t) _ _ (s.unlogged_noteWrite pa _)
    fun t ht l _ => ht.trans (unlogged_recalled fun q _ => h.of_unlogged ht q)
  have hput : s.Unlogged { (u.clearTags pa bs.length).clearBad pa bs.length with mem } :=
    hrecall.trans (unlogged_clearBad (u.clearTags pa bs.length) pa bs.length)
  rw [hwrite, (h.of_unlogged hput).logSectors]
  exact hput

theorem homeWrite_blks (s : State) (pa : Nat) (bs : List Byte) : (s.homeWrite pa bs).blks = s.blks := by
  rcases eq_or_ne bs [] with rfl | hbs
  · rfl
  obtain ⟨u, mem, hwrite, hu⟩ := s.homeWrite_eq pa hbs
  have hrecall : s.SameUnits u := hu ▸ List.foldlRecOn (motive := s.SameUnits) _ _ (by rw [noteWrite_eq]; exact .refl s)
    fun t ht l _ => ht.trans ((t.sameUnits_invalidate none l).trans (sameUnits_setDir ..))
  rw [hwrite, logSectors_eq]
  exact hrecall.1

theorem peekNat_congr {s t : State} (h : ∀ a, t.peek a = s.peek a) (pa n : Nat) : t.peekNat pa n = s.peekNat pa n := by
  simp only [peekNat, peekBytes, h]

/-- A number written at the home is read there. -/
theorem peekNat_homeWrite_toLe (s : State) (pa n v : Nat) : (s.homeWrite pa (toLe n v)).peekNat pa n = v % 256 ^ n := by
  have hbytes : (s.homeWrite pa (toLe n v)).peekBytes pa n = toLe n v := by
    refine List.ext_getElem (by simp [peekBytes, length_toLe]) fun i hi _ => ?_
    have hlt : i < n := by simpa [peekBytes] using hi
    simp only [peekBytes]
    rw [List.getElem_map, List.getElem_range, peek_homeWrite, length_toLe, if_pos (by omega), Nat.add_sub_cancel_left,
      List.getD_eq_getElem]
  rw [peekNat, hbytes, leNum_toLe]

/-! ### Hang reports -/

/-- A report counts up the context's reports and posts the fault vector; where memory holds no error nothing else is posted. -/
theorem AllSound.trapReport {s : State} (h : s.AllSound) (c : Nat) (why : Reason) (r : Report) :
    (s.trapReport c why r).blks = s.blks ∧ (s.trapReport c why r).dev.msi = s.dev.msi ++ [0] ∧
      (s.trapReport c why r).peekNat (s.ctx c).trarea 8 = (s.peekNat (s.ctx c).trarea 8 + 1) % 2 ^ 64 := by
  obtain ⟨u, hu, hblks, hdef⟩ : ∃ u, s.Unlogged u ∧ u.blks = s.blks ∧ s.trapReport c why r =
      (u.homeWrite (s.ctx c).trarea (toLe 8 (s.peekNat (s.ctx c).trarea 8 + 1))).postMsi 0 := by
    unfold State.trapReport
    refine ⟨_, ?_, ?_, rfl⟩
    · split
      · exact h.homeWrite ..
      · exact .refl s
    · split
      · exact homeWrite_blks ..
      · rfl
  have hcount := (h.of_unlogged hu).homeWrite (s.ctx c).trarea (toLe 8 (s.peekNat (s.ctx c).trarea 8 + 1))
  obtain ⟨-, hdev, -⟩ := hu.trans hcount
  have hblks' := (u.homeWrite_blks (s.ctx c).trarea (toLe 8 (s.peekNat (s.ctx c).trarea 8 + 1))).trans hblks
  have hread := u.peekNat_homeWrite_toLe (s.ctx c).trarea 8 (s.peekNat (s.ctx c).trarea 8 + 1)
  rw [hdef]
  generalize u.homeWrite (s.ctx c).trarea (toLe 8 (s.peekNat (s.ctx c).trarea 8 + 1)) = v at *
  exact ⟨hblks', congrArg (fun d : Dev => d.msi ++ [0]) hdev, (peekNat_congr (fun a => peek_congr rfl rfl a) _ 8).trans hread⟩

theorem hang_reports {s : State} {bid : Nat} (hcounts : s.hangCounts bid = true)
    (hdue : (s.blk bid).hangFrom + s.pwr.hang.toNat ≤ s.clock) (hsound : s.AllSound) :
    ∃ t, exec (.hang bid) s = .next t ∧ (t.blk bid).hangFrom = s.clock ∧ (t.blk bid).phase = (s.blk bid).phase ∧
      t.dev.msi = s.dev.msi ++ [0] ∧
      t.peekNat (s.ctx (s.blk bid).ctx).trarea 8 = (s.peekNat (s.ctx (s.blk bid).ctx).trarea 8 + 1) % 2 ^ 64 := by
  obtain ⟨hblks, hmsi, hcount⟩ := hsound.trapReport (s.blk bid).ctx .hang { bid := some bid }
  have hexec : exec (.hang bid) s = .next ((s.trapReport (s.blk bid).ctx .hang { bid := some bid }).updBlk bid fun b =>
      { b with hangFrom := s.clock }) := congrArg Host.Outcome.next (if_pos (by simp [hcounts, hdue]))
  generalize s.trapReport (s.blk bid).ctx .hang { bid := some bid } = u at *
  refine ⟨_, hexec, ?_, ?_, hmsi, (peekNat_congr (fun a => peek_congr rfl rfl a) _ 8).trans hcount⟩
  · rw [updBlk, blk_setBlk_self]
  · rw [updBlk, blk_setBlk_self, blk, hblks, blk]

/-! ### Deckle's target (R271) -/

/-- A new target of Deckle while nobody waits: a rise is given, a fall is taken, or waits where Deckle does not cover it. -/
theorem setTarget_cases {s : State} {n : Nat} (hfree : s.waitsOn deckleAt = []) (hinit : s.ctrInit deckleAt = true)
    (hallow : ∀ x ∈ s.allows, x.1 / 256 ≠ deckleAt / 64) :
    (s.setTarget n).hbx.dklTarget = n ∧ (s.setTarget n).pwr = s.pwr ∧
      (s.hbx.dklTarget ≤ n → s.deckle + (n - s.hbx.dklTarget) < 2 ^ 48 →
        (s.setTarget n).Holds deckleAt (s.deckle + (n - s.hbx.dklTarget)) []) ∧
      (n < s.hbx.dklTarget → s.hbx.dklTarget - n ≤ s.deckle →
        (s.setTarget n).Holds deckleAt (s.deckle - (s.hbx.dklTarget - n)) []) ∧
      (n < s.hbx.dklTarget → s.deckle < s.hbx.dklTarget - n →
        (s.setTarget n).Holds deckleAt s.deckle [{ who := .power, n := s.hbx.dklTarget - n }]) := by
  let s1 : State := { s with hbx := { s.hbx with dklTarget := n } }
  have hs1 : s1.Holds deckleAt s.deckle [] := Holds.congr ⟨rfl, hfree⟩ rfl rfl
  by_cases hrise : s.hbx.dklTarget ≤ n
  case pos =>
    have hset : s.setTarget n = s1.giveTokens (n - s.hbx.dklTarget) := if_pos hrise
    have hframe := (s1.serves_giveTokens (n - s.hbx.dklTarget)).frame
    rw [hset]
    exact ⟨by rw [hframe.hbx], by rw [hframe.pwr], fun _ hfit => hs1.giveTokens hinit hallow hfit,
      fun h => by omega, fun h => by omega⟩
  case neg =>
    have hset : s.setTarget n = (s1.takeTokens .power (s.hbx.dklTarget - n)).1 := by
      rw [setTarget]
      simp only [if_neg hrise, takeWaits, hfree, List.any_nil, Bool.false_eq_true, if_false]
      rfl
    rw [hset]
    by_cases hcover : s.hbx.dklTarget - n ≤ s.deckle
    case pos =>
      rw [takeTokens_of_covered hs1 (by omega) hcover]
      have hframe := (s1.serves_setReserve deckleAt (s.deckle - (s.hbx.dklTarget - n))).frame
      have hlt : s.deckle < 2 ^ 48 := s.ctrReserve_lt deckleAt
      exact ⟨by rw [hframe.hbx], by rw [hframe.pwr], fun h => by omega, fun _ _ => hs1.setReserve (by omega),
        fun _ h => by omega⟩
    case neg =>
      rw [takeTokens_of_short hs1 (by omega)]
      have hframe := (s1.serves_joinWaits deckleAt { who := .power, n := s.hbx.dklTarget - n }).frame
      refine ⟨by rw [hframe.hbx], hframe.pwr, fun h => by omega, fun _ h => by omega, fun _ _ => ?_⟩
      exact (hs1.joinWaits _).congr rfl rfl

/-- The power and the temperature measured are kept; the Headbox's part becomes `hbx`. -/
def measured (s : State) (w tj : Nat) (hbx : Headbox) : State :=
  { s with pwr := { s.pwr with power := BitVec.ofNat 64 w, tj := BitVec.ofNat 64 tj }, hbx }

theorem Holds.measured {s : State} {pa n : Nat} {l : List CtrWait} (h : s.Holds pa n l) (w tj : Nat) (hbx : Headbox) :
    (s.measured w tj hbx).ctrReserve pa = n ∧ (s.measured w tj hbx).waitsOn pa = l := by
  obtain ⟨hn, hl⟩ := h.congr (t := s.measured w tj hbx) rfl rfl
  exact ⟨hn, hl⟩

section
variable {s : State} {w tj n : Nat}

theorem newTarget_of_lowers (h : s.pwr.budget.toNat < w ∨ s.pwr.tjhot.toNat ≤ tj) :
    s.newTarget w tj = s.hbx.dklTarget - max 32 (32 * ((s.hbx.dklTarget + 511) / 512)) :=
  if_pos (by simpa using h)

theorem newTarget_of_not_lowers (h : ¬ (s.pwr.budget.toNat < w ∨ s.pwr.tjhot.toNat ≤ tj)) : s.newTarget w tj =
    if 10 * w < 9 * s.pwr.budget.toNat ∧ tj + 5 < s.pwr.tjhot.toNat ∧ s.hbx.waitedInPeriod = true then s.hbx.dklTarget + 64
    else s.hbx.dklTarget :=
  (if_neg (by simpa using h)).trans (if_congr (by simp [and_assoc]) rfl rfl)

/-- Once a period the target is set, clamped. -/
theorem exec_deckleAdjust_of_target (hboot : s.dev.bootDone = true) (hhand : s.handOver = false) (hn : s.newTarget w tj = n) :
    let u := s.setTarget (max s.hbx.dklMin (min s.hbx.dklMax n))
    exec (.deckleAdjust w tj) s =
      .next (u.measured w tj { u.hbx with waitedInPeriod := !(State.waitsOn (u.measured w tj u.hbx) deckleAt).isEmpty }) := by
  rw [exec_deckleAdjust, execDeckleAdjust, served, hboot, hhand, hn]
  rfl

/-- What an adjustment does with the target `n`, before the clamp. -/
theorem deckleAdjust_goes (hboot : s.dev.bootDone = true) (hhand : s.handOver = false) (hfree : s.waitsOn deckleAt = [])
    (hinit : s.ctrInit deckleAt = true) (hallow : ∀ x ∈ s.allows, x.1 / 256 ≠ deckleAt / 64) (hn : s.newTarget w tj = n) :
    let t := s.hbx.dklTarget
    let m := max s.hbx.dklMin (min s.hbx.dklMax n)
    ∃ u, exec (.deckleAdjust w tj) s = .next u ∧ u.hbx.dklTarget = m ∧
      u.pwr = { s.pwr with power := BitVec.ofNat 64 w, tj := BitVec.ofNat 64 tj } ∧
      (t ≤ m → s.deckle + (m - t) < 2 ^ 48 → u.deckle = s.deckle + (m - t) ∧ u.waitsOn deckleAt = []) ∧
      (m < t → t - m ≤ s.deckle → u.deckle = s.deckle - (t - m) ∧ u.waitsOn deckleAt = []) ∧
      (m < t → s.deckle < t - m → u.deckle = s.deckle ∧ u.waitsOn deckleAt = [{ who := .power, n := t - m }]) := by
  intro t m
  obtain ⟨hset, hpwr, hrise, hcovered, hshort⟩ := setTarget_cases (n := m) hfree hinit hallow
  refine ⟨_, exec_deckleAdjust_of_target hboot hhand hn, hset, ?_, fun h h' => (hrise h h').measured .., fun h h' =>
    (hcovered h h').measured .., fun h h' => (hshort h h').measured ..⟩
  rw [measured, hpwr]

end

/-! ### Grants of Deckle's list (R270) -/

@[simp] theorem card_updCard_self (s : State) (c : Nat) (f : Card → Card) : (s.updCard c f).card c = f (s.card c) := by
  rw [updCard, card_setCard, if_pos rfl]

theorem card_setCq (s : State) (pa i v c : Nat) : (s.setCq pa i v).card c = s.card c := rfl
@[simp] theorem card_setReserve (s : State) (pa v c : Nat) : (s.setReserve pa v).card c = s.card c := by rw [setReserve, card_setCq]
@[simp] theorem card_setCentral (s : State) (pa : Nat) (b : Bool) (c : Nat) : (s.setCentral pa b).card c = s.card c := by
  rw [setCentral, card_setCq]
@[simp] theorem card_setWaits (s : State) (pa : Nat) (l : List CtrWait) (c : Nat) : (s.setWaits pa l).card c = s.card c := rfl

theorem tokenGrant_grants {s : State} {c n : Nat} {rest : List CtrWait} (hcentral : s.ctrCentral deckleAt = true)
    (hwaits : s.waitsOn deckleAt = { who := .headbox c, n } :: rest) (hcover : n ≤ s.deckle)
    (hnext : ∀ w ∈ rest.head?, s.deckle - n < w.n) :
    ∃ t, exec .tokenGrant s = .next t ∧ t.deckle = s.deckle - n ∧ t.waitsOn deckleAt = rest ∧ (t.card c).tokens = n ∧
      ((s.card c).phase = .tokens → (t.card c).phase = .ready) ∧
      ∀ b, b < deckleAt ∨ deckleAt + 64 ≤ b → Tbl.get 0 t.mem b = Tbl.get 0 s.mem b := by
  have hserve := serveWaiting_of_one hcentral hwaits hcover hnext
  have hmem := (s.serves_serveWaiting deckleAt).mem
  have hlt : s.deckle - n < 2 ^ 48 := by have : s.deckle < 2 ^ 48 := s.ctrReserve_lt deckleAt; omega
  have hstart : s.Holds deckleAt s.deckle ({ who := .headbox c, n } :: rest) := ⟨rfl, hwaits⟩
  have hholds := ((hstart.setReserve hlt).setWaits rest).grantWaiter { who := .headbox c, n }
  have hcard : (((s.setReserve deckleAt (s.deckle - n)).setWaits deckleAt rest).grantWaiter { who := .headbox c, n }).card c =
      { s.card c with tokens := n, phase := if (s.card c).phase = .tokens then .ready else (s.card c).phase } := by
    rw [grantWaiter, card_updCard_self, card_setWaits, card_setReserve]
  change s.serveWaiting deckleAt = if rest = [] then
    (((s.setReserve deckleAt (s.deckle - n)).setWaits deckleAt rest).grantWaiter { who := .headbox c, n }).setCentral deckleAt false
    else ((s.setReserve deckleAt (s.deckle - n)).setWaits deckleAt rest).grantWaiter { who := .headbox c, n } at hserve
  generalize ((s.setReserve deckleAt (s.deckle - n)).setWaits deckleAt rest).grantWaiter { who := .headbox c, n } = u at *
  obtain ⟨v, hv, hvholds, hvcard⟩ : ∃ v, s.serveWaiting deckleAt = v ∧ v.Holds deckleAt (s.deckle - n) rest ∧
      v.card c = u.card c := by
    refine ⟨_, hserve, ?_⟩
    split
    · exact ⟨hholds.setCentral false, card_setCentral ..⟩
    · exact ⟨hholds, rfl⟩
  have hexec : exec .tokenGrant s = .next v := congrArg Host.Outcome.next hv
  rw [hv] at hmem
  refine ⟨v, hexec, hvholds.reserve, hvholds.waits, ?_, fun hphase => ?_, fun b hb => hmem b (by omega)⟩
  · rw [hvcard, hcard]
  · rw [hvcard, hcard]
    exact if_pos hphase

/-! ### Temperature and the limited registers (R313, R314) -/

section
variable {s : State} {tj : Nat}

theorem thermalTrip_trips (h : s.pwr.tjtrip.toNat ≤ tj) : ∃ t, exec (.thermalTrip tj) s = .next t ∧ t.pwr.trip = true ∧
    t.grps = s.grps ∧ (s.pwr.trip = false → t.dev.msi = s.dev.msi ++ [1]) := by
  rw [exec_thermalTrip, execThermalTrip, if_neg (Nat.not_lt.mpr h)]
  unfold logRecord postMsi
  dsimp only
  split
  case isTrue htrip => exact ⟨_, rfl, rfl, rfl, fun hcold => absurd htrip (by simp [hcold])⟩
  case isFalse => exact ⟨_, rfl, rfl, rfl, fun _ => rfl⟩

theorem thermalTripExit_ends {c : Nat} (htrip : s.pwr.trip = true) (hcool : tj + 10 < s.pwr.tjtrip.toNat)
    (hsince : s.pwr.tripBelow = some c) (hlong : c + 750000 ≤ s.clock) :
    exec (.thermalTripExit tj) s = .next { s with pwr := { s.pwr with trip := false, tripBelow := none } } := by
  rw [exec_thermalTripExit, execThermalTripExit, htrip, if_neg (by decide), if_neg (by omega), hsince]
  exact congrArg Host.Outcome.next (if_pos hlong)

theorem thermalTripExit_starts (htrip : s.pwr.trip = true) (hcool : tj + 10 < s.pwr.tjtrip.toNat) (hsince : s.pwr.tripBelow = none) :
    exec (.thermalTripExit tj) s = .next { s with pwr := { s.pwr with tripBelow := some s.clock } } := by
  rw [exec_thermalTripExit, execThermalTripExit, htrip, if_neg (by decide), if_neg (by omega), hsince]

theorem thermal_stops (h : 120 ≤ tj) : ∃ t, exec (.thermal tj) s = .next t ∧ t.pwr.stopped = true ∧ t.dev.fail = true ∧
    t.dev.code = 5 ∧ t.mem = s.mem := by
  rw [exec_thermal, execThermal, if_neg (by omega)]
  exact ⟨_, rfl, rfl, rfl, rfl, rfl⟩

/-- A limited register takes a value within its limits and ignores the others. -/
theorem pwcWrites (hboot : s.dev.bootDone = true) (v : BitVec 64) :
    (200 ≤ v.toNat ∧ v.toNat ≤ 520 → exec (.pwcBudgetWrite v) s = .next { s with pwr := { s.pwr with budget := v } }) ∧
      (v.toNat < 200 ∨ 520 < v.toNat → exec (.pwcBudgetWrite v) s = .next s) ∧
      (60 ≤ v.toNat ∧ v.toNat ≤ 100 → exec (.pwcTjhotWrite v) s = .next { s with pwr := { s.pwr with tjhot := v } }) ∧
      (v.toNat < 60 ∨ 100 < v.toNat → exec (.pwcTjhotWrite v) s = .next s) := by
  simp only [exec_pwcBudgetWrite, exec_pwcTjhotWrite, execPwcBudgetWrite, execPwcTjhotWrite, served, hboot, Bool.true_and,
    Bool.and_eq_true, decide_eq_true_eq]
  refine ⟨fun h => ?_, fun h => ?_, fun h => ?_, fun h => ?_⟩
  · rw [if_pos h]
  · rw [if_neg (by omega)]
  · rw [if_pos h]
  · rw [if_neg (by omega)]

end

end State

open State in
/-- Settles O49: each event fires where its limit is reached and changes nothing before. -/
theorem powerEvents : Obligations.PowerEvents := by
  intro s core part tj bid v p last
  refine ⟨fun hon hidle => ?_, fun hnot => ?_, fun hidle _ => ⟨powerGate_stays hidle, powerGate_leaves hidle⟩, fun hbusy => ?_,
    ungate_rejoins, hang_reports, fun hidle => ?_, thermalTrip_trips, fun hcool => ?_, fun _ => thermalTripExit_ends,
    thermalTripExit_starts, thermal_stops, fun hcool => ?_, fun hboot => pwcWrites hboot v,
    fun w hboot hhand hfree hinit _ hallow => ?_, fun c n rest => tokenGrant_grants, fun w rest hwaits hshort => ?_⟩
  · exact congrArg Host.Outcome.next (if_pos (by rw [Bool.and_eq_true, decide_eq_true_eq, decide_eq_true_eq]; exact ⟨hon, hidle⟩))
  · refine congrArg Host.Outcome.next (if_neg ?_)
    rw [Bool.and_eq_true, decide_eq_true_eq, decide_eq_true_eq]
    exact fun ⟨hon, hidle⟩ => hnot.elim (· hon) (Nat.not_lt.mpr hidle)
  · exact congrArg Host.Outcome.next (if_neg (Nat.not_le.mpr hbusy))
  · exact congrArg Host.Outcome.next (if_neg (by simp [hidle]))
  · exact congrArg Host.Outcome.next (if_pos hcool)
  · exact congrArg Host.Outcome.next (if_pos hcool)
  · intro t lowers raises clamp goes
    refine ⟨fun hlow => ?_, fun hraise => ?_, fun hlow hraise => ?_⟩
    · exact deckleAdjust_goes hboot hhand hfree hinit hallow (newTarget_of_lowers hlow)
    · exact deckleAdjust_goes hboot hhand hfree hinit hallow ((newTarget_of_not_lowers hraise.1).trans (if_pos hraise.2))
    · exact deckleAdjust_goes hboot hhand hfree hinit hallow
        ((newTarget_of_not_lowers hlow).trans (if_neg fun h => hraise ⟨hlow, h⟩))
  · exact congrArg Host.Outcome.next (serveWaiting_of_short hwaits hshort)

end Sys2Proof.Machine
end

section
/-! SUPPORT. The operations of the Headbox on cards and queues (13 R254 to R259): what each leaves of the cards, the queues and
memory, what its accesses answer, and the check of a card. -/

namespace Sys2Proof.Machine

/-- A queue that serves a card no more; releases that waited for its ready list join it while there is room. -/
def Queue.advanced (y : Queue) (c : Nat) : Queue :=
  { y with card := y.card.filter (· != c), rel := y.rel.filter (· != c),
           ready := y.ready ++ y.waiting.take (64 - y.ready.length), waiting := y.waiting.drop (64 - y.ready.length) }

namespace State

/-! ### Cards and queues after a write -/

section
variable (s : State) (c q : Nat) (f : Card → Card) (g : Queue → Queue)

@[simp] theorem card_updQueue (d : Nat) : (s.updQueue q g).card d = s.card d := rfl
@[simp] theorem queue_updCard (r : Nat) : (s.updCard c f).queue r = s.queue r := rfl
@[simp] theorem queue_updQueue_self : (s.updQueue q g).queue q = g (s.queue q) := by rw [updQueue, queue_setQueue_self]
@[simp] theorem updCard_mem : (s.updCard c f).mem = s.mem := rfl
@[simp] theorem updCard_dev : (s.updCard c f).dev = s.dev := rfl
@[simp] theorem updCard_hbx : (s.updCard c f).hbx = s.hbx := rfl
@[simp] theorem updCard_blks : (s.updCard c f).blks = s.blks := rfl
@[simp] theorem updCard_grps : (s.updCard c f).grps = s.grps := rfl
@[simp] theorem updCard_queues : (s.updCard c f).queues = s.queues := rfl
@[simp] theorem updCard_clock : (s.updCard c f).clock = s.clock := rfl
@[simp] theorem updQueue_mem : (s.updQueue q g).mem = s.mem := rfl
@[simp] theorem updQueue_dev : (s.updQueue q g).dev = s.dev := rfl
@[simp] theorem updQueue_hbx : (s.updQueue q g).hbx = s.hbx := rfl
@[simp] theorem updQueue_blks : (s.updQueue q g).blks = s.blks := rfl
@[simp] theorem updQueue_cards : (s.updQueue q g).cards = s.cards := rfl

@[simp] theorem queue_advanceQueue_self : (s.advanceQueue q c).queue q = (s.queue q).advanced c := queue_updQueue_self ..
@[simp] theorem card_advanceQueue (d : Nat) : (s.advanceQueue q c).card d = s.card d := rfl
@[simp] theorem advanceQueue_mem : (s.advanceQueue q c).mem = s.mem := rfl
@[simp] theorem advanceQueue_dev : (s.advanceQueue q c).dev = s.dev := rfl
@[simp] theorem advanceQueue_hbx : (s.advanceQueue q c).hbx = s.hbx := rfl
@[simp] theorem advanceQueue_blks : (s.advanceQueue q c).blks = s.blks := rfl
@[simp] theorem advanceQueue_grps : (s.advanceQueue q c).grps = s.grps := rfl
@[simp] theorem advanceQueue_cards : (s.advanceQueue q c).cards = s.cards := rfl

@[simp] theorem card_failCard_self (e : Nat × Nat × Nat) : (s.failCard c e).card c =
    { s.card c with err := (s.card c).err.or (some e), phase := .running } := card_updCard_self ..
@[simp] theorem queue_failCard (e : Nat × Nat × Nat) (r : Nat) : (s.failCard c e).queue r = s.queue r := rfl
@[simp] theorem failCard_mem (e : Nat × Nat × Nat) : (s.failCard c e).mem = s.mem := rfl

@[simp] theorem card_passHead (b : Bool) (d : Nat) : (s.passHead q b).card d = s.card d := rfl
@[simp] theorem passHead_mem (b : Bool) : (s.passHead q b).mem = s.mem := rfl
@[simp] theorem passHead_cards (b : Bool) : (s.passHead q b).cards = s.cards := rfl
@[simp] theorem queue_passHead_self (b : Bool) : (s.passHead q b).queue q =
    if b then (s.queue q).pastHead else { s.queue q with ready := (s.queue q).ready.drop 1 } := queue_updQueue_self ..

@[simp] theorem card_stopQueue (d : Nat) : (s.stopQueue q g).card d = s.card d := rfl
@[simp] theorem stopQueue_cards : (s.stopQueue q g).cards = s.cards := rfl
@[simp] theorem stopQueue_mem : (s.stopQueue q g).mem = s.mem := rfl
@[simp] theorem queue_stopQueue_self : (s.stopQueue q g).queue q = g (s.queue q) := queue_updQueue_self ..
@[simp] theorem stopQueue_msi : (s.stopQueue q g).dev.msi = s.dev.msi ++ [3 + q] := rfl

end

/-- The Headbox keeps nothing of a card. -/
def dropCard (s : State) (c : Nat) : State := { s with cards := Tbl.erase s.cards c }

@[simp] theorem queue_dropCard (s : State) (c q : Nat) : (s.dropCard c).queue q = s.queue q := rfl
@[simp] theorem dropCard_mem (s : State) (c : Nat) : (s.dropCard c).mem = s.mem := rfl
@[simp] theorem dropCard_dev (s : State) (c : Nat) : (s.dropCard c).dev = s.dev := rfl
@[simp] theorem has_dropCard (s : State) (c : Nat) : Tbl.has (s.dropCard c).cards c = false :=
  Tbl.has_of_lookup_eq_none (Tbl.lookup_erase_self s.cards c)

theorem card_congr {s t : State} (h : t.cards = s.cards) (c : Nat) : t.card c = s.card c := by rw [card, h, card]
theorem queue_congr {s t : State} (h : t.queues = s.queues) (q : Nat) : t.queue q = s.queue q := by rw [queue, h, queue]

/-! ### Fresh numbers -/

theorem lt_freshId {α : Type} (s : State) (t : Tbl α) {p : Nat × α} (hp : p ∈ t) : p.1 < s.freshId t := by
  have hmax (l : Tbl α) (m : Nat) : m ≤ l.foldl (fun m p => max m p.1) m ∧
      ∀ p ∈ l, p.1 ≤ l.foldl (fun m p => max m p.1) m := by
    induction l generalizing m with
    | nil => exact ⟨le_rfl, nofun⟩
    | cons q r ih =>
      obtain ⟨hm, hr⟩ := ih (max m q.1)
      refine ⟨(le_max_left ..).trans hm, fun p hp => ?_⟩
      rcases List.mem_cons.mp hp with rfl | hp
      · exact (le_max_right ..).trans hm
      · exact hr p hp
  exact Nat.lt_succ_of_le ((hmax t s.ids).2 p hp)

theorem lookup_freshId {α : Type} (s : State) (t : Tbl α) : t.lookup (s.freshId t) = none := by
  rw [List.lookup_eq_none_iff]
  intro p hp
  simpa using (s.lt_freshId t hp).ne'

/-! ### Accesses for a card -/

theorem hbxRead_of_ok {s t : State} {c va n : Nat} {bs : List Byte} {bad : Bool} (acc : Nat)
    (h : s.engRead none (s.card c).ctx va n = (.ok (bs, bad), t)) :
    s.hbxRead c va n acc = .ok (bs, bad, if bad then t.logError va else t) := by
  rw [hbxRead, h]

theorem hbxWrite_of_ok {s t : State} {c va : Nat} {bs : List Byte} (acc : Nat)
    (h : s.engWrite none (s.card c).ctx va bs = (.ok (), t)) : s.hbxWrite c va bs acc = .ok t := by
  rw [hbxWrite, h]

/-! ### The check of a card (R258) -/

/-- Its bytes have been read and checked. -/
def checked (s : State) (c : Nat) (quads : List Quad) : State :=
  s.updCard c fun k => { k with quads, phase := .ready, fails := 0, rereadAt := none }

@[simp] theorem card_checked_self (s : State) (c : Nat) (quads : List Quad) : (s.checked c quads).card c =
    { s.card c with quads, phase := .ready, fails := 0, rereadAt := none } := card_updCard_self ..
@[simp] theorem queue_checked (s : State) (c : Nat) (quads : List Quad) (q : Nat) : (s.checked c quads).queue q = s.queue q := rfl
@[simp] theorem checked_mem (s : State) (c : Nat) (quads : List Quad) : (s.checked c quads).mem = s.mem := rfl

section
variable {s : State} {q c : Nat} {bs : List Byte}

/-- The card names a queue of another context, or breaks its format. -/
def Misdirected (s : State) (c : Nat) (bs : List Byte) : Bool :=
  badCard (quadsOf bs) ((s.queue (cardQsel (quadsOf bs))).ctx == (s.card c).ctx)

variable (hread : s.engRead none (s.card c).ctx (s.card c).va 128 = (.ok (bs, false), s))
include hread

theorem tryCard_of_failed (hok : cardOk bs = false) : s.tryCard q c = s.failedRead q c := by
  rw [tryCard, hbxRead_of_ok 0 hread]
  exact if_pos (by rw [hok]; rfl)

theorem tryCard_of_misdirected (hok : cardOk bs = true) (hbad : s.Misdirected c bs = true) :
    s.tryCard q c = ((s.checked c (quadsOf bs)).passHead q (s.card c).fromRing).failCard c (2, 0, 0) := by
  unfold Misdirected at hbad
  rw [tryCard, hbxRead_of_ok 0 hread]
  simp only [hok, hbad, Bool.not_true, Bool.or_self, Bool.false_eq_true, if_false, Bool.not_false, if_true]
  rfl

theorem tryCard_of_released (hok : cardOk bs = true) (hgood : s.Misdirected c bs = false) (hlist : (s.card c).fromRing = false) :
    s.tryCard q c = (s.checked c (quadsOf bs)).passHead q false := by
  unfold Misdirected at hgood
  rw [tryCard, hbxRead_of_ok 0 hread]
  simp only [hok, hgood, hlist, Bool.not_true, Bool.or_self, Bool.false_eq_true, if_false, Bool.not_false, if_true]
  rfl

/-- A card of the ring has SEEN set. -/
theorem tryCard_of_ring {u : State} (hok : cardOk bs = true) (hgood : s.Misdirected c bs = false)
    (hring : (s.card c).fromRing = true)
    (hwrite : s.engWrite none (s.card c).ctx ((s.card c).va + 8)
      (toLe 4 (leNum ((bs.drop 8).take 4) % 2 ^ 31 + 2 ^ 31)) = (.ok (), u)) :
    let t := (u.checked c (quadsOf bs)).passHead q true
    let later := t.updQueue q fun x => { x with passed := x.passed ++ [((s.card c).va, (s.card c).dev, (quadsOf bs).getD 0 0)] }
    s.tryCard q c = if leNum ((bs.drop 8).take 4) % 2 ^ 31 = 0 then t
      else (later.dropCard c).advanceQueue q c := by
  unfold Misdirected at hgood
  rw [tryCard, hbxRead_of_ok 0 hread]
  simp only [hok, hgood, hring, Bool.not_true, Bool.or_self, Bool.false_eq_true, if_false, Bool.not_false, hbxWrite_of_ok 2 hwrite]
  rfl

end

/-- A failed read that is not the fourth. -/
theorem failedRead_of_few {s : State} {c : Nat} (h : (s.card c).fails < 3) (q : Nat) : s.failedRead q c =
    s.updCard c fun y => { y with fails := (s.card c).fails + 1, rereadAt := some (s.clock + 3000) } := by
  rw [failedRead, if_neg (by omega)]
  simp only [updCard]

/-- The fourth: the queue is torn. -/
theorem failedRead_of_many {s : State} {c : Nat} (h : 3 ≤ (s.card c).fails) (q : Nat) : s.failedRead q c =
    (if (s.card c).fromRing then (s.dropCard c).advanceQueue q c
     else (s.updCard c fun k => { k with fails := 0, rereadAt := none }).updQueue q fun x =>
       { x with cur := BitVec.ofNat 57 (s.card c).va }).stopQueue q fun x => { x with torn := true } := by
  rw [failedRead, if_pos h]
  rfl

/-! ### The head of a queue (R258, R259) -/

theorem not_ended_of_readable {s : State} {q : Nat} (h : s.readable q = true) : (s.ctx (s.queue q).ctx).ended = false := by
  simp only [readable, dispatches, Bool.and_eq_true, Bool.not_eq_true'] at h
  obtain ⟨-, ⟨-, hended⟩, -⟩ := h
  exact hended

theorem lt_of_readable {s : State} {q : Nat} (h : s.readable q = true) : q < 32 := by
  simp only [readable, Bool.and_eq_true, decide_eq_true_eq] at h
  obtain ⟨⟨⟨⟨hq, -⟩, -⟩, -⟩, -⟩ := h
  exact hq

theorem exec_cardFetch_of_readable {s : State} {q : Nat} (h : s.readable q = true) : exec (.cardFetch q) s = .next (s.nextCard q) := by
  rw [exec_cardFetch, execCardFetch]
  simp only [not_ended_of_readable h, h, Bool.and_false, Bool.false_eq_true, if_false, Bool.not_true]

/-- The card taken up from the head of the ready list, or from the head of the ring, still to be read. -/
theorem nextCard_of_taken {s : State} {q c : Nat} (hphase : (s.card c).phase = .fetch) (hflt : (s.card c).fltWait = false)
    (hreread : (s.card c).rereadAt = none)
    (htaken : (s.queue q).rel = some c ∨ (s.queue q).rel = none ∧ (s.queue q).ready = [] ∧ (s.queue q).card = some c) :
    s.nextCard q = s.tryCard q c := by
  have htries : ((s.card c).phase == .fetch && !(s.card c).fltWait && (s.card c).rereadAt.isNone) = true := by
    rw [hphase, hflt, hreread]
    rfl
  unfold nextCard
  rcases htaken with hrel | ⟨hrel, hready, hcard⟩
  · simp only [hrel, Option.toList_some, List.cons_append, List.nil_append, List.find?_cons_of_pos (p := fun c =>
      (s.card c).phase == .fetch && !(s.card c).fltWait && (s.card c).rereadAt.isNone) htries]
  · simp only [hrel, hready, hcard, Option.toList_some, Option.toList_none, List.nil_append, List.find?_cons_of_pos (p := fun c =>
      (s.card c).phase == .fetch && !(s.card c).fltWait && (s.card c).rereadAt.isNone) htries]

/-- The same card, as a step of its queue. -/
theorem exec_cardFetch_of_taken {s : State} {q c : Nat} (hreadable : s.readable q = true)
    (hreread : (s.card c).rereadAt = none) (hphase : (s.card c).phase = .fetch) (hflt : (s.card c).fltWait = false)
    (htaken : (s.queue q).rel = some c ∧ (s.card c).fromRing = false ∨
      (s.queue q).rel = none ∧ (s.queue q).ready = [] ∧ (s.queue q).card = some c ∧ (s.card c).fromRing = true) :
    exec (.cardFetch q) s = .next (s.tryCard q c) := by
  rw [exec_cardFetch_of_readable hreadable, nextCard_of_taken hphase hflt hreread]
  rcases htaken with ⟨hrel, -⟩ | ⟨hrel, hready, hcard, -⟩
  · exact .inl hrel
  · exact .inr ⟨hrel, hready, hcard⟩

end State
end Sys2Proof.Machine
end

section
/-! SUPPORT. What becomes of the card at the head of a queue when it is read, and when it is read again (13 R255, R258, R259, R263). -/

namespace Sys2Proof.Machine
namespace State

/-! ### The first read (R258) -/

section
variable {s : State} {q c : Nat} {bs : List Byte}

/-- Four failed reads tear the queue; a card of the ring is dropped, a released one keeps its place. -/
theorem tryCard_tears (hread : s.engRead none (s.card c).ctx (s.card c).va 128 = (.ok (bs, false), s)) (hok : cardOk bs = false)
    (hmany : 3 ≤ (s.card c).fails) :
    ((s.tryCard q c).queue q).torn = true ∧ (s.tryCard q c).dev.msi = s.dev.msi ++ [3 + q] ∧ (s.tryCard q c).mem = s.mem ∧
      ((s.card c).fromRing = true → (s.queue q).card = some c →
        ((s.tryCard q c).queue q).card = none ∧ Tbl.has (s.tryCard q c).cards c = false) ∧
      ((s.card c).fromRing = false → ((s.tryCard q c).queue q).rel = (s.queue q).rel ∧
        (s.tryCard q c).card c = { s.card c with fails := 0, rereadAt := none }) := by
  rw [tryCard_of_failed hread hok, failedRead_of_many hmany]
  cases hring : (s.card c).fromRing with
  | true =>
    rw [if_pos rfl]
    exact ⟨by simp, by simp, by simp, fun _ hcard => ⟨by simp [Queue.advanced, hcard], by simp⟩, nofun⟩
  | false =>
    rw [if_neg Bool.false_ne_true]
    exact ⟨by simp, by simp, by simp, nofun, fun _ => ⟨by simp, by simp⟩⟩

/-- A card of the ring that passes its checks: it is due to run, or passed over while predecessors are left. -/
theorem tryCard_sees {u : State} (hread : s.engRead none (s.card c).ctx (s.card c).va 128 = (.ok (bs, false), s))
    (hok : cardOk bs = true) (hgood : s.Misdirected c bs = false) (hring : (s.card c).fromRing = true) (hhead : (s.queue q).card = some c)
    (hwrite : s.engWrite none (s.card c).ctx ((s.card c).va + 8)
      (toLe 4 (leNum ((bs.drop 8).take 4) % 2 ^ 31 + 2 ^ 31)) = (.ok (), u))
    (hqueues : u.queues = s.queues) :
    (s.tryCard q c).mem = u.mem ∧ ((s.tryCard q c).queue q).head = (Queue.pastHead (s.queue q)).head ∧
      (leNum ((bs.drop 8).take 4) % 2 ^ 31 = 0 →
        ((s.tryCard q c).card c).phase = .ready ∧ ((s.tryCard q c).card c).quads = quadsOf bs) ∧
      (leNum ((bs.drop 8).take 4) % 2 ^ 31 ≠ 0 → Tbl.has (s.tryCard q c).cards c = false ∧
        ((s.tryCard q c).queue q).card = none ∧
        ((s.tryCard q c).queue q).passed = (s.queue q).passed ++ [((s.card c).va, (s.card c).dev, (quadsOf bs).getD 0 0)]) := by
  rw [tryCard_of_ring hread hok hgood hring hwrite]
  have hqueue : u.queue q = s.queue q := queue_congr hqueues q
  split
  case isTrue h0 => exact ⟨by simp, by simp [hqueue], fun _ => ⟨by simp, by simp⟩, fun h => absurd h0 h⟩
  case isFalse h0 =>
    exact ⟨by simp, by simp [Queue.advanced, Queue.pastHead, hqueue], fun h => absurd h h0, fun _ => ⟨by simp,
      by simp [Queue.advanced, Queue.pastHead, hqueue, hhead], by simp [Queue.advanced, Queue.pastHead, hqueue]⟩⟩

/-- What the read of a released card leaves: it stays the one taken up, with its address, context and capability. -/
theorem tryCard_keeps_released (hread : s.engRead none (s.card c).ctx (s.card c).va 128 = (.ok (bs, false), s))
    (hlist : (s.card c).fromRing = false) (hfew : (s.card c).fails < 3) :
    ((s.tryCard q c).queue q).rel = (s.queue q).rel ∧ ((s.tryCard q c).queue q).card = (s.queue q).card ∧
      ((s.tryCard q c).card c).va = (s.card c).va ∧ ((s.tryCard q c).card c).ctx = (s.card c).ctx ∧
      ((s.tryCard q c).card c).dev = (s.card c).dev ∧ ((s.tryCard q c).card c).fromRing = false := by
  cases hok : cardOk bs with
  | false =>
    rw [tryCard_of_failed hread hok, failedRead_of_few hfew]
    simp [hlist]
  | true =>
    cases hgood : s.Misdirected c bs with
    | true =>
      rw [tryCard_of_misdirected hread hok hgood, hlist]
      simp [hlist]
    | false =>
      rw [tryCard_of_released hread hok hgood hlist]
      simp [hlist]

end

/-! ### A released card is taken up (R259, R263) -/

section
variable {s : State} {q ctx va : Nat} {dev : Option Cap} {e : Quad}

theorem updQueue_congr {f g : Queue → Queue} (h : f (s.queue q) = g (s.queue q)) : s.updQueue q f = s.updQueue q g := by
  rw [updQueue, h, updQueue]

/-- The capability of a card comes from the first queue that has passed it over, which keeps it no longer. -/
theorem takePassed_of_first (hq : q < 32) (hctx : (s.queue q).ctx = ctx) (hpassed : (s.queue q).passed = [(va, dev, e)])
    (hfirst : ∀ p, p < q → (s.queue p).passed = []) :
    s.takePassed ctx va = (dev, s.updQueue q fun y => { y with passed := [] }) := by
  have hfind : ((List.range 32).find? fun p => (s.queue p).ctx == ctx && (s.queue p).passed.any fun x => x.1 == va) = some q := by
    rw [List.find?_range_eq_some]
    refine ⟨by simp [hctx, hpassed], List.mem_range.mpr hq, fun p hp => by simp [hfirst p hp]⟩
  have hgone : (s.updQueue q fun x => { x with passed := x.passed.eraseP fun p => p.1 == va }) =
      s.updQueue q fun y => { y with passed := [] } := updQueue_congr (by simp [hpassed])
  rw [takePassed, hfind]
  simp only [hgone, hpassed, List.lookup_cons_self, Option.bind_some]

/-- A released card once it is taken up, before it is read. -/
def takenUp (s : State) (q ctx va : Nat) (dev : Option Cap) : State :=
  let d := s.freshId s.cards
  ((((s.updQueue q fun y => { y with passed := [] }).takeId d).setCard d
    { phase := .fetch, ctx, va, queue := q, dev }).updQueue q fun y => { y with rel := some d, cur := BitVec.ofNat 57 va })

theorem exec_cardFetch_of_released {rest : List (Nat × Nat)} (hreadable : s.readable q = true) (hrel : (s.queue q).rel = none)
    (hready : (s.queue q).ready = (ctx, va) :: rest) (hctx : (s.queue q).ctx = ctx)
    (hpassed : (s.queue q).passed = [(va, dev, e)]) (hfirst : ∀ p, p < q → (s.queue p).passed = []) :
    exec (.cardFetch q) s = .next ((s.takenUp q ctx va dev).tryCard q (s.freshId s.cards)) := by
  rw [exec_cardFetch_of_readable hreadable, nextCard]
  simp only [hrel, hready, takePassed_of_first (lt_of_readable hreadable) hctx hpassed hfirst]
  rfl

theorem card_takenUp (s : State) (q ctx va : Nat) (dev : Option Cap) :
    (s.takenUp q ctx va dev).card (s.freshId s.cards) = { phase := .fetch, ctx, va, queue := q, dev } := by
  rw [takenUp]
  simp only [card_updQueue, card_setCard, if_true]

theorem queue_takenUp (s : State) (q ctx va : Nat) (dev : Option Cap) : (s.takenUp q ctx va dev).queue q =
    { s.queue q with passed := [], rel := some (s.freshId s.cards), cur := BitVec.ofNat 57 va } := by
  rw [takenUp, queue_updQueue_self]
  have hset (t : State) (d : Nat) (k : Card) : ((t.takeId d).setCard d k).queue q = t.queue q := rfl
  rw [hset, queue_updQueue_self]

theorem cardFetch_released {rest : List (Nat × Nat)} {bs : List Byte} (hreadable : s.readable q = true)
    (hrel : (s.queue q).rel = none) (hready : (s.queue q).ready = (ctx, va) :: rest) (hctx : (s.queue q).ctx = ctx)
    (hpassed : (s.queue q).passed = [(va, dev, e)]) (hfirst : ∀ p, p < q → (s.queue p).passed = [])
    (hread : (s.takenUp q ctx va dev).engRead none ctx va 128 = (.ok (bs, false), s.takenUp q ctx va dev)) :
    let d := s.freshId s.cards
    ∃ t, exec (.cardFetch q) s = .next t ∧ (t.queue q).rel = some d ∧ (t.queue q).card = (s.queue q).card ∧
      (t.card d).va = va ∧ (t.card d).ctx = ctx ∧ (t.card d).dev = dev ∧ (t.card d).fromRing = false := by
  intro d
  have hcard : (s.takenUp q ctx va dev).card d = { phase := .fetch, ctx, va, queue := q, dev } := card_takenUp ..
  have hqueue := s.queue_takenUp q ctx va dev
  refine ⟨_, exec_cardFetch_of_released hreadable hrel hready hctx hpassed hfirst, ?_⟩
  have hkept := tryCard_keeps_released (s := s.takenUp q ctx va dev) (c := d) (q := q) (bs := bs)
    (by rw [hcard]; exact hread) (by rw [hcard]) (by rw [hcard]; exact Nat.zero_lt_succ 2)
  rw [hcard, hqueue] at hkept
  exact hkept

end

/-! ### A card is read again (R258) -/

section
variable {s : State} {q c : Nat}

/-- The one card that a queue has taken up, when it is due. -/
theorem exec_cardReread_of_one (hreadable : s.readable q = true)
    (honly : (s.queue q).rel = some c ∧ (s.queue q).card = none ∨ (s.queue q).rel = none ∧ (s.queue q).card = some c) :
    exec (.cardReread q) s = .next (
      if (!(s.card c).fltWait && (s.card c).rereadAt.any (· ≤ s.clock)) = true then
        if (s.card c).phase = .entry then ((s.dropCard c).advanceQueue q c).ringCard q (s.card c).fails
        else (s.updCard c fun k => { k with rereadAt := none }).tryCard q c
      else s) := by
  have hone : (s.queue q).rel.toList ++ (s.queue q).card.toList = [c] := by
    rcases honly with ⟨hrel, hcard⟩ | ⟨hrel, hcard⟩ <;> simp [hrel, hcard]
  rw [exec_cardReread, execCardReread]
  cases hdue : !(s.card c).fltWait && (s.card c).rereadAt.any (· ≤ s.clock) with
  | true =>
    simp only [hreadable, hone, List.find?_singleton, hdue, if_true]
    rfl
  | false => simp only [hreadable, hone, List.find?_singleton, hdue, if_true, Bool.false_eq_true, if_false]

end

end State
end Sys2Proof.Machine
end

section
/-! SUPPORT. One step of each kind of card but GRID (13 R260 to R264): what it leaves of the card, its queue and memory. -/

namespace Sys2Proof.Machine
namespace State

/-! ### The card that a dispatch step serves (R260) -/

/-- A queue is the one last served. -/
def serving (s : State) (q : Nat) : State := { s with hbx := { s.hbx with lastServed := q } }

@[simp] theorem card_serving (s : State) (q c : Nat) : (s.serving q).card c = s.card c := rfl
@[simp] theorem queue_serving (s : State) (q r : Nat) : (s.serving q).queue r = s.queue r := rfl
@[simp] theorem serving_mem (s : State) (q : Nat) : (s.serving q).mem = s.mem := rfl
@[simp] theorem serving_blks (s : State) (q : Nat) : (s.serving q).blks = s.blks := rfl

theorem ready_of_servedCard {s : State} {q c : Nat} (h : s.servedCard q = some c) : (s.card c).phase = .ready := by
  unfold servedCard at h
  dsimp only at h
  split at h
  · cases h
  have hready := List.find?_some h
  simp only [cardReady, Bool.and_eq_true, beq_iff_eq] at hready
  obtain ⟨⟨⟨⟨⟨⟨⟨hphase, -⟩, -⟩, -⟩, -⟩, -⟩, -⟩, -⟩ := hready
  exact hphase

section
variable {s : State} {c kind : Nat}

theorem kind_of_isServed (h : s.isServed c kind = true) : cardKind (s.card c).quads = kind := by
  rw [isServed, Bool.and_eq_true, beq_iff_eq] at h
  exact h.2

theorem ready_of_isServed (h : s.isServed c kind = true) : (s.card c).phase = .ready := by
  rw [isServed, Bool.and_eq_true] at h
  obtain ⟨hserved, -⟩ := h
  split at hserved
  case h_1 q _ =>
    simp only [Bool.and_eq_true, beq_iff_eq] at hserved
    obtain ⟨⟨hcard, -⟩, -⟩ := hserved
    exact ready_of_servedCard hcard
  case h_2 => cases hserved

end

/-! ### CHAIN, SIGNAL and COPY -/

/-- The card's work has begun, and its queue serves it no more. -/
def begun (s : State) (c q : Nat) : State := (s.updCard c fun k => { k with phase := .running }).advanceQueue q c

section
variable (s : State) (c q : Nat)

@[simp] theorem card_begun_self : (s.begun c q).card c = { s.card c with phase := .running } := by simp [begun]
@[simp] theorem queue_begun_self : (s.begun c q).queue q = (s.queue q).advanced c := by simp [begun]
@[simp] theorem begun_mem : (s.begun c q).mem = s.mem := rfl
@[simp] theorem begun_blks : (s.begun c q).blks = s.blks := rfl
@[simp] theorem begun_grps : (s.begun c q).grps = s.grps := rfl
@[simp] theorem begun_hbx : (s.begun c q).hbx = s.hbx := rfl

end

section
variable {s : State} {c : Nat}

theorem serveCard_of_chain (h : cardKind (s.card c).quads = kCHAIN) : s.serveCard c = s.begun c (s.card c).queue := by
  rw [serveCard, h]
  rfl

theorem serveCard_of_signal {u : State} (h : cardKind (s.card c).quads = kSIGNAL)
    (hwrite : s.engWrite none (s.card c).ctx (cq_ (s.card c).quads 3 0 57) (toLe 8 ((s.card c).quads.getD 4 0).toNat) = (.ok (), u)) :
    s.serveCard c = u.begun c (s.card c).queue := by
  rw [serveCard, h]
  change s.runSignal c = _
  rw [runSignal, hbxWrite_of_ok 1 hwrite]
  rfl

/-- The copy that a COPY card starts on a channel. -/
def copyOf (s : State) (c : Nat) : Copy :=
  let k := s.card c
  { bid := none, gid := 0, slot := 0, core := 0, cslot := freshOf s.channelsUsed, ctx := k.ctx, card := c, quads := [],
    src := { kind := 0, start := cq_ k.quads 3 0 57, bids := [] }, dst := { kind := 0, start := cq_ k.quads 4 0 57, bids := [] },
    rowb := cq_ k.quads 5 0 48, nrow := 1 }

theorem serveCard_of_copy (h : cardKind (s.card c).quads = kCOPY) (hcap : copyCapOk (s.card c) = true) :
    let cid := s.freshId s.copies
    s.serveCard c = (((s.takeId cid).setCopy cid (s.copyOf c)).updCard c fun k =>
      { k with copy := some cid, phase := .running }).advanceQueue (s.card c).queue c := by
  rw [serveCard, h]
  change s.runCopy c = _
  rw [runCopy, hcap]
  rfl

theorem serveCard_of_refused_copy (h : cardKind (s.card c).quads = kCOPY) (hcap : copyCapOk (s.card c) = false) :
    s.serveCard c = s.failCard c (8, 0, 0) := by
  rw [serveCard, h]
  change s.runCopy c = _
  rw [runCopy, hcap]
  rfl

theorem copy_setCopy_self (t : State) (cid : Nat) (x : Copy) : (t.setCopy cid x).copy cid = some x :=
  Tbl.lookup_insert_self x (Tbl.erase_ne t.copies cid)

theorem copyOf_serving (s : State) (q c : Nat) : (s.serving q).copyOf c = s.copyOf c := rfl
theorem copy_advanceQueue_updCard (t : State) (q c cid : Nat) (f : Card → Card) :
    ((t.updCard c f).advanceQueue q c).copy cid = t.copy cid := rfl
theorem mem_setCopy (t : State) (n cid : Nat) (x : Copy) : ((t.takeId n).setCopy cid x).mem = t.mem := rfl
theorem queue_setCopy (t : State) (n cid r : Nat) (x : Copy) : ((t.takeId n).setCopy cid x).queue r = t.queue r := rfl

/-! ### WATCH (R261) -/

/-- The word read is not behind the card's sequence number. -/
def WatchHit (k : Card) (bs : List Byte) : Prop := (leNum bs + 2 ^ 64 - (k.quads.getD 4 0).toNat) % 2 ^ 64 < 2 ^ 63
/-- The status of a card whose word matches. -/
def watchStatus (k : Card) (bs : List Byte) : Nat × Nat × Nat :=
  (1, if leNum bs = (k.quads.getD 4 0).toNat then 0 else 1, leNum bs % 2 ^ 32)

section
variable {bs : List Byte} (hread : s.engRead none (s.card c).ctx (cq_ (s.card c).quads 3 0 57) 8 = (.ok (bs, false), s))
include hread

theorem readWatch_of_hit (hhit : WatchHit (s.card c) bs) (other : State → State) :
    s.readWatch c other = s.failCard c (watchStatus (s.card c) bs) := by
  rw [readWatch, hbxRead_of_ok 0 hread]
  exact if_pos (by rw [Bool.not_false, Bool.true_and, decide_eq_true_eq]; exact hhit)

theorem readWatch_of_miss (hmiss : ¬ WatchHit (s.card c) bs) (other : State → State) : s.readWatch c other = other s := by
  rw [readWatch, hbxRead_of_ok 0 hread]
  exact if_neg (by rw [Bool.not_false, Bool.true_and, decide_eq_true_eq]; exact hmiss)

theorem serveCard_of_watch_hit (h : cardKind (s.card c).quads = kWATCH) (hhit : WatchHit (s.card c) bs) :
    s.serveCard c = (s.failCard c (watchStatus (s.card c) bs)).advanceQueue (s.card c).queue c := by
  rw [serveCard, h]
  change s.runWatch c = _
  rw [runWatch, readWatch_of_hit hread hhit]
  exact if_neg (by simp)

theorem serveCard_of_watch_armed (h : cardKind (s.card c).quads = kWATCH) (hmiss : ¬ WatchHit (s.card c) bs)
    (hroom : s.armedCount < 32) : s.serveCard c =
      (s.updCard c fun k => { k with phase := .armed, armedAt := s.clock, lastRead := s.clock }).advanceQueue (s.card c).queue c := by
  rw [serveCard, h]
  change s.runWatch c = _
  rw [runWatch, readWatch_of_miss hread hmiss, if_pos hroom]
  exact if_neg (by simp)

/-- A 33rd card to be armed waits. -/
theorem serveCard_of_watch_waits (h : cardKind (s.card c).quads = kWATCH) (hmiss : ¬ WatchHit (s.card c) bs)
    (hfull : 32 ≤ s.armedCount) (hready : (s.card c).phase = .ready) :
    s.serveCard c = s.updCard c fun k => { k with lastRead := max 1 s.clock } := by
  rw [serveCard, h]
  change s.runWatch c = _
  rw [runWatch, readWatch_of_miss hread hmiss, if_neg (Nat.not_lt.mpr hfull)]
  exact if_pos (by simp [hready])

end

/-! ### TASK without launch (R262, R264) -/

section
variable {d : Desc} (h : cardKind (s.card c).quads = kTASK) (hdesc : (s.card c).desc = some d)
  (hlaunch : cq_ (s.card c).quads 4 63 1 = 0)
include h hdesc hlaunch

/-- The records that have been read stay to be posted, and the queue goes on. -/
theorem serveCard_of_task_read (hrecs : (s.card c).recsRead = true) : s.serveCard c = s.begun c (s.card c).queue := by
  rw [serveCard, h]
  change s.runTask c = _
  simp [runTask, hdesc, hrecs, hlaunch, begun]

/-- The records of a card, 64 bytes each. -/
def recordsOf (n : Nat) (bs : List Byte) : List (List Quad) := (List.range n).map fun i => ((quadsOf bs).drop (8 * i)).take 8

theorem serveCard_of_task {bs : List Byte} (hrecs : (s.card c).recsRead = false) (hcount : cq_ (s.card c).quads 4 0 13 ≤ 4096)
    (halign : cq_ (s.card c).quads 7 0 57 % 64 = 0)
    (hread : s.engRead none (s.card c).ctx (cq_ (s.card c).quads 7 0 57) (64 * cq_ (s.card c).quads 4 0 13) = (.ok (bs, false), s)) :
    let rs := recordsOf (cq_ (s.card c).quads 4 0 13) bs
    s.serveCard c = if (rs.all fun r => recordOk r d (s.card c).lcap) = true then
        (s.updCard c fun k => { k with unposted := rs, recsRead := true }).begun c (s.card c).queue
      else s.failCard c (3, 0, 0) := by
  intro rs
  have hrecords : s.readRecords c d = if (rs.all fun r => recordOk r d (s.card c).lcap) = true then
      s.updCard c fun k => { k with unposted := rs, recsRead := true } else s.failCard c (3, 0, 0) := by
    rw [readRecords, hbxRead_of_ok 0 hread]
    exact if_neg (by simp [halign, hcount])
  rw [serveCard, h]
  change s.runTask c = _
  rw [runTask]
  simp only [hdesc, Option.isSome_some, if_true, hrecs, Bool.false_eq_true, if_false, hrecords]
  split
  · simp [hlaunch, begun]
  · simp [hrecs]

section
variable {bs : List Byte} (hrecs : (s.card c).recsRead = false) (hcount : cq_ (s.card c).quads 4 0 13 ≤ 4096)
  (halign : cq_ (s.card c).quads 7 0 57 % 64 = 0)
  (hread : s.engRead none (s.card c).ctx (cq_ (s.card c).quads 7 0 57) (64 * cq_ (s.card c).quads 4 0 13) = (.ok (bs, false), s))
include hrecs hcount halign hread

/-- The records are kept to be posted. -/
theorem serveCard_of_sound_task
    (hall : ∀ r ∈ recordsOf (cq_ (s.card c).quads 4 0 13) bs, recordOk r d (s.card c).lcap = true) : s.serveCard c =
      (s.updCard c fun k => { k with unposted := recordsOf (cq_ (s.card c).quads 4 0 13) bs, recsRead := true }).begun c
        (s.card c).queue :=
  (serveCard_of_task h hdesc hlaunch hrecs hcount halign hread).trans (if_pos (List.all_eq_true.mpr hall))

/-- A record breaks its format. -/
theorem serveCard_of_broken_task
    (hbad : ∃ r ∈ recordsOf (cq_ (s.card c).quads 4 0 13) bs, recordOk r d (s.card c).lcap = false) :
    s.serveCard c = s.failCard c (3, 0, 0) := by
  obtain ⟨r, hr, hfails⟩ := hbad
  refine (serveCard_of_task h hdesc hlaunch hrecs hcount halign hread).trans (if_neg fun hall => ?_)
  simp [List.all_eq_true.mp hall r hr] at hfails

end

end

end

end State
end Sys2Proof.Machine
end

section
/-! SUPPORT. A dispatch step (13 R260), and the block that a GRID card of one group starts with (02 R32). -/

namespace Sys2Proof.Machine

@[simp] theorem Tbl.get_place {α : Type} (d : α) (t : Tbl α) (k : Nat) (v : α) :
    Tbl.get d (Tbl.insert k v (Tbl.erase t k)) k = v :=
  Tbl.get_insert_self d v _ (Tbl.erase_ne t k)

theorem Tbl.get_place_of_ne {α : Type} (d : α) (t : Tbl α) {k n : Nat} (h : n ≠ k) (v : α) :
    Tbl.get d (Tbl.insert k v (Tbl.erase t k)) n = Tbl.get d t n := by
  rw [Tbl.get_insert_ne d v _ h, Tbl.get_erase_ne d t h]

namespace State

/-! ### What a dispatch step serves (R260) -/

/-- Noting which gangs wait touches blocks alone. -/
theorem noteWaiting_eq (s : State) : s.noteWaiting = { s with blks := s.noteWaiting.blks } := by
  obtain ⟨blks, hblks⟩ : ∃ blks, s.noteWaiting = { s with blks } := by
    refine List.foldlRecOn (motive := fun t : State => ∃ blks, t = { s with blks }) _ _ ⟨s.blks, rfl⟩ ?_
    rintro _ ⟨blks, rfl⟩ g -
    exact ⟨_, rfl⟩
  rw [hblks]

theorem noteWaiting_hbx (s : State) : s.noteWaiting.hbx = s.hbx := by rw [noteWaiting_eq]
theorem noteWaiting_mem (s : State) : s.noteWaiting.mem = s.mem := by rw [noteWaiting_eq]
theorem card_noteWaiting (s : State) (c : Nat) : s.noteWaiting.card c = s.card c := card_congr (by rw [noteWaiting_eq]) c

section
variable {s : State}

theorem dispatchStep_of_ready {h : Nat} (hready : s.noteWaiting.readyGangs s.noteWaiting.stepPrio = [h]) :
    exec .dispatchStep s = exec (.readmission h) s.noteWaiting.tick := by
  rw [exec_dispatchStep, execDispatchStep, hready]
  rfl

theorem dispatchStep_of_due {h : Nat} (hready : s.noteWaiting.readyGangs s.noteWaiting.stepPrio = [])
    (hdue : s.noteWaiting.dueGang s.noteWaiting.stepPrio = some h) : exec .dispatchStep s = exec (.yield h) s.noteWaiting := by
  rw [exec_dispatchStep, execDispatchStep, hready, hdue]
  rfl

variable (hready : s.noteWaiting.readyGangs s.noteWaiting.stepPrio = [])
  (hdue : s.noteWaiting.dueGang s.noteWaiting.stepPrio = none)
include hready hdue

theorem dispatchStep_of_none (hnone : s.noteWaiting.chooseQueue = none) : exec .dispatchStep s = .next s.noteWaiting := by
  rw [exec_dispatchStep, execDispatchStep, hready, hdue, hnone]
  rfl

theorem dispatchStep_of_card {q c : Nat} (hqueue : s.noteWaiting.chooseQueue = some q) (hcard : s.noteWaiting.servedCard q = some c) :
    exec .dispatchStep s = .next ((s.noteWaiting.serving q).serveCard c) := by
  rw [exec_dispatchStep, execDispatchStep, hready, hdue, hqueue]
  dsimp only [choose]
  rw [hcard]
  rfl

theorem dispatchStep_of_chain {q c : Nat} (hqueue : s.noteWaiting.chooseQueue = some q) (hcard : s.noteWaiting.servedCard q = some c)
    (hkind : cardKind (s.card c).quads = kCHAIN) :
    ∃ t, exec .dispatchStep s = .next t ∧ (t.card c).phase = .running ∧ t.hbx.lastServed = q ∧ t.mem = s.mem := by
  have hexec := dispatchStep_of_card hready hdue hqueue hcard
  rw [serveCard_of_chain (by rw [card_serving, card_noteWaiting, hkind])] at hexec
  exact ⟨_, hexec, by simp, by simp [serving], by simp [noteWaiting_mem]⟩

end

/-! ### A block of one group (R30, R32) -/

/-- A block as it starts on its core. -/
def started (s : State) (b : Block) : Block :=
  { b with phase := .resident, p0 := s.firstPart b.core, lastIssue := s.clock, hangFrom := s.clock,
           mx := if b.desc.mxs then { seq := { pc := b.desc.stream } } else {} }

theorem startBlock_of_one_group (s : State) (bid : Nat) {b : Block} (h : b.desc.ngrp = 0) (cap : Cap) : ∃ gslot free,
    s.startBlock bid b cap = { s with
      blks := Tbl.insert bid (s.started b) (Tbl.erase s.blks bid), free,
      grps := Tbl.set {} (Tbl.insert (32 * bid) (startGroup b.desc cap) (Tbl.erase s.grps (32 * bid))) (32 * bid)
        { startGroup b.desc cap with gslot } } := by
  let s2 : State := { s with
    blks := Tbl.insert bid (s.started b) (Tbl.erase s.blks bid),
    grps := Tbl.insert (32 * bid) (startGroup b.desc cap) (Tbl.erase s.grps (32 * bid)) }
  have hseat : s.startBlock bid b cap = s2.seatGroups bid := by
    rw [startBlock, h]
    rfl
  have hblk : s2.blk bid = s.started b := Tbl.get_place ..
  have hgroups : s2.groupsOf bid = [32 * bid] := by
    have hngrp : (s2.blk bid).desc.ngrp = 0 := by rw [hblk]; exact h
    rw [groupsOf, hngrp]
    rfl
  have hgrp : s2.tick.grp (32 * bid) = startGroup b.desc cap := Tbl.get_place ..
  rw [hseat, seatGroups, hgroups, List.foldl_cons, List.foldl_nil, updGrp, hgrp]
  exact ⟨_, _, rfl⟩

/-- An acquire of some groups. -/
theorem observes_eq (s : State) (gs : List Nat) (sc : Nat) :
    ∃ pending, gs.foldl (fun s g => s.observe g sc) s = { s with pending } := by
  refine List.foldlRecOn (motive := fun u : State => ∃ pending, u = { s with pending }) gs _ ⟨s.pending, rfl⟩ ?_
  rintro _ ⟨pending, rfl⟩ g -
  unfold observe
  split
  · exact ⟨_, rfl⟩
  · exact ⟨_, rfl⟩

/-- The block that a card starts next on a core. -/
def nextBlock (k : Card) (c : Nat) (d : Desc) (bid core : Nat) : Block :=
  { no := k.nextBlk, gangIds := [bid], ctx := k.ctx, card := c, descVa := cq_ k.quads 3 0 57, desc := d, core, tokens := d.tok }

/-- `t` differs from `s` by a block of one group of card `c`, started on `core`, and its number. -/
structure StartsOne (s t : State) (c bid core : Nat) (d : Desc) : Prop where
  blks : t.blks = Tbl.insert bid (s.started (nextBlock (s.card c) c d bid core)) (Tbl.erase s.blks bid)
  grp : ∃ gslot, t.grp (32 * bid) = { startGroup d (s.card c).lcap with gslot }
  card : t.card c = { s.card c with live := (s.card c).live + 1, tokens := 0, since := (s.card c).since.or (some s.hist.length) }
  mem : t.mem = s.mem

theorem startBlocks_of_one {s : State} {d : Desc} {core : Nat} (hngrp : d.ngrp = 0) (hfuse : d.fuse = false)
    (hfused : Tbl.get none s.fused (core / 4) = none) (c : Nat) :
    StartsOne s (s.startBlocks c (s.card c).nextBlk d [core]) c (s.freshId s.blks) core d := by
  let bid := s.freshId s.blks
  let s1 := s.takeId (bid + 1)
  have hprepare : s1.prepareCluster (core / 4) d.fuse c = s1 := by
    have hnow : Tbl.get none s1.fused (core / 4) = none := hfused
    rw [hfuse, prepareCluster, hnow]
    rfl
  obtain ⟨s2, hs2⟩ : ∃ s2, s1.startBlock bid (nextBlock (s.card c) c d bid core) (s.card c).lcap = s2 := ⟨_, rfl⟩
  have hstart : s.startBlocks c (s.card c).nextBlk d [core] =
      ((([bid].flatMap s2.groupsOf).foldl (fun s g => s.observe g 3) s2).updCard c fun k =>
        { k with live := k.live + 1, tokens := 0, since := k.since.or (some s.hist.length) }) := by
    rw [← hs2, ← hprepare]
    rfl
  obtain ⟨gslot, free, hblock⟩ :=
    s1.startBlock_of_one_group bid (b := nextBlock (s.card c) c d bid core) hngrp (s.card c).lcap
  obtain ⟨pending, hseen⟩ := s2.observes_eq ([bid].flatMap s2.groupsOf) 3
  rw [hstart, hseen, ← hs2, hblock]
  exact ⟨rfl, ⟨gslot, Tbl.get_set_self ..⟩, card_updCard_self .., rfl⟩

/-! ### GRID (R264) -/

/-- Once a block has been placed, card `c`, which was `k`, goes on to its next; after its last one its work has begun. -/
def numbered (u : State) (k : Card) (c : Nat) : State :=
  let t := u.updCard c fun k => { k with nextBlk := k.nextBlk + 1 }
  if blockCount k ≤ k.nextBlk + 1 then t.begun c k.queue else t

theorem numbered_keeps (u : State) (k : Card) (c : Nat) : (u.numbered k c).blks = u.blks ∧ (u.numbered k c).grps = u.grps ∧
    (u.numbered k c).mem = u.mem ∧ ((u.numbered k c).card c).nextBlk = (u.card c).nextBlk + 1 ∧
    ((u.numbered k c).card c).live = (u.card c).live := by
  unfold numbered
  dsimp only
  split
  · simp
  · simp

theorem dispatchStep_of_grid {s : State} {q c core : Nat} {d : Desc}
    (hready : s.noteWaiting.readyGangs s.noteWaiting.stepPrio = []) (hdue : s.noteWaiting.dueGang s.noteWaiting.stepPrio = none)
    (hqueue : s.noteWaiting.chooseQueue = some q) (hcard : s.noteWaiting.servedCard q = some c)
    (hkind : cardKind (s.card c).quads = kGRID) (hdesc : (s.card c).desc = some d) (htok : d.tok = 0)
    (hroom : (s.noteWaiting.serving q).cardRoom (s.card c) d = some [core]) :
    let n := s.noteWaiting.serving q
    exec .dispatchStep s = .next ((n.startBlocks c (s.card c).nextBlk d [core]).numbered (s.card c) c) := by
  intro n
  have hn : n.card c = s.card c := s.card_noteWaiting c
  rw [dispatchStep_of_card hready hdue hqueue hcard]
  have hgrid : n.serveCard c = n.dispatchNext c d := by
    rw [serveCard, hn, hkind]
    change n.runGrid c = _
    simp only [runGrid, hn, hdesc, Option.isSome_some, if_true]
  have hneed : d.gangSize * d.tok ≤ (s.card c).tokens := by rw [htok, Nat.mul_zero]; exact Nat.zero_le _
  rw [show s.noteWaiting.serving q = n from rfl, hgrid, dispatchNext]
  simp only [hn, if_pos hneed, show n.cardRoom (s.card c) d = some [core] from hroom, List.length_singleton]
  rfl

/-- What the dispatch of a block leaves besides the block: the card has one more running, and the next number. -/
theorem grid_starts {s : State} {q c core : Nat} {d : Desc}
    (hready : s.noteWaiting.readyGangs s.noteWaiting.stepPrio = []) (hdue : s.noteWaiting.dueGang s.noteWaiting.stepPrio = none)
    (hqueue : s.noteWaiting.chooseQueue = some q) (hcard : s.noteWaiting.servedCard q = some c)
    (hkind : cardKind (s.card c).quads = kGRID) (hdesc : (s.card c).desc = some d) (hfuse : d.fuse = false) (hngrp : d.ngrp = 0)
    (htok : d.tok = 0) (hroom : (s.noteWaiting.serving q).cardRoom (s.card c) d = some [core])
    (hfused : Tbl.get none s.fused (core / 4) = none) :
    let n := s.noteWaiting.serving q
    let b := n.freshId n.blks
    ∃ t u, exec .dispatchStep s = .next t ∧ StartsOne n u c b core d ∧ t.blks = u.blks ∧ t.grps = u.grps ∧ t.mem = u.mem ∧
      (t.card c).nextBlk = (u.card c).nextBlk + 1 ∧ (t.card c).live = (u.card c).live := by
  intro n b
  have hn : n.card c = s.card c := s.card_noteWaiting c
  have hfused' : Tbl.get none n.fused (core / 4) = none := by
    show Tbl.get none s.noteWaiting.fused (core / 4) = none
    rw [noteWaiting_eq]
    exact hfused
  have hstarts := startBlocks_of_one hngrp hfuse hfused' c
  rw [hn] at hstarts
  exact ⟨_, _, dispatchStep_of_grid hready hdue hqueue hcard hkind hdesc htok hroom, hstarts, numbered_keeps ..⟩

/-- A GRID card starts its next block, of one group, with the state of 02 R32. -/
theorem grid_dispatches {s : State} {q c core : Nat} {d : Desc}
    (hready : s.noteWaiting.readyGangs s.noteWaiting.stepPrio = []) (hdue : s.noteWaiting.dueGang s.noteWaiting.stepPrio = none)
    (hqueue : s.noteWaiting.chooseQueue = some q) (hcard : s.noteWaiting.servedCard q = some c)
    (hkind : cardKind (s.card c).quads = kGRID) (hdesc : (s.card c).desc = some d) (hfuse : d.fuse = false) (hngrp : d.ngrp = 0)
    (htok : d.tok = 0) (hroom : (s.noteWaiting.serving q).cardRoom (s.card c) d = some [core])
    (hfused : Tbl.get none s.fused (core / 4) = none) :
    ∃ t b gslot b₀, exec .dispatchStep s = .next t ∧ Tbl.has s.noteWaiting.blks b = false ∧
      t.blk b = started b₀ (nextBlock (s.card c) c d b core) ∧
      (t.card c).nextBlk = (s.card c).nextBlk + 1 ∧ (t.card c).live = (s.card c).live + 1 ∧
      t.grp (32 * b) = { startGroup d (s.card c).lcap with gslot } ∧
      (∀ a, a ≠ b → t.blk a = s.noteWaiting.blk a) ∧ t.mem = s.mem := by
  obtain ⟨t, u, hexec, hstarts, hblks, hgrps, hmem, hnext, hlive⟩ :=
    grid_starts hready hdue hqueue hcard hkind hdesc hfuse hngrp htok hroom hfused
  obtain ⟨hblk, ⟨gslot, hgrp⟩, hstarted, hsame⟩ := hstarts
  rw [card_serving, card_noteWaiting] at hblk hgrp hstarted
  rw [← hblks] at hblk
  let n := s.noteWaiting.serving q
  refine ⟨t, n.freshId n.blks, gslot, n, hexec, Tbl.has_of_lookup_eq_none (n.lookup_freshId n.blks),
    ?_, ?_, ?_, ?_, fun a ha => ?_, ?_⟩
  · rw [blk, hblk, Tbl.get_place]
  · rw [hnext, hstarted]
  · rw [hlive, hstarted]
  · rw [grp, hgrps, ← grp, hgrp]
  · rw [blk, hblk, Tbl.get_place_of_ne _ _ ha]
    rfl
  · rw [hmem, hsame, serving_mem, noteWaiting_mem]

end State
end Sys2Proof.Machine
end

section
/-! SUPPORT. WATCH again and its end (13 R261), completion and the release of successors (R257, R259), the posting of records
(R265). -/

namespace Sys2Proof.Machine

/-- A queue whose ready list a released card joins, or waits to join. -/
def Queue.joined (x : Queue) (e : Nat × Nat) : Queue :=
  if x.ready.length < 64 then { x with ready := x.ready ++ [e] } else { x with waiting := x.waiting ++ [e] }

namespace State

/-! ### WATCH again, and its end -/

section
variable {s : State} {c : Nat}

/-- An armed word that is due to be read again. -/
theorem exec_watchReread_of_due (harmed : (s.card c).phase = .armed) (hflt : (s.card c).fltWait = false)
    (hdue : (s.card c).lastRead + 1024 ≤ s.clock) :
    exec (.watchReread c) s = .next (s.readWatch c fun s => s.updCard c fun k => { k with lastRead := s.clock }) := by
  rw [exec_watchReread, execWatchReread]
  exact congrArg Host.Outcome.next (if_neg (by simp [harmed, hflt, hdue]))

theorem timeout_ends (harmed : (s.card c).phase = .armed) (hpos : 0 < cq_ (s.card c).quads 5 0 32)
    (hdue : (s.card c).armedAt + 1024 * cq_ (s.card c).quads 5 0 32 ≤ s.clock) :
    exec (.timeout c) s = .next (s.failCard c (7, 0, 0)) :=
  congrArg Host.Outcome.next (if_pos (by simp [harmed, hdue, hpos.ne']))

theorem timeout_waits (hearly : s.clock < (s.card c).armedAt + 1024 * cq_ (s.card c).quads 5 0 32) : exec (.timeout c) s = .next s :=
  congrArg Host.Outcome.next (if_neg (by simp [hearly]))

end

/-! ### Completion (R257) -/

/-- A card whose invariants have ended. -/
theorem card_endInvariants (s : State) (c : Nat) : (s.endInvariants c).card c = { s.card c with since := none, invs := [] } := by
  have hcard := s.card_updCard_self c fun k => { k with since := none, invs := [] }
  unfold endInvariants
  dsimp only
  split
  · exact hcard
  · exact hcard

theorem endInvariants_dev (s : State) (c : Nat) : (s.endInvariants c).dev = s.dev := by
  unfold endInvariants
  dsimp only
  split <;> rfl

/-- The card's interrupt is posted, where it asks for one. -/
def signalled (u : State) (k : Card) : State := if cardIrq k.quads then u.postMsi (3 + k.queue) else u

theorem signalled_keeps (u : State) (k : Card) :
    (u.signalled k).mem = u.mem ∧ (u.signalled k).ctrWait = u.ctrWait ∧ (u.signalled k).allows = u.allows := by
  unfold signalled
  split <;> exact ⟨rfl, rfl, rfl⟩

theorem signalled_msi (u : State) (k : Card) :
    (u.signalled k).dev.msi = if cq_ k.quads 0 47 1 = 1 then u.dev.msi ++ [3 + k.queue] else u.dev.msi := by
  rw [signalled, cardIrq, apply_ite State.dev, apply_ite Dev.msi]
  simp only [beq_iff_eq]
  rfl

/-- Then its tokens are given back, and its take leaves Deckle's list. -/
def settled (u : State) (k : Card) (c : Nat) : State :=
  ((u.signalled k).giveTokens k.tokens).dropTakes fun w => w == .headbox c

theorem settled_msi (u : State) (k : Card) (c : Nat) :
    (u.settled k c).dev.msi = if cq_ k.quads 0 47 1 = 1 then u.dev.msi ++ [3 + k.queue] else u.dev.msi := by
  have hserved : (u.settled k c).dev = (u.signalled k).dev :=
    (((u.signalled k).serves_giveTokens k.tokens).frame.trans (onlyServed_dropTakes ..)).dev
  rw [hserved, signalled_msi]

theorem settled_mem {u : State} {k : Card} {c : Nat} (hnone : k.tokens = 0)
    (hwaits : ∀ p ∈ u.ctrWait, ∀ w ∈ p.2, w.who ≠ .headbox c) : (u.settled k c).mem = u.mem := by
  obtain ⟨hmem, hwait, -⟩ := u.signalled_keeps k
  have hgive : (u.signalled k).giveTokens k.tokens = u.signalled k := if_pos hnone
  rw [settled, hgive, dropTakes_of_none, hmem]
  exact fun p hp w hw => beq_false_of_ne (hwaits p (hwait ▸ hp) w hw)

/-- Deckle has the card's tokens again. -/
theorem settled_deckle {u : State} {k : Card} {c : Nat} (hinit : u.ctrInit deckleAt = true) (hwaits : u.waitsOn deckleAt = [])
    (hallow : ∀ y ∈ u.allows, y.1 / 256 ≠ deckleAt / 64) (hfit : u.deckle + k.tokens < 2 ^ 48) :
    (u.settled k c).deckle = u.deckle + k.tokens := by
  obtain ⟨hmem, hwait, hallows⟩ := u.signalled_keeps k
  have hstart : (u.signalled k).Holds deckleAt u.deckle [] := Holds.congr ⟨rfl, hwaits⟩ hmem hwait
  have hinit' : (u.signalled k).ctrInit deckleAt = true := by
    rw [← hinit, ctrInit, ctrInit, cq_congr (s := u) (t := u.signalled k) fun b _ _ => by rw [hmem]]
  have hgiven := hstart.giveTokens hinit' (hallows ▸ hallow) hfit
  exact (Holds.dropTakes (k := 64) hgiven _).reserve

section
variable {s : State} {c : Nat}

theorem exec_cardComplete_of_unanswered (h : s.unansweredReleased = true) : exec (.cardComplete c) s = .next s :=
  congrArg Host.Outcome.next (if_pos (by rw [h]; simp))

theorem due_of_none {s : State} {k : Card} (h : k.rereadAt = none) : ∀ t₀, k.rereadAt = some t₀ → t₀ ≤ s.clock := by
  rw [h]
  exact nofun

/-- The card in error, if any, may be read again. -/
theorem not_rereads_later (hdue : ∀ t₀, (s.card c).rereadAt = some t₀ → t₀ ≤ s.clock) :
    (s.card c).rereadAt.any (s.clock < ·) = false := by
  rw [Option.any_eq_false]
  exact fun t₀ h => by simpa using hdue t₀ h

section
variable (hhas : Tbl.has s.cards c = true) (hflt : (s.card c).fltWait = false) (hphase : (s.card c).phase ≠ .abort)
  (hanswered : s.unansweredReleased = false)
include hhas hflt hphase hanswered

/-- A card whose work has ended completes. -/
theorem exec_cardComplete_of_finished {e : Nat × Nat × Nat} (hsucc : (s.card c).succ = none)
    (hend : s.finished (s.card c) = some e) : exec (.cardComplete c) s = .next (s.completeCard c e) := by
  rw [exec_cardComplete, execCardComplete]
  simp only [hhas, hflt, hanswered, hsucc, hphase, hend, Bool.not_true, Bool.or_self, Option.isSome_none, Bool.false_and,
    Bool.false_eq_true, if_false]

theorem exec_cardComplete_of_unfinished (hsucc : (s.card c).succ = none) (hgoes : s.finished (s.card c) = none) :
    exec (.cardComplete c) s = .next s := by
  rw [exec_cardComplete, execCardComplete]
  simp only [hhas, hflt, hanswered, hsucc, hphase, hgoes, Bool.not_true, Bool.or_self, Option.isSome_none, Bool.false_and,
    Bool.false_eq_true, if_false]

section
variable (hdue : ∀ t₀, (s.card c).rereadAt = some t₀ → t₀ ≤ s.clock)
include hdue

/-- A card releases its next successor, unless it waits for one in error. -/
theorem exec_cardComplete_of_successor {va : Nat} {rest : List Nat} (hsucc : (s.card c).succ = some (va :: rest)) :
    exec (.cardComplete c) s = .next (s.releaseCard c va rest) := by
  rw [exec_cardComplete, execCardComplete]
  simp only [hhas, hflt, hanswered, hsucc, hphase, not_rereads_later hdue, Bool.not_true, Bool.or_self, Bool.and_false,
    Bool.false_eq_true, if_false]

/-- After its last successor nothing is kept of the card but where it stands. -/
theorem exec_cardComplete_of_last (hsucc : (s.card c).succ = some []) :
    exec (.cardComplete c) s = .next (s.setCard c { ctx := (s.card c).ctx, va := (s.card c).va }) := by
  rw [exec_cardComplete, execCardComplete]
  simp only [hhas, hflt, hanswered, hsucc, hphase, not_rereads_later hdue, Bool.not_true, Bool.or_self, Bool.and_false,
    Bool.false_eq_true, if_false]

end

end

theorem finished_of_done {k : Card} (hsucc : k.succ = none) (hlive : k.live = 0) (hcopy : k.copy = none) (hrun : k.phase = .running)
    (herr : k.err = none) (hkind : cardKind k.quads ≠ kTASK) : s.finished k = some (1, 0, 0) := by
  simp [finished, hsucc, hlive, hcopy, hrun, herr, hkind]

theorem finished_of_live {k : Card} (hlive : k.live ≠ 0) : s.finished k = none := by
  simp [finished, hlive]

/-- A card whose status has been written. -/
def completed (u : State) (k : Card) (c : Nat) : State :=
  ((u.settled k c).advanceQueue k.queue c).updCard c fun y => { y with succ := some (successors k.quads), tokens := 0 }

theorem completeCard_of_written {u : State}
    (hwrite : (s.endInvariants c).engWrite none (s.card c).ctx ((s.card c).va + 112) (s.statusBytes (1, 0, 0)) = (.ok (), u)) :
    s.completeCard c (1, 0, 0) = u.completed (s.card c) c := by
  have hctx : ((s.endInvariants c).card c).ctx = (s.card c).ctx := by rw [card_endInvariants]
  rw [← hctx] at hwrite
  unfold completeCard
  dsimp only
  rw [hbxWrite_of_ok 1 hwrite]
  rfl

/-- A card whose work has ended without error. -/
theorem cardComplete_ends {u : State} (hhas : Tbl.has s.cards c = true) (hflt : (s.card c).fltWait = false)
    (hanswered : s.unansweredReleased = false) (hsucc : (s.card c).succ = none)
    (hlive : (s.card c).live = 0) (hcopy : (s.card c).copy = none) (hrun : (s.card c).phase = .running) (herr : (s.card c).err = none)
    (hkind : cardKind (s.card c).quads ≠ kTASK)
    (hwrite : (s.endInvariants c).engWrite none (s.card c).ctx ((s.card c).va + 112) (s.statusBytes (1, 0, 0)) = (.ok (), u)) :
    exec (.cardComplete c) s = .next (u.completed (s.card c) c) := by
  rw [exec_cardComplete_of_finished hhas hflt (by rw [hrun]; decide) hanswered hsucc
    (finished_of_done hsucc hlive hcopy hrun herr hkind), completeCard_of_written hwrite]

/-- Any card but CHAIN has one successor at most. -/
theorem successors_of_not_chain {quads : List Quad} (h : cardKind quads ≠ kCHAIN) :
    successors quads = if cq_ quads 2 0 57 = 0 then [] else [cq_ quads 2 0 57] := by
  simp [successors, h, List.filter_cons]

end

theorem completed_mem (u : State) (k : Card) (c : Nat) : (u.completed k c).mem = (u.settled k c).mem := by
  rw [completed, updCard_mem, advanceQueue_mem]
theorem completed_dev (u : State) (k : Card) (c : Nat) : (u.completed k c).dev = (u.settled k c).dev := by
  rw [completed, updCard_dev, advanceQueue_dev]
theorem card_completed (u : State) (k : Card) (c : Nat) : ((u.completed k c).card c).tokens = 0 ∧
    ((u.completed k c).card c).succ = some (successors k.quads) := by
  rw [completed, card_updCard_self]
  exact ⟨rfl, rfl⟩

/-- What a completion leaves: no tokens, an interrupt where the card asks for one, and the successors to be released. -/
theorem completed_leaves {s u : State} {c : Nat} (hdev : u.dev = (s.endInvariants c).dev) (k : Card) :
    (k.tokens = 0 → (∀ p ∈ u.ctrWait, ∀ w ∈ p.2, w.who ≠ .headbox c) → (u.completed k c).mem = u.mem) ∧
      (u.completed k c).dev.msi = (if cq_ k.quads 0 47 1 = 1 then s.dev.msi ++ [3 + k.queue] else s.dev.msi) ∧
      ((u.completed k c).card c).tokens = 0 ∧
      (u.ctrInit deckleAt = true → u.waitsOn deckleAt = [] → (∀ y ∈ u.allows, y.1 / 256 ≠ deckleAt / 64) →
        u.deckle + k.tokens < 2 ^ 48 → (u.completed k c).deckle = u.deckle + k.tokens) ∧
      (cardKind k.quads ≠ kCHAIN →
        ((u.completed k c).card c).succ = some (if cq_ k.quads 2 0 57 = 0 then [] else [cq_ k.quads 2 0 57])) := by
  obtain ⟨htokens, hsucc⟩ := u.card_completed k c
  refine ⟨fun hnone hwaits => ?_, ?_, htokens, fun hinit hwaits hallow hfit => ?_, fun hkind => ?_⟩
  · rw [completed_mem, settled_mem hnone hwaits]
  · rw [completed_dev, settled_msi, hdev, endInvariants_dev]
  · rw [deckle_congr (completed_mem u k c), settled_deckle hinit hwaits hallow hfit]
  · rw [hsucc, successors_of_not_chain hkind]

/-! ### The release of a successor (R259) -/

section
variable {s : State} {c va : Nat} {rest : List Nat} {bs : List Byte}

/-- The count of predecessors that a release leaves. -/
def predsLeft (bs : List Byte) : Nat := (leNum ((bs.drop 8).take 4) % 2 ^ 31 + 2 ^ 31 - 1) % 2 ^ 31
/-- SEEN of the successor's card. -/
def seenBit (bs : List Byte) : Nat := leNum ((bs.drop 8).take 4) / 2 ^ 31

theorem releaseCard_of_bad (hread : s.engRead none (s.card c).ctx va 16 = (.ok (bs, true), s)) :
    s.releaseCard c va rest = (s.logError va).updCard c fun y => { y with rereadAt := some (s.clock + 3000) } := by
  rw [releaseCard, hbxRead_of_ok 2 hread]
  rfl

theorem releaseCard_of_ok {u : State} (hread : s.engRead none (s.card c).ctx va 16 = (.ok (bs, false), s))
    (hwrite : s.engWrite none (s.card c).ctx (va + 8) (toLe 4 (seenBit bs * 2 ^ 31 + predsLeft bs)) = (.ok (), u)) :
    let t := u.updCard c fun k => { k with succ := some rest, rereadAt := none }
    s.releaseCard c va rest = if predsLeft bs = 0 ∧ seenBit bs = 1 then
      t.updQueue (cardQsel (quadsOf bs)) (Queue.joined · ((s.card c).ctx, va)) else t := by
  intro t
  rw [releaseCard, hbxRead_of_ok 2 hread]
  unfold seenBit predsLeft at hwrite ⊢
  simp only [Bool.false_eq_true, if_false, hbxWrite_of_ok 2 hwrite, Bool.and_eq_true, decide_eq_true_eq]
  rfl

theorem releaseCard_releases {u : State} (hread : s.engRead none (s.card c).ctx va 16 = (.ok (bs, false), s))
    (hwrite : s.engWrite none (s.card c).ctx (va + 8) (toLe 4 (seenBit bs * 2 ^ 31 + predsLeft bs)) = (.ok (), u))
    (hqueues : u.queues = s.queues) :
    let d := cardQsel (quadsOf bs)
    ((s.releaseCard c va rest).card c).succ = some rest ∧ (s.releaseCard c va rest).mem = u.mem ∧
      (predsLeft bs = 0 ∧ seenBit bs = 1 → (s.queue d).ready.length < 64 →
        ((s.releaseCard c va rest).queue d).ready = (s.queue d).ready ++ [((s.card c).ctx, va)]) ∧
      (¬ (predsLeft bs = 0 ∧ seenBit bs = 1) → (s.releaseCard c va rest).queues = s.queues) := by
  intro d
  rw [releaseCard_of_ok hread hwrite]
  split
  case isTrue hlast =>
    refine ⟨by simp, by simp, fun _ hroom => ?_, fun h => absurd hlast h⟩
    rw [queue_updQueue_self, queue_updCard, queue_congr hqueues, Queue.joined, if_pos hroom]
  case isFalse hmore => exact ⟨by simp, by simp, fun h => absurd h hmore, fun _ => by simp [hqueues]⟩

end

/-! ### Records (R265) -/

section
variable {r : List Quad}

/-- A record without footprints. -/
theorem feet_of_absent (h4 : (r.getD 4 0).toNat < 2 ^ 63) (h6 : (r.getD 6 0).toNat < 2 ^ 63) : feet r = [] := by
  have hnone : ∀ i, (r.getD (4 + 2 * i) 0).toNat < 2 ^ 63 → footOf r i = none := fun i hi =>
    if_neg (by rw [bitsOf, Nat.div_eq_of_lt hi]; decide)
  have h0 : footOf r 0 = none := hnone 0 h4
  have h1 : footOf r 1 = none := hnone 1 h6
  simp [feet, List.range_succ, h0, h1]

theorem recordFits_of_no_feet (s : State) (k : Card) (core : Nat) (h : feet r = []) : s.recordFits k core r = true := by
  simp [recordFits, h, footLines, pinsFit]

theorem card_wakeInbox (s : State) (core ctx va d : Nat) : (s.wakeInbox core ctx va).card d = s.card d := rfl

/-- The entry of a record without pins. -/
def inboxEntry (k : Card) (c : Nat) (r : List Quad) : InboxRec :=
  { ctx := k.ctx, descVa := descOf k, card := c, quads := r, pins := [] }

theorem postTo_of_no_feet (s : State) (c core : Nat) (h : feet r = []) :
    Tbl.get [] (s.postTo c core r).inbox core = Tbl.get [] s.inbox core ++ [inboxEntry (s.card c) c r] ∧
      (s.postTo c core r).mem = s.mem ∧ ((s.postTo c core r).card c).unposted = (s.card c).unposted ∧
      ((s.postTo c core r).card c).posted = (s.card c).posted + 1 ∧
      ((s.postTo c core r).card c).lastCore = (s.card c).lastCore := by
  let s2 : State := { s.tick with inbox := Tbl.upd [] s.inbox core fun l => l ++ [inboxEntry (s.card c) c r] }
  let s3 := s2.updCard c fun k => { k with assigned := k.assigned.erase (core, r), posted := k.posted + 1 }
  have hpost : s.postTo c core r = s3.wakeInbox core (s.card c).ctx (descOf (s.card c)) := by
    rw [postTo, h]
    rfl
  have hcard : (s.postTo c core r).card c =
      { s.card c with assigned := (s.card c).assigned.erase (core, r), posted := (s.card c).posted + 1 } := by
    calc
      (s.postTo c core r).card c = s3.card c := by rw [hpost, card_wakeInbox]
      _ = _ := s2.card_updCard_self c _
  rw [hcard, hpost]
  exact ⟨Tbl.get_set_self .., rfl, rfl, rfl, rfl⟩

end

section
variable {s : State} {c core : Nat} {d : Desc} {r : List Quad} {rest : List (List Quad)}

/-- The next record of a card is given a core. -/
def assigning (s : State) (c core : Nat) (r : List Quad) (rest : List (List Quad)) : State :=
  s.updCard c fun y => { y with unposted := rest, assigned := [(core, r)], lastCore := some core }

theorem updCard_congr {f g : Card → Card} (h : f (s.card c) = g (s.card c)) : s.updCard c f = s.updCard c g := by
  rw [updCard, h, updCard]

theorem exec_taskPost_of_next (hdesc : (s.card c).desc = some d) (hsucc : (s.card c).succ = none) (hrun : (s.card c).phase = .running)
    (hflt : (s.card c).fltWait = false) (hassigned : (s.card c).assigned = []) (hnext : (s.card c).unposted = r :: rest)
    (hgoes : (s.ctx (s.card c).ctx).suspended = false) (hcore : s.postCore (s.card c) (descOf (s.card c)) = some core) :
    exec (.taskPost c) s = .next (if (s.assigning c core r rest).recordFits (s.card c) core r = true then
      (s.assigning c core r rest).postTo c core r else s.assigning c core r rest) := by
  have hs1 : (s.updCard c fun k => { k with unposted := rest, assigned := k.assigned ++ [(core, r)], lastCore := some core }) =
      s.assigning c core r rest := updCard_congr (by simp [hassigned])
  have hpost : s.postRecord c = if (s.assigning c core r rest).recordFits (s.card c) core r = true then
      (s.assigning c core r rest).postTo c core r else s.assigning c core r rest := by
    rw [postRecord]
    simp only [hassigned, List.find?_nil, hnext, hcore]
    simp only [← hs1]
  refine (congrArg Host.Outcome.next (if_neg ?_)).trans (congrArg Host.Outcome.next hpost)
  simp [hdesc, hsucc, hrun, hflt, hnext, hgoes]

theorem taskPost_posts (hdesc : (s.card c).desc = some d) (hsucc : (s.card c).succ = none) (hrun : (s.card c).phase = .running)
    (hflt : (s.card c).fltWait = false) (hassigned : (s.card c).assigned = []) (hnext : (s.card c).unposted = r :: rest)
    (hgoes : (s.ctx (s.card c).ctx).suspended = false) (hcore : s.postCore (s.card c) (descOf (s.card c)) = some core)
    (h4 : (r.getD 4 0).toNat < 2 ^ 63) (h6 : (r.getD 6 0).toNat < 2 ^ 63) :
    ∃ t, exec (.taskPost c) s = .next t ∧
      Tbl.get [] t.inbox core = Tbl.get [] s.inbox core ++ [inboxEntry (s.card c) c r] ∧ t.mem = s.mem ∧
      (t.card c).unposted = rest ∧ (t.card c).posted = (s.card c).posted + 1 ∧ (t.card c).lastCore = some core := by
  have hfeet := feet_of_absent h4 h6
  have hexec := exec_taskPost_of_next hdesc hsucc hrun hflt hassigned hnext hgoes hcore
  have hpost := (s.assigning c core r rest).postTo_of_no_feet c core hfeet
  rw [if_pos (recordFits_of_no_feet _ _ _ hfeet)] at hexec
  rw [show (s.assigning c core r rest).card c = _ from s.card_updCard_self c _] at hpost
  exact ⟨_, hexec, hpost⟩

theorem taskPost_waits (h : (s.card c).desc = none ∨ (s.card c).unposted = [] ∧ (s.card c).assigned = [] ∨
    (s.ctx (s.card c).ctx).suspended = true) : exec (.taskPost c) s = .next s := by
  refine congrArg Host.Outcome.next (if_pos ?_)
  rcases h with hdesc | ⟨hnone, hassigned⟩ | hsuspended
  · simp [hdesc]
  · simp [hnone, hassigned]
  · simp [hsuspended]

end

end State
end Sys2Proof.Machine
end

section
/-! SUPPORT. The host's queue registers (13 R254), and what each step of the Headbox leaves of a card and its queue (R258 to R264).
Settles O52. -/

namespace Sys2Proof.Machine
namespace State

/-! ### The host's registers (R254) -/

theorem host_registers {s : State} {q : Nat} (hboot : s.dev.bootDone = true) (hq : q < 32) (v : BitVec 64) :
    exec (.tornClear q) s = .next (s.updQueue q fun x => { x with torn := false }) ∧
      exec (.badentClear q) s = .next (s.updQueue q fun x => { x with badent := false }) ∧
      ∀ req, s.dev.posted = [] → exec (.hbxQtailWrite req q v) s =
        .next (if (s.queue q).devpost then s else s.updQueue q fun x => { x with tail := v.extractLsb' 0 16 }) := by
  have hserves : (s.served && decide (q < 32)) = true := by simp [served, hboot, hq]
  refine ⟨congrArg Host.Outcome.next (if_pos hserves), congrArg Host.Outcome.next (if_pos hserves), fun req hposted => ?_⟩
  have hdrain : s.drainPosted = s := by
    rw [drainPosted, hposted]
    rfl
  have hnone : s.awaitsPosted req = false := by rw [awaitsPosted, hposted, List.any_nil]
  rw [exec_hbxQtailWrite, execHbxQtailWrite, hdrain, hnone, if_neg (by simpa [served, hboot] using hq), if_neg Bool.false_ne_true]

/-! ### The head of a queue (R258, R259) -/

section
variable {s : State} {q c : Nat} {bs : List Byte}

/-- A card at the head that names a queue of another context, or breaks its format, ends with status 2. -/
theorem tryCard_misdirects (hread : s.engRead none (s.card c).ctx (s.card c).va 128 = (.ok (bs, false), s)) (hok : cardOk bs = true)
    (hbad : s.Misdirected c bs = true) : ((s.tryCard q c).card c).err = (s.card c).err.or (some (2, 0, 0)) ∧
      ((s.tryCard q c).card c).phase = .running ∧ (s.tryCard q c).mem = s.mem := by
  rw [tryCard_of_misdirected hread hok hbad]
  exact ⟨by simp, by simp, by simp⟩

/-- A released card that passes its checks leaves the ready list, and is due to run. -/
theorem tryCard_takes (hread : s.engRead none (s.card c).ctx (s.card c).va 128 = (.ok (bs, false), s)) (hok : cardOk bs = true)
    (hgood : s.Misdirected c bs = false) (hlist : (s.card c).fromRing = false) :
    ((s.tryCard q c).card c).phase = .ready ∧ ((s.tryCard q c).card c).quads = quadsOf bs ∧
      ((s.tryCard q c).queue q).ready = (s.queue q).ready.drop 1 ∧ (s.tryCard q c).mem = s.mem := by
  rw [tryCard_of_released hread hok hgood hlist]
  exact ⟨by simp, by simp, by simp, by simp⟩

/-- A card is not read again before its time. -/
theorem exec_cardReread_of_early {t₀ : Nat} (hreadable : s.readable q = true) (hreread : (s.card c).rereadAt = some t₀)
    (honly : (s.queue q).rel = some c ∧ (s.queue q).card = none ∨ (s.queue q).rel = none ∧ (s.queue q).card = some c)
    (hearly : s.clock < t₀) : exec (.cardReread q) s = .next s := by
  rw [exec_cardReread_of_one hreadable honly, if_neg (by simp [hreread, hearly])]

/-- A failed read when its time has come. -/
theorem exec_cardReread_of_failed {t₀ : Nat} (hreadable : s.readable q = true) (hreread : (s.card c).rereadAt = some t₀)
    (honly : (s.queue q).rel = some c ∧ (s.queue q).card = none ∨ (s.queue q).rel = none ∧ (s.queue q).card = some c)
    (hflt : (s.card c).fltWait = false) (hdue : t₀ ≤ s.clock) (hphase : (s.card c).phase ≠ .entry) (hfew : (s.card c).fails < 3)
    (hok : cardOk bs = false) :
    let w := s.updCard c fun y => { y with rereadAt := none }
    w.engRead none (s.card c).ctx (s.card c).va 128 = (.ok (bs, false), w) → exec (.cardReread q) s =
      .next (w.updCard c fun y => { y with fails := (s.card c).fails + 1, rereadAt := some (s.clock + 3000) }) := by
  intro w hread
  have hcard : w.card c = { s.card c with rereadAt := none } := card_updCard_self ..
  have htry : w.tryCard q c = w.failedRead q c := tryCard_of_failed (by rw [hcard]; exact hread) hok
  rw [exec_cardReread_of_one hreadable honly, if_pos (by simp [hreread, hflt, hdue]), if_neg hphase, htry,
    failedRead_of_few (by rw [hcard]; exact hfew), hcard]
  rfl

end

/-! ### One step of a card (R260 to R264) -/

section
variable {s u : State} {c : Nat} {bs : List Byte}

theorem kind_serving {kind : Nat} (hserved : s.isServed c kind = true) (q : Nat) :
    cardKind ((s.serving q).card c).quads = kind := by
  rw [card_serving, kind_of_isServed hserved]

theorem chain_runs (hserved : s.isServed c kCHAIN = true) : ∃ t, exec (.chain c) s = .next t ∧ (t.card c).phase = .running ∧
    t.queue (s.card c).queue = (s.queue (s.card c).queue).advanced c ∧ t.mem = s.mem ∧ t.blks = s.blks := by
  have hexec : exec (.chain c) s = .next ((s.serving (s.card c).queue).serveCard c) := congrArg Host.Outcome.next (if_pos hserved)
  rw [serveCard_of_chain (s := s.serving (s.card c).queue) (kind_serving hserved _)] at hexec
  exact ⟨_, hexec, by simp, by simp, by simp, by simp⟩

theorem signal_runs (hserved : s.isServed c kSIGNAL = true)
    (hwrite : (s.serving (s.card c).queue).engWrite none (s.card c).ctx (cq_ (s.card c).quads 3 0 57)
      (toLe 8 ((s.card c).quads.getD 4 0).toNat) = (.ok (), u)) (hqueues : u.queues = s.queues) :
    ∃ t, exec (.signal c) s = .next t ∧ (t.card c).phase = .running ∧
      t.queue (s.card c).queue = (s.queue (s.card c).queue).advanced c ∧ t.mem = u.mem := by
  have hexec : exec (.signal c) s = .next ((s.serving (s.card c).queue).serveCard c) := congrArg Host.Outcome.next (if_pos hserved)
  rw [serveCard_of_signal (s := s.serving (s.card c).queue) (kind_serving hserved _) hwrite] at hexec
  exact ⟨_, hexec, by simp, by simp [queue_congr hqueues], by simp⟩

theorem copy_runs (hserved : s.isServed c kCOPY = true) (hcap : copyCapOk (s.card c) = true) : ∃ t, exec (.copy c) s = .next t ∧
    (t.card c).phase = .running ∧ t.queue (s.card c).queue = (s.queue (s.card c).queue).advanced c ∧ t.mem = s.mem ∧
    ∃ cid, (t.card c).copy = some cid ∧ s.copy cid = none ∧ t.copy cid = some (s.copyOf c) := by
  have hexec : exec (.copy c) s = .next ((s.serving (s.card c).queue).serveCard c) := congrArg Host.Outcome.next (if_pos hserved)
  rw [serveCard_of_copy (s := s.serving (s.card c).queue) (kind_serving hserved _) hcap] at hexec
  have hfree : s.copy (s.freshId s.copies) = none := s.lookup_freshId s.copies
  refine ⟨_, hexec, by simp, ?_, by simp [mem_setCopy], s.freshId s.copies, ?_, hfree, ?_⟩
  · rw [card_serving, queue_advanceQueue_self, queue_updCard, queue_setCopy, queue_serving]
  · rw [card_advanceQueue, card_updCard_self]
    rfl
  · rw [copyOf_serving, copy_advanceQueue_updCard]
    exact copy_setCopy_self _ _ _

theorem copy_refused (hserved : s.isServed c kCOPY = true) (hcap : copyCapOk (s.card c) = false) : ∃ t, exec (.copy c) s = .next t ∧
    (t.card c).phase = .running ∧ (t.card c).err = (s.card c).err.or (some (8, 0, 0)) := by
  have hexec : exec (.copy c) s = .next ((s.serving (s.card c).queue).serveCard c) := congrArg Host.Outcome.next (if_pos hserved)
  rw [serveCard_of_refused_copy (s := s.serving (s.card c).queue) (kind_serving hserved _) hcap] at hexec
  exact ⟨_, hexec, by simp, by simp⟩

section
variable (hserved : s.isServed c kWATCH = true)
  (hread : (s.serving (s.card c).queue).engRead none (s.card c).ctx (cq_ (s.card c).quads 3 0 57) 8 =
    (.ok (bs, false), s.serving (s.card c).queue))
include hserved

theorem exec_watch_of_served : exec (.watch c) s = .next ((s.serving (s.card c).queue).serveCard c) :=
  congrArg Host.Outcome.next (if_pos hserved)

include hread

theorem watch_hits (hhit : WatchHit (s.card c) bs) : ∃ t, exec (.watch c) s = .next t ∧ (t.card c).phase = .running ∧
    (t.card c).err = (s.card c).err.or (some (watchStatus (s.card c) bs)) ∧ t.mem = s.mem := by
  have hexec := exec_watch_of_served hserved
  rw [serveCard_of_watch_hit (s := s.serving (s.card c).queue) hread (kind_serving hserved _) hhit] at hexec
  exact ⟨_, hexec, by simp, by simp, by simp⟩

theorem watch_arms (hmiss : ¬ WatchHit (s.card c) bs) (hroom : s.armedCount < 32) : ∃ t, exec (.watch c) s = .next t ∧
    (t.card c).phase = .armed ∧ (t.card c).armedAt = s.clock ∧ t.mem = s.mem := by
  have hexec := exec_watch_of_served hserved
  rw [serveCard_of_watch_armed (s := s.serving (s.card c).queue) hread (kind_serving hserved _) hmiss hroom] at hexec
  refine ⟨_, hexec, by simp, ?_, by simp⟩
  rw [card_advanceQueue, card_updCard_self]
  rfl

theorem watch_waits (hmiss : ¬ WatchHit (s.card c) bs) (hfull : 32 ≤ s.armedCount) : ∃ t, exec (.watch c) s = .next t ∧
    (t.card c).phase = .ready ∧ t.queue (s.card c).queue = s.queue (s.card c).queue ∧ t.mem = s.mem := by
  have hready := ready_of_isServed hserved
  have hexec := exec_watch_of_served hserved
  rw [serveCard_of_watch_waits (s := s.serving (s.card c).queue) hread (kind_serving hserved _) hmiss hfull hready] at hexec
  exact ⟨_, hexec, by simp [hready], by simp, by simp⟩

end

section
variable {d : Desc} (hserved : s.isServed c kTASK = true) (hdesc : (s.card c).desc = some d)
  (hlaunch : cq_ (s.card c).quads 4 63 1 = 0)
include hserved

theorem exec_task_of_served : exec (.task c) s = .next ((s.serving (s.card c).queue).serveCard c) :=
  congrArg Host.Outcome.next (if_pos hserved)

include hdesc hlaunch

theorem task_runs (hrecs : (s.card c).recsRead = true) : ∃ t, exec (.task c) s = .next t ∧ (t.card c).phase = .running ∧
    t.queue (s.card c).queue = (s.queue (s.card c).queue).advanced c ∧ t.mem = s.mem ∧ t.blks = s.blks := by
  have hexec := exec_task_of_served hserved
  rw [serveCard_of_task_read (s := s.serving (s.card c).queue) (kind_serving hserved _) hdesc hlaunch hrecs] at hexec
  exact ⟨_, hexec, by simp, by simp, by simp, by simp⟩

/-- The records are read: a card whose records are well formed keeps them to be posted, another ends with status 3. -/
theorem task_reads (hrecs : (s.card c).recsRead = false) (hcount : cq_ (s.card c).quads 4 0 13 ≤ 4096)
    (halign : cq_ (s.card c).quads 7 0 57 % 64 = 0)
    (hread : (s.serving (s.card c).queue).engRead none (s.card c).ctx (cq_ (s.card c).quads 7 0 57)
      (64 * cq_ (s.card c).quads 4 0 13) = (.ok (bs, false), s.serving (s.card c).queue)) :
    let rs := recordsOf (cq_ (s.card c).quads 4 0 13) bs
    ((∀ r ∈ rs, recordOk r d (s.card c).lcap = true) → ∃ t, exec (.task c) s = .next t ∧ (t.card c).phase = .running ∧
      (t.card c).unposted = rs ∧ (t.card c).err = (s.card c).err ∧ t.mem = s.mem) ∧
    ((∃ r ∈ rs, recordOk r d (s.card c).lcap = false) → ∃ t, exec (.task c) s = .next t ∧ (t.card c).phase = .running ∧
      (t.card c).err = (s.card c).err.or (some (3, 0, 0))) := by
  intro rs
  have hkind := kind_serving hserved (s.card c).queue
  refine ⟨fun hall => ?_, fun hbad => ?_⟩
  · have hexec := exec_task_of_served hserved
    rw [serveCard_of_sound_task (s := s.serving (s.card c).queue) hkind hdesc hlaunch hrecs hcount halign hread hall] at hexec
    exact ⟨_, hexec, by simp, by simp [rs], by simp, by simp⟩
  · have hexec := exec_task_of_served hserved
    rw [serveCard_of_broken_task (s := s.serving (s.card c).queue) hkind hdesc hlaunch hrecs hcount halign hread hbad] at hexec
    exact ⟨_, hexec, by simp, by simp⟩

end

end

/-! ### The first block of a GRID card (02 R32) -/

/-- The registers and the split that a group starts with. -/
theorem startGroup_fields (d : Desc) (cap : Cap) : let g := startGroup d cap
    g.vregs = [] ∧ g.ended = 0 ∧ Tbl.get 0 g.sregs 0 = cap.bits.extractLsb' 0 64 ∧
      Tbl.get 0 g.sregs 1 = cap.bits.extractLsb' 64 64 ∧ Tbl.get false g.stags 0 = true ∧
      (∀ i, 1 < i → Tbl.get 0 g.sregs i = 0) ∧
      g.slots = [(0, { occ := true, pc := BitVec.ofNat 54 (d.entry / 8), run := -1, fmt := d.fmt })] := by
  have hget : ∀ i, Tbl.get 0 (startGroup d cap).sregs i =
      if i = 1 then cap.bits.extractLsb' 64 64 else if i = 0 then cap.bits.extractLsb' 0 64 else 0 := fun i => by
    rw [startGroup, Tbl.get_set, Tbl.get_set]
    rfl
  exact ⟨rfl, rfl, hget 0, hget 1, rfl, fun i hi => (hget i).trans (by rw [if_neg (by omega), if_neg (by omega)]), rfl⟩

end State

open State in
/-- Settles O52: each event of the Headbox leaves what its rule says, where the accesses it makes answer. -/
theorem headboxCards : Obligations.HeadboxCards := by
  intro s q c v x k reads writes field past released ofRing only
  refine ⟨fun hboot hq => host_registers hboot hq v, fun bs hreadable hreread htaken hphase hflt hread => ?_,
    fun ctx va rest dev e bs hreadable hrel hready hctx hpassed hfirst =>
      cardFetch_released hreadable hrel hready hctx hpassed hfirst,
    fun t₀ hreadable hreread honly hearly => exec_cardReread_of_early hreadable hreread honly hearly,
    fun t₀ bs hreadable hreread honly hflt hdue hphase hfew hok =>
      exec_cardReread_of_failed hreadable hreread honly hflt hdue hphase hfew hok,
    fun kind hserved => ?_, ?_, ?_, fun bs harmed hflt hdue hread => ?_, fun harmed hpos hdue => ?_, timeout_waits,
    exec_cardComplete_of_unanswered, fun hhas hflt hphase hanswered => ?_, ?_, ?_, taskPost_waits⟩
  · have hexec := exec_cardFetch_of_taken hreadable hreread hphase hflt htaken
    refine ⟨fun hok hfew => ?_, fun hok hmany => ?_, fun hok hbad => ⟨_, hexec, tryCard_misdirects hread hok hbad⟩,
      fun hok hgood hlist => ⟨_, hexec, tryCard_takes hread hok hgood hlist⟩, fun u hok hgood hring => ?_⟩
    · rw [hexec, tryCard_of_failed hread hok, failedRead_of_few hfew]
    · obtain ⟨htorn, hmsi, hmem, hdropped, hkept⟩ := tryCard_tears (q := q) hread hok hmany
      refine ⟨_, hexec, htorn, hmsi, hmem, fun ⟨_, _, hcard, hring⟩ => hdropped hring hcard, fun ⟨hrel, hlist⟩ => ?_⟩
      obtain ⟨hsame, hcard⟩ := hkept hlist
      exact ⟨hsame.trans hrel, hcard⟩
    · rintro w ⟨hwrite, -, hqueues, -, -, -⟩
      obtain ⟨-, hlist⟩ | ⟨-, -, hhead, -⟩ := htaken
      · exact absurd (hring.symm.trans hlist) (by decide)
      · exact ⟨_, hexec, tryCard_sees hread hok hgood hring hhead hwrite hqueues⟩
  · intro s' runs
    refine ⟨?_, fun u hkind hwrites => ?_, fun hkind hcap => ?_, ?_, fun bs hkind hread => ?_, ?_, ?_⟩
    · rintro rfl
      exact chain_runs hserved
    · subst hkind
      exact signal_runs hserved hwrites.1 hwrites.2.2.1
    · subst hkind
      obtain ⟨t, hexec, hrun, hqueue, hmem, cid, hcid, hfree, hcopy⟩ := copy_runs hserved hcap
      exact ⟨t, hexec, hrun, hqueue, hmem, cid, _, hcid, hfree, hcopy, rfl, rfl, rfl, rfl, rfl, rfl⟩
    · rintro rfl
      exact copy_refused hserved
    · subst hkind
      exact ⟨watch_hits hserved hread, watch_arms hserved hread, watch_waits hserved hread⟩
    · rintro d rfl hdesc hlaunch hrecs
      exact task_runs hserved hdesc hlaunch hrecs
    · rintro d bs rfl hdesc hlaunch hrecs hcount halign hread
      exact task_reads hserved hdesc hlaunch hrecs hcount halign hread
  · exact ⟨noteWaiting_eq s, fun h => dispatchStep_of_ready, fun h => dispatchStep_of_due, fun hready hdue =>
      ⟨dispatchStep_of_none hready hdue, dispatchStep_of_chain hready hdue⟩⟩
  · intro d core n hready hdue hqueue hcard hkind hdesc _ hfuse hngrp htok _ hroom hfused
    rw [← noteWaiting_hbx] at hroom
    obtain ⟨t, b, gslot, b₀, hexec, hfree, hblk, hnext, hlive, hgrp, hothers, hmem⟩ :=
      grid_dispatches hready hdue hqueue hcard hkind hdesc hfuse hngrp htok hroom hfused
    refine ⟨t, b, hexec, hfree, ?_⟩
    rw [hblk, hgrp]
    exact ⟨rfl, rfl, rfl, rfl, rfl, rfl, rfl, hnext, hlive, startGroup_fields d k.lcap, hothers, hmem⟩
  · exact ⟨fun hhit => ⟨_, (exec_watchReread_of_due harmed hflt hdue).trans
      (congrArg Host.Outcome.next (readWatch_of_hit hread hhit _)), by simp, by simp; rfl⟩, fun hmiss =>
      (exec_watchReread_of_due harmed hflt hdue).trans (congrArg Host.Outcome.next (readWatch_of_miss hread hmiss _))⟩
  · exact ⟨_, timeout_ends harmed hpos hdue, by simp, by simp; rfl, by simp⟩
  · refine ⟨fun u hsucc hlive hcopy hrun herr hkind hwrites => ?_, fun va rest bs hsucc hreread hread => ?_,
      fun va rest bs u hsucc hdue hread => ?_, fun hsucc hreread => ?_, fun hlive hsucc => ?_⟩
    · obtain ⟨hwrite, -, -, -, hdev, -⟩ := hwrites
      have hexec := cardComplete_ends hhas hflt hanswered hsucc hlive hcopy hrun herr hkind hwrite
      exact ⟨_, hexec, completed_leaves hdev k⟩
    · rw [exec_cardComplete_of_successor hhas hflt hphase hanswered (due_of_none hreread) hsucc, releaseCard_of_bad hread]
    · rintro w left d ⟨hwrite, -, hqueues, -, -, -⟩
      exact ⟨_, exec_cardComplete_of_successor hhas hflt hphase hanswered hdue hsucc,
        releaseCard_releases hread hwrite hqueues⟩
    · exact exec_cardComplete_of_last hhas hflt hphase hanswered (due_of_none hreread) hsucc
    · exact exec_cardComplete_of_unfinished hhas hflt hphase hanswered hsucc (finished_of_live hlive)
  · intro d core r rest hdesc hsucc hrun hflt hassigned hnext hgoes hcore h4 h6
    obtain ⟨t, hexec, hinbox, hmem, hafter⟩ := taskPost_posts hdesc hsucc hrun hflt hassigned hnext hgoes hcore h4 h6
    exact ⟨t, _, hexec, hinbox, rfl, rfl, rfl, rfl, hafter.1, hafter.2.1, hafter.2.2, hmem⟩
  · intro d core r rest hdesc hsucc hrun hflt hassigned hnext hgoes hcore s1 hfits
    exact (exec_taskPost_of_next hdesc hsucc hrun hflt hassigned hnext hgoes hcore).trans
      (congrArg Host.Outcome.next (if_neg (by rw [show s.assigning c core r rest = s1 from rfl, hfits]; decide)))

end Sys2Proof.Machine
end
